-- ==== Sys2Proof/Word.lean ====
section
/-! DEFINITION. The words of the part: 64-bit control registers (00 R6), bytes, and the place of a field in a register. -/
namespace Sys2Proof

/-- A control register's value (00 R6). -/
abbrev Word := BitVec 64

/-- One byte of an addressed memory. -/
abbrev Byte := BitVec 8

/-- The place of a register field: `w` bits from bit `lo` up. -/
structure Field where
  lo : Nat
  w : Nat
deriving DecidableEq, Repr

end Sys2Proof
end

