-- ==== Sys2Proof/Syntax.lean ====
section
/-! DEFINITION. The commands of the part: one constructor for each row of spec/opcode_table.json, with the operands the rule
of its row names. Unit numbers, offsets and lengths are naturals; `Instr.wf` (WellFormed.lean) says which are the part's. -/
namespace Sys2Proof

/-- Who an access comes from, by the classes of Table 05-5: `cls` 0 CLUSTER, 1 MSD, 2 CID, 3 FABRIC; `id` the logical
cluster, the MSD, or of the CID 0 a service core, 1 firmware, 2 Serica Link; `dev` the source device of class FABRIC,
`isCluster` whether that source is a cluster, and `rid` the requestor ID of an access over Serica Link (Table 12-8). -/
structure Source where
  cls : Nat
  id : Nat
  dev : Nat
  isCluster : Bool
  rid : Nat
deriving DecidableEq, Repr

/-- A line access a requester of Table 05-1 presents to a bank: requester, offset, bytes, and the data of a write. -/
structure SpmReq where
  q : Nat
  off : Nat
  size : Nat
  write : Bool
  data : List Byte
deriving DecidableEq, Repr

/-- A fabric head flit (13 Table 13-2), with the lane group it arrives on. `type` and `vc` are its codes; `ids` is op_id with
layer_id above it. -/
structure FabHead where
  type : Nat
  vc : Nat
  src : Nat
  dst : Nat
  slice : Nat
  status : Nat
  beat : Nat
  seq : Nat
  ack : Nat
  addr : Nat
  coll : Nat
  packet : Nat
  ids : Nat
  cmdSeq : Nat
  check : Nat
  lg : Nat
deriving DecidableEq, Repr


/-- The commands. -/
inductive Instr where
  /-- A write to a control register that has no row of its own, checked for ownership, expert level, width and mapping, and applied by its fields' access types (R13). -/
  | controlRegisterWrite (rid : Nat) (o : Nat) (size : Nat) (v : Nat)
  /-- A running mailbox call ends: every result register is written, the completion status is set, BUSY clears and DONE sets (R17). -/
  | mailboxCallComplete (page : Nat) (b : Nat)
  /-- A read of the RC register CL.ESC_LATE_MAX returns the largest lateness and clears it in the same access (R12). -/
  | escLateMaxRead (p : Nat)
  /-- RST_N held low for 10 ms or more resets the whole part, and a warm or cold start follows (R516). -/
  | rstNReset (us : Nat) (vinOk : Bool)
  /-- Bring-up stage 0x01 powers the input stage, always-on banks and galleries in four waves, and samples the straps (R443). -/
  | stagePower (straps : Nat) (refclk : Bool) (shorts : List Nat) (ms : Nat)
  /-- Stage 0x02: the security ROM verifies CID firmware from the flash banks, derives the identity key, and the other firmware is verified (R497). -/
  | stageSecureBoot (b : Nat)
  /-- Stage 0x03 reads the fuse fields and replaces bad scratchpad lines with spare lines (R445). -/
  | stageFusesRead (b : Nat)
  /-- Stage 0x04 merges the fused lists with the field defect map and assigns logical numbers by position (R449). -/
  | stageDefectMerge (b : Nat)
  /-- Stage 0x05 trains every landing FIFO and the escapement trims of the stitched die (R197). -/
  | stagePhaseTraining (failed : List (Nat × Nat)) (b : Nat)
  /-- Stage 0x06 trains UCIe and HBM, zeroes HBM with consistent parity, installs a proxy for a single failed stack and first publishes the distance table (R217). -/
  | stageMemoryTraining (failed : List Nat) (b : Nat)
  /-- Stage 0x07 runs cluster self-tests or trials, marks failures bad, puts spares in STANDBY and parks all-spare galleries (R444). -/
  | stageSelfTests (fails : List Nat) (b : Nat)
  /-- Stage 0x08 trains fabric links, runs discovery and completes when the role condition holds and no link is miswired (R378). -/
  | stageTopologyDiscovery (refBeat : Nat) (b : Nat)
  /-- A device whose role condition does not hold 400 ms into stage 0x08 stops start-up at that stage (R378). -/
  | discoveryTimeout (b : Nat)
  /-- Stage 0x09 loads the boot image from flash, admits it and activates it, then the part reaches READY (R277). -/
  | stageCalibreLoad (bad : List Nat) (b : Nat)
  /-- A service stair READ frame carries a control-space read to its unit (R204). -/
  | stairRead (tag : Nat) (o : Nat)
  /-- A service stair WRITE frame carries a control-space write to its unit (R204). -/
  | stairWrite (tag : Nat) (rid : Nat) (o : Nat) (v : Nat)
  /-- A service stair RESPONSE frame returns the answer to a request with the matching tag (R206). -/
  | stairResponse (tag : Nat) (unit : Nat)
  /-- A service stair FENCE frame fences a unit (R204). -/
  | stairFence (node : Nat) (quad : Nat) (unit : Nat)
  /-- A service stair UNFENCE frame returns a fenced unit toward service (R204). -/
  | stairUnfence (node : Nat) (quad : Nat) (unit : Nat)
  /-- A service stair PARK frame parks a gallery (R204). -/
  | stairPark (node : Nat) (quad : Nat)
  /-- A service stair UNPARK frame powers a parked gallery back up (R204). -/
  | stairUnpark (node : Nat) (quad : Nat)
  /-- A service stair REPORT frame carries a fault report with its beat up to the root (R206). -/
  | stairReport (kind : Nat) (unit : Nat) (cause : Nat) (unitCause : Nat) (at_ : Nat) (b : Nat)
  /-- A SNAPSHOT_DATA frame carries a bank's counter shadow to the root for the snapshot area (R474). -/
  | stairSnapshotData (id : Nat) (off : Nat)
  /-- A stair frame fails its CRC and is refused and resent; after three failures the link is reported failed (R204). -/
  | stairFrameCrcFail (k : Nat) (again : Bool)
  /-- The CTL.NOP command launches and does nothing (R116). -/
  | ctlNop (p : Nat) (st : Nat) (b : Nat)
  /-- The CTL.MARK command writes its 32-bit tag to the trace (R116). -/
  | ctlMark (p : Nat) (st : Nat) (b : Nat)
  /-- The CTL.JUMP command sets the stream's next command index (R120). -/
  | ctlJump (p : Nat) (st : Nat) (b : Nat)
  /-- The CTL.LOOP_SET command loads a loop counter (R120). -/
  | ctlLoopSet (p : Nat) (st : Nat) (b : Nat)
  /-- The CTL.LOOP command decrements a loop counter and jumps if it is not 0 (R120). -/
  | ctlLoop (p : Nat) (st : Nat) (b : Nat)
  /-- The CTL.EXEC command reads and checks a dynamic block from scratchpad and runs it (R121). -/
  | ctlExec (p : Nat) (st : Nat) (b : Nat)
  /-- The CTL.HALT command makes its stream HALTED (R120). -/
  | ctlHalt (p : Nat) (st : Nat) (b : Nat)
  /-- The SEM.SET command sets a local semaphore (R124). -/
  | semSet (p : Nat) (st : Nat) (b : Nat)
  /-- The SEM.ADD command adds to a local semaphore (R124). -/
  | semAdd (p : Nat) (st : Nat) (b : Nat)
  /-- The SEM.SIGNAL command sends an increment to a semaphore of another cluster or device (R125). -/
  | semSignal (p : Nat) (st : Nat) (b : Nat)
  /-- A semaphore signal arrives at its target cluster, which applies it or refuses it (R125). -/
  | semSignalArrive (t : Nat) (sem : Nat) (n : Nat) (dev : Nat) (src : Nat) (tag : Nat)
  /-- The acknowledgement of a SEM.SIGNAL reaches the sender, which completes or fails the command (R125). -/
  | signalAck (p : Nat) (tag : Nat) (status : Nat)
  /-- The FENCE.REL command launches and holds its stream until every earlier write of its scope is accepted (R128). -/
  | fenceRel (p : Nat) (st : Nat) (b : Nat)
  /-- The last covered write of a FENCE.REL is accepted or refused and the fence completes (R128). -/
  | fenceRelComplete (p : Nat) (st : Nat)
  /-- The FENCE.ACQ command launches and completes in the next cycle, ordering later reads (R129). -/
  | fenceAcq (p : Nat) (st : Nat) (b : Nat)
  /-- The MAT.RUN command launches a matrix run from a run descriptor (R53). -/
  | matRun (p : Nat) (st : Nat) (b : Nat)
  /-- A run or readout descriptor arrives from scratchpad and is checked before any operand fetch (R54). -/
  | matDescArrive (p : Nat)
  /-- A weight, scale or metadata line arrives in a feeder queue and fills a shadow weight register (R57). -/
  | feederLineArrive (p : Nat) (r : Nat)
  /-- An activation line arrives in the activation staging buffer (R60). -/
  | actLineArrive (p : Nat)
  /-- A pass begins when every ungated row's shadow is complete: the weight registers swap and rows are broadcast (R58). -/
  | matPassStart (p : Nat)
  /-- A tree result enters its slot 6 cluster cycles after its activation row was broadcast (R48). -/
  | matSlotUpdate (p : Nat)
  /-- The last result of a run enters its slots and the run completes (R119). -/
  | matRunComplete (p : Nat)
  /-- The MAT.READOUT command launches a readout of slots to scratchpad (R67). -/
  | matReadout (p : Nat) (st : Nat) (b : Nat)
  /-- A readout copies its slots into the readout shadow, checks parity and clears them unless KEEP is set (R68). -/
  | matReadoutCopy (p : Nat) (bad : List Nat)
  /-- One slot of the readout shadow is scaled, converted and written to scratchpad (R70). -/
  | matReadoutDrain (p : Nat)
  /-- The last readout write is accepted by its bank and the readout completes (R70). -/
  | matReadoutComplete (p : Nat)
  /-- The MAT.CLEAR command sets every slot to +0 and valid (R71). -/
  | matClear (p : Nat) (st : Nat) (b : Nat)
  /-- A write to CL.MAT_CTRL sets gating and ungating limits for the next MAT.RUN launched (R78). -/
  | matCtrlWrite (rid : Nat) (l : Nat) (v : Nat)
  /-- An expert write to CL.ARITH_CTRL.REPRO overrides the image's arithmetic mode for one cluster from the next vector command (R106). -/
  | arithCtrlWrite (rid : Nat) (l : Nat) (repro : Nat)
  /-- The VEC.EW command performs element-wise arithmetic (R132). -/
  | vecEw (p : Nat) (st : Nat) (b : Nat)
  /-- The VEC.SFU command evaluates special functions, or ABS and NEG (R101). -/
  | vecSfu (p : Nat) (st : Nat) (b : Nat)
  /-- The VEC.RED command reduces each row to a sum, sum of squares, maximum, minimum or argmax (R98). -/
  | vecRed (p : Nat) (st : Nat) (b : Nat)
  /-- The VEC.SMAX command computes softmax or an online softmax update over rows (R100). -/
  | vecSmax (p : Nat) (st : Nat) (b : Nat)
  /-- The VEC.NORM command computes RMS or layer normalisation of rows (R133). -/
  | vecNorm (p : Nat) (st : Nat) (b : Nat)
  /-- The VEC.CVT command converts, quantises or dequantises values (R131). -/
  | vecCvt (p : Nat) (st : Nat) (b : Nat)
  /-- The VEC.MOVE command copies, fills or transposes data (R132). -/
  | vecMove (p : Nat) (st : Nat) (b : Nat)
  /-- The last write of a vector command is accepted and the command completes (R119). -/
  | vecComplete (p : Nat)
  /-- The DMA.SUBMIT command copies stream engine descriptors into a context's queue (R137). -/
  | dmaSubmit (p : Nat) (st : Nat) (b : Nat)
  /-- A stream engine descriptor starts in queue order, is checked and begins moving bytes (R140). -/
  | dmaDescStart (p : Nat) (c : Nat) (j : Nat)
  /-- Every write of a descriptor has been accepted or refused and it completes, completing its submit when last (R141). -/
  | dmaDescComplete (p : Nat) (c : Nat) (j : Nat)
  /-- A descriptor fails on a refused write, uncorrectable word or error response, putting its context into ERROR (R142). -/
  | dmaDescFail (p : Nat) (c : Nat) (j : Nat)
  /-- A write of CL.STREAM_CTL with RESUME restarts a HALTED or ERROR stream at PC_SET (R143). -/
  | clStreamCtlResume (rid : Nat) (l : Nat) (st : Nat) (pc : Nat)
  /-- A write of CL.STREAM_CTL with STOP makes a stream launch nothing more and become HALTED (R143). -/
  | clStreamCtlStop (rid : Nat) (l : Nat) (st : Nat)
  /-- A direct write of CL.SEM acts as SEM.SET on a semaphore (R124). -/
  | clSemWrite (rid : Nat) (l : Nat) (sem : Nat) (v : Nat)
  /-- A write of CL.DMA_CTX_CLR returns named contexts from ERROR to IDLE (R142). -/
  | dmaCtxClrWrite (rid : Nat) (l : Nat) (mask : Nat)
  /-- The STREAM_STATUS service returns CL.STREAM of a stream (R145). -/
  | streamStatus (rid : Nat) (l : Nat) (a0 : Nat)
  /-- The STREAM_RESUME service resumes a HALTED or ERROR stream at an index (R145). -/
  | streamResume (rid : Nat) (l : Nat) (a0 : Nat) (a1 : Nat)
  /-- The STREAM_STOP service stops a stream as a write of STOP does (R145). -/
  | streamStop (rid : Nat) (l : Nat) (a0 : Nat)
  /-- The CTX_CLEAR service clears a stream engine context from ERROR (R145). -/
  | ctxClear (rid : Nat) (l : Nat) (a0 : Nat)
  /-- The SEM_SET service sets a semaphore and returns its previous value (R145). -/
  | mbxSemSet (rid : Nat) (l : Nat) (a0 : Nat) (a1 : Nat)
  /-- The CL ERR_READ service returns CL.CMD_ERR and its counter (R145). -/
  | clErrRead (rid : Nat) (l : Nat)
  /-- A scratchpad line access wins its bank's arbitration and completes after its quarter-distance latency (R149). -/
  | spmAccess (p : Nat) (reqs : List SpmReq) (ecc : Nat) (ew : Nat)
  /-- A bank writes back a corrected word in its next cycle free of granted accesses (R156). -/
  | eccWriteback (p : Nat) (word : Nat)
  /-- A bank's scrubber reads and checks one line every 1,024 cluster cycles (R158). -/
  | scrubRead (p : Nat) (bank : Nat) (ecc : Nat) (ew : Nat) (displaced : List Nat)
  /-- A CLOSE request moves named bank ranges from OPEN to CLOSED (R160). -/
  | rangeClose (rid : Nat) (l : Nat) (mask : Nat)
  /-- An OPEN request moves named bank ranges from CLOSED to OPEN (R160). -/
  | rangeOpen (rid : Nat) (l : Nat) (mask : Nat)
  /-- An OFF request moves named CLOSED ranges to BUSY pending power-down (R160). -/
  | rangeOff (rid : Nat) (l : Nat) (mask : Nat)
  /-- An ON request starts the power ramp of named OFF ranges (R160). -/
  | rangeOn (rid : Nat) (l : Nat) (mask : Nat)
  /-- A BUSY range's in-flight and reservation counts reach 0 and it powers down to OFF (R163). -/
  | rangePowerDown (p : Nat) (k : Nat)
  /-- A range's power ramp and zeroing end and it becomes CLOSED with every byte 0 (R164). -/
  | rangeOnComplete (p : Nat) (k : Nat)
  /-- An access through a window arrives at the target router port and is checked and accepted or refused (R169). -/
  | windowAccess (src : Source) (tag : Nat) (l : Nat) (w : Nat) (gen : Nat) (off : Nat) (size : Nat) (write : Bool) (data : List Byte)
  /-- A CID-class access by device address to a scratchpad is taken through the first window that admits it (R176). -/
  | spmAddrAccess (src : Source) (tag : Nat) (l : Nat) (off : Nat) (size : Nat) (write : Bool) (data : List Byte)
  /-- A write of CL.WIN_OPEN opens the named windows if all pass their checks (R172). -/
  | winOpenWrite (rid : Nat) (l : Nat) (mask : Nat)
  /-- A write of CL.WIN_CLOSE closes named OPEN windows, raising their generation and making them CLOSING (R173). -/
  | winCloseWrite (rid : Nat) (l : Nat) (mask : Nat)
  /-- The last accepted access of a CLOSING window completes and the window becomes CLOSED (R173). -/
  | windowDrained (p : Nat) (w : Nat)
  /-- The WIN_OPEN service writes a window's fields and opens it as one act (R178). -/
  | winOpen (rid : Nat) (l : Nat) (a0 : Nat) (a1 : Nat) (a2 : Nat)
  /-- The WIN_CLOSE service closes a window and completes when it is CLOSED (R179). -/
  | winClose (rid : Nat) (l : Nat) (a0 : Nat)
  /-- The WIN_STATUS service returns a window's registers (R178). -/
  | winStatus (rid : Nat) (l : Nat) (a0 : Nat)
  /-- The RANGE_SET service requests a bank range operation and completes when no named range is BUSY (R178). -/
  | rangeSet (rid : Nat) (l : Nat) (a0 : Nat) (a1 : Nat)
  /-- The ECC_READ service returns CL.SPM_ECC and its counters (R178). -/
  | eccRead (rid : Nat) (l : Nat)
  /-- A packet enters the mesh at its source router, which maps its destination or refuses a vacant number (R185). -/
  | meshPacketInject (p : Nat) (dst : Nat) (vc : Nat) (flits : Nat) (tag : Nat)
  /-- A flit fails its CRC and is resent with every later flit; repeated failure declares the link failed (R191). -/
  | meshFlitRetry (p : Nat) (port : Nat) (again : Bool)
  /-- The refusal responder of a stopped cluster answers a request addressed to it with a refusal (R195). -/
  | responderRefuse (p : Nat) (kind : Nat) (tag : Nat)
  /-- A request without a response for 100 µs fails at its sender with REMOTE_ERR (R192). -/
  | meshRequestTimeout (p : Nat) (tag : Nat)
  /-- A landing's phase offset leaves −3 to +3 and the landing switches to handshake mode (R198). -/
  | landingHandshakeEnter (p : Nat) (port : Nat) (offset : Nat)
  /-- After 4,096 cycles within ±1 the landing re-centres its FIFO and returns to mesochronous mode (R198). -/
  | landingRecentre (p : Nat) (port : Nat) (offset : Nat)
  /-- A write of CL.RTR_DETOUR writes the router's shadow detour table (R190). -/
  | detourWrite (rid : Nat) (l : Nat) (e : Nat) (v : Nat)
  /-- A write of CL.RTR_COMMIT arms a commit of the shadow detour table at a beat (R190). -/
  | rtrCommitArm (rid : Nat) (l : Nat) (beat : Nat)
  /-- The commit beat is reached and the shadow detour table becomes active (R207). -/
  | rtrCommit (p : Nat) (b : Nat)
  /-- A logical map change installed at a named beat takes effect in every router (R185). -/
  | mapChange (b : Nat)
  /-- Firmware writes the distance table copy not in force and updates BRU.DIST in one write (R202). -/
  | distPublish
  /-- A line read of HBM arrives at an MSD, opens or joins a combining entry and issues the DRAM read (R229). -/
  | hbmRead (req : Nat) (a : Nat) (size : Nat)
  /-- DRAM data of a read returns with its ECC severity and is sent, rebuilt or refused (R247). -/
  | hbmReadData (a : Nat) (sev : Nat)
  /-- A combining entry closes 128 MSD cycles after its first read arrived (R229). -/
  | combineExpire (a : Nat)
  /-- A line write to HBM reads the old line and sends a parity delta to the parity MSD (R219). -/
  | hbmWrite (req : Nat) (a : Nat) (data : List Byte)
  /-- A parity delta arrives at the parity MSD, which applies it to the parity line and acknowledges (R219). -/
  | parityDelta (a : Nat)
  /-- The parity MSD's acknowledgement reaches the data MSD and the write is accepted (R219). -/
  | parityAck (a : Nat)
  /-- The parity MSD locks the parity line, reads the other data lines and rebuilds a line for its requester (R220). -/
  | lineReconstruct (a : Nat)
  /-- A per-bank refresh is issued on its refresh interval (R210). -/
  | refresh (n : Nat) (pc : Nat)
  /-- The stack temperature is read every 1 ms, setting or clearing REFRESH_X2 and reporting DRAM_HOT (R211). -/
  | dramTempRead (n : Nat) (t : Nat)
  /-- An MSD is found failed, set FAILED, and a proxy is prepared; a second failure loses both stacks (R221). -/
  | msdFail (n : Nat) (why : Nat)
  /-- At a named beat the proxy of a failed or offline MSD takes over its packets in every router (R222). -/
  | proxyInstall (n : Nat) (b : Nat)
  /-- A REBUILDING MSD finishes rewriting its logged units, leaves the proxy and becomes SERVING (R226). -/
  | rebuildComplete (n : Nat) (b : Nat)
  /-- The daily patrol scrub reads, repairs and checks the parity of every stack line (R248). -/
  | patrolScrub (n : Nat) (o : Nat) (sev : Nat)
  /-- A producer writes an engine queue's producer index, making new commands ready or overrunning the ring (R234). -/
  | engineDoorbell (src : Source) (n : Nat) (q : Nat) (idx : Nat)
  /-- An engine command starts and is checked in order before it reads anything (R237). -/
  | seCommandStart (n : Nat) (q : Nat)
  /-- The SE.NOP engine command does nothing (R237). -/
  | seNop (n : Nat) (q : Nat)
  /-- The SE.ATTN engine command computes attention over the stack's key/value pages and writes records (R242). -/
  | seAttn (n : Nat) (q : Nat)
  /-- The SE.GATHER engine command copies indexed table rows (R244). -/
  | seGather (n : Nat) (q : Nat)
  /-- The SE.TOPK engine command scores the stack's index vectors and writes the top k records (R245). -/
  | seTopk (n : Nat) (q : Nat)
  /-- The SE.DIGEST engine command writes a SHAKE256 digest of a labelled range (R246). -/
  | seDigest (n : Nat) (q : Nat)
  /-- The SE.FENCE engine command completes when every earlier command of its queue has completed (R237). -/
  | seFence (n : Nat) (q : Nat)
  /-- An engine command's last result write is accepted and done_add is sent to its target (R238). -/
  | seCommandComplete (n : Nat) (q : Nat)
  /-- A write of MSD.SLOT_CTL.APPLY requests that the shadow slot table become active (R235). -/
  | slotApplyWrite (rid : Nat) (n : Nat) (wc : Nat)
  /-- At the next slot 0 the shadow slot table becomes active (R235). -/
  | slotTableSwitch (n : Nat)
  /-- The MSD STATUS service returns MSD.STATUS (R249). -/
  | msdStatus (rid : Nat) (n : Nat)
  /-- The OFFLINE service takes one MSD out of service behind its proxy (R226). -/
  | offline (rid : Nat) (n : Nat)
  /-- The ONLINE service starts rebuilding an OFFLINE MSD back to SERVING (R226). -/
  | online (rid : Nat) (n : Nat)
  /-- The QUEUE_CLEAR service returns an engine queue from ERROR to IDLE (R249). -/
  | queueClear (rid : Nat) (n : Nat) (q : Nat)
  /-- The PARITY_MODE service records the stack parity choice in flash for the next start-up (R217). -/
  | parityMode (rid : Nat) (n : Nat) (on : Nat)
  /-- The MSD ERR_READ service returns MSD.ERR and its counters (R249). -/
  | msdErrRead (rid : Nat) (n : Nat)
  /-- The LOAD service starts admission of a calibre image into the staging slot (R266). -/
  | imageLoad (rid : Nat) (a0 : Nat) (a1 : Nat)
  /-- Admission checks and blob digests end and the staging slot becomes ADMITTED or EMPTY (R266). -/
  | admissionComplete (bad : List Nat)
  /-- The DISCARD service empties the staging slot (R279). -/
  | imageDiscard (rid : Nat)
  /-- The SWITCH service arms the staging image for a switch beat (R270). -/
  | imageSwitch (rid : Nat) (a0 : Nat)
  /-- The CANCEL service returns an armed staging image to ADMITTED before the stop beat (R272). -/
  | calCancel (rid : Nat)
  /-- The ROLLBACK service arms a commanded rollback to the previous image (R275). -/
  | imageRollback (rid : Nat) (a0 : Nat)
  /-- The CONFIRM service ends the watch and makes the image ACTIVE (R274). -/
  | confirm (rid : Nat)
  /-- The HEALTH_FAIL service fails the watch when its health bit is set (R274). -/
  | healthFail (rid : Nat)
  /-- The RELEASE_PREVIOUS service empties the previous slot and ends its blob protection (R276). -/
  | releasePrevious (rid : Nat)
  /-- The STORE_BOOT service writes a slot's image to flash as the boot image (R277). -/
  | storeBoot (rid : Nat) (a0 : Nat)
  /-- The CAL STATUS service returns the slot states and switch status (R279). -/
  | calStatus (rid : Nat)
  /-- The stop beat T is reached and the batcher starts no further step of the outgoing image (R271). -/
  | switchStopBeat (b : Nat)
  /-- The outgoing image's work has drained (R271). -/
  | switchDrained
  /-- The beat V is reached: an undrained switch aborts, otherwise the part activates the staging image (R271). -/
  | switchActivationStart (b : Nat) (bad : List Nat)
  /-- The switch beat S is reached: detours take effect, streams start and the incoming image enters WATCH (R271). -/
  | switchBeat (b : Nat)
  /-- The watch window ends with no failed condition and the image becomes ACTIVE (R274). -/
  | watchEnd (b : Nat)
  /-- A selected health condition fails the watch and an automatic rollback is armed or blocked (R275). -/
  | watchFail (c : Nat) (b : Nat)
  /-- An escapement marker arrives at a leaf, which steps forward or holds to the marker's count (R283). -/
  | escMarker (leaf : Nat) (behind : Nat) (ahead : Nat)
  /-- Every 10 ms a device exchanges round trips with its reference and trims its escapement reference (R293). -/
  | alignExchange (b : Nat)
  /-- No alignment exchange completes for 100 ms: ALIGNED clears and ALIGN_LOST is reported (R294). -/
  | alignLost (b : Nat)
  /-- A write of ESC.TRIG_CTL.ARMED arms a trigger in every leaf (R297). -/
  | trigCtlArm (rid : Nat) (t : Nat) (action : Nat)
  /-- A trigger's beat is reached and its action takes effect in every unit (R297). -/
  | triggerFire (t : Nat) (b : Nat)
  /-- The NOW service returns the current beat (R298). -/
  | escNow (rid : Nat)
  /-- The ALIGN_STATUS service returns the alignment registers (R298). -/
  | alignStatus (rid : Nat)
  /-- The TRIG_ARM service sets a trigger's beat and action and arms it in every leaf (R297). -/
  | trigArm (rid : Nat) (a0 : Nat) (a1 : Nat) (a2 : Nat)
  /-- The TRIG_CANCEL service disarms a trigger before B − 10,000 (R297). -/
  | trigCancel (rid : Nat) (a0 : Nat)
  /-- The ESC FAULT_READ service returns ESC.FAULT and its counters (R298). -/
  | escFaultRead (rid : Nat)
  /-- Intake visits a request ring and takes one descriptor whose index and PHASE allow it (R303). -/
  | intakeDescriptor (r : Nat)
  /-- A SUBMIT descriptor is checked, tokenised and copied, and the request waits for the batcher (R306). -/
  | reqSubmit
  /-- A CANCEL descriptor marks a live request to end with CANCELLED at the next step boundary (R307). -/
  | reqCancel
  /-- At a step boundary the batcher applies cancels, releases, restores, admits and assigns prompt chunks (R311). -/
  | stepBoundary (b : Nat)
  /-- A request still waiting wait_limit beats after intake read it ends with TIMEOUT (R312). -/
  | waitLimitTimeout (b : Nat)
  /-- The 16 top-k lists arrive and are merged, and passages are fetched and prepended (R318). -/
  | retrievalMerge (ring : Nat) (id : Nat) (lists : List (List (Nat × Nat)))
  /-- The sampler turns a position's logits into a chosen token, verifying drafts when present (R319). -/
  | sampleToken (ring : Nat) (id : Nat) (logits : List (List Nat)) (drafts : List (Nat × List Nat)) (b : Nat)
  /-- The streamer writes a TEXT or END answer record into a free slot of the answer ring (R323). -/
  | answerRecordWrite (ring : Nat) (id : Nat)
  /-- flush_beats pass since the first pending byte and a TEXT record is written (R323). -/
  | answerFlushTimeout (ring : Nat) (id : Nat) (b : Nat)
  /-- An answer record's CMP arrives and the producer index is written, with an optional EVT (R354). -/
  | answerIndexWrite (ans : Nat)
  /-- An answer ring stays full for answer_stall_beats and the request ends with RING_FULL (R324). -/
  | answerStallTimeout (ring : Nat) (id : Nat) (b : Nat)
  /-- A service core misses its heartbeat for 1 ms and its work moves to the remaining cores (R299). -/
  | coreFail (k : Nat)
  /-- A write of SVC.ADMIT_CTL.ADMIT starts or stops intake (R36). -/
  | admitCtlWrite (rid : Nat) (on : Nat)
  /-- The RING_OPEN service opens a request or answer ring (R301). -/
  | ringOpen (rid : Nat) (a0 : Nat) (a1 : Nat) (a2 : Nat) (a3 : Nat)
  /-- The RING_CLOSE service closes a ring with no unread slots or live requests (R327). -/
  | ringClose (rid : Nat) (a0 : Nat) (a1 : Nat)
  /-- The RING_STATUS service returns a ring's state and indexes (R327). -/
  | ringStatus (rid : Nat) (a0 : Nat) (a1 : Nat)
  /-- The TOK_LOAD service verifies and loads a tokeniser table into a slot (R308). -/
  | tokLoad (rid : Nat) (a0 : Nat) (a1 : Nat) (a2 : Nat)
  /-- The TOK_UNLOAD service unloads a tokeniser table not named by an image (R308). -/
  | tokUnload (rid : Nat) (a0 : Nat)
  /-- The SVC CANCEL service cancels a live request without using a ring (R307). -/
  | svcCancel (rid : Nat) (a0 : Nat) (a1 : Nat)
  /-- The REQ_STATUS service returns a request's phase and positions (R327). -/
  | reqStatus (rid : Nat) (a0 : Nat) (a1 : Nat)
  /-- The ADMIT service writes SVC.ADMIT_CTL.ADMIT without EXPERT_EN (R327). -/
  | svcAdmit (rid : Nat) (a0 : Nat)
  /-- The PREFIX_FLUSH service frees every unreferenced cached prefix set (R327). -/
  | prefixFlush (rid : Nat)
  /-- The STATS service returns SVC status and counts and clears RING_FULL (R327). -/
  | svcStats (rid : Nat)
  /-- A Serica port trains at x16 or x8 and reaches L0, or stays DOWN (R337). -/
  | serPortTrain (port : Nat) (width : Nat) (rate : Nat) (reversed : Nat)
  /-- An INIT flit is received and the port becomes UP when both sides have exchanged INIT (R341). -/
  | serInitFlit (port : Nat) (version : Nat) (flags : Nat) (node : Nat) (req : Nat) (snp : Nat) (data : Nat)
  /-- A flit unacknowledged for 1 ms or a receiver leaving L0 makes the port DOWN (R338). -/
  | serPortDown (port : Nat)
  /-- A reserved flit, slot or header is received and the port goes DOWN to retrain (R342). -/
  | serProtocolError (port : Nat)
  /-- A RD_SHARED request is served by the home agent for a shared or exclusive copy (R351). -/
  | rdShared (port : Nat) (tag : Nat) (line : Nat)
  /-- A RD_OWN request is served by the home agent for an exclusive copy (R351). -/
  | rdOwn (port : Nat) (tag : Nat) (line : Nat)
  /-- An UPGRADE request raises a held shared line to exclusive (R351). -/
  | upgrade (port : Nat) (tag : Nat) (line : Nat)
  /-- An EVICT_DIRTY request returns a modified line to the home (R351). -/
  | evictDirty (port : Nat) (tag : Nat) (line : Nat) (data : List Byte)
  /-- An EVICT_CLEAN request gives up an unmodified exclusive or shared line (R351). -/
  | evictClean (port : Nat) (tag : Nat) (line : Nat)
  /-- A RD_NC request reads bytes without caching (R345). -/
  | rdNc (port : Nat) (tag : Nat) (src : Nat) (a : Nat) (lg : Nat)
  /-- A WR_LINE request writes a whole line (R345). -/
  | wrLine (port : Nat) (tag : Nat) (src : Nat) (line : Nat) (data : List Byte)
  /-- A WR_PART request writes the masked bytes of a line (R345). -/
  | wrPart (port : Nat) (tag : Nat) (src : Nat) (line : Nat) (mask : Nat) (data : List Byte)
  /-- A CMP response completes an outstanding request (R344). -/
  | cmp (port : Nat) (tag : Nat)
  /-- A CMP_DATA response returns a line with its granted state (R344). -/
  | cmpData (port : Nat) (tag : Nat) (state : Nat) (data : List Byte)
  /-- An ERR response fails an outstanding request with a status (R355). -/
  | errResponse (port : Nat) (tag : Nat) (status : Nat)
  /-- A SNP_ACK answers a snoop with the state left (R352). -/
  | snpAck (port : Nat) (tag : Nat) (line : Nat) (state : Nat)
  /-- A SNP_DATA answers a snoop with dirty data, written to HBM before the requester's response (R351). -/
  | snpData (port : Nat) (tag : Nat) (line : Nat) (state : Nat) (data : List Byte)
  /-- A SNP_INV snoop makes the agent drop a line (R352). -/
  | snpInv (port : Nat) (tag : Nat) (line : Nat)
  /-- A SNP_SHARE snoop makes the agent keep at most a shared copy (R352). -/
  | snpShare (port : Nat) (tag : Nat) (line : Nat)
  /-- A unit of the part reads or writes a line of the coherent region through the home agent, snooping holders (R351). -/
  | homeAgentAccess (src : Source) (tag : Nat) (a : Nat) (size : Nat) (write : Bool) (data : List Byte)
  /-- A request of the part unanswered for 10 ms fails with TIMEOUT (R346). -/
  | serRequestTimeout (port : Nat) (tag : Nat)
  /-- No eviction follows a SNP_ACK I within 1 ms and the home keeps the HBM value and sets LOST_LINE (R352). -/
  | snoopEvictTimeout (line : Nat)
  /-- A STAND command enters a candidate with a priority (R361). -/
  | ownStand (rid : Nat) (prio : Nat) (b : Nat)
  /-- A WITHDRAW command removes a candidate's standing (R361). -/
  | ownWithdraw (rid : Nat) (b : Nat)
  /-- A RENEW command extends the owner's lease by 100 ms (R361). -/
  | ownRenew (rid : Nat) (b : Nat)
  /-- A RESIGN command ends ownership and opens an election (R361). -/
  | ownResign (rid : Nat) (b : Nat)
  /-- An OFFER command offers ownership to a standing candidate (R361). -/
  | ownOffer (rid : Nat) (cand : Nat) (b : Nat)
  /-- An ACCEPT command by the offered candidate transfers ownership (R361). -/
  | ownAccept (rid : Nat) (b : Nat)
  /-- An election closes 10 ms after it opened and the winning candidate becomes owner (R361). -/
  | electionClose (b : Nat)
  /-- The owner's lease end is reached, its standing and grants are removed and an election opens (R362). -/
  | leaseEnd (b : Nat)
  /-- An offer unaccepted for 100 ms lapses and ownership is unchanged (R361). -/
  | offerExpire (b : Nat)
  /-- A write of SER.COH sets the coherent region while both ports are down or detached (R349). -/
  | serCohWrite (rid : Nat) (v : Nat)
  /-- The owner writes SER.GRANT to grant or revoke control-space writes (R363). -/
  | grantWrite (rid : Nat) (g : Nat) (v : Nat)
  /-- The PORT_STATUS service returns a port's registers (R364). -/
  | portStatus (rid : Nat) (p : Nat)
  /-- The DETACH service removes a port without loss (R359). -/
  | detach (rid : Nat) (p : Nat)
  /-- The ATTACH service trains a detached port again (R359). -/
  | attach (rid : Nat) (p : Nat)
  /-- A port is not UP 100 ms after ATTACH and the call completes with TIMEOUT (R364). -/
  | attachTimeout (b : Nat)
  /-- The OWNER_STATUS service returns the ownership registers (R364). -/
  | ownerStatus (rid : Nat)
  /-- The FILTER_STATUS service returns snoop filter usage (R364). -/
  | filterStatus (rid : Nat)
  /-- A HELLO packet arrives on a fabric link and the link is judged AGREE or MISWIRED (R377). -/
  | fabHello (lg : Nat) (lane : Nat) (dev : Nat) (plg : Nat) (plane : Nat) (role : Nat) (n : Nat) (g : Nat)
  /-- Every 1 ms a fabric die sends HELLO over each trained link (R376). -/
  | helloSendTick
  /-- A link not trained 200 ms into stage 0x08 is ABSENT (R377). -/
  | linkAbsentTimeout
  /-- A MEMBERS control message lists the slots of a group whose side links agree (R378). -/
  | ctrlMembers (h : FabHead) (mask : Nat)
  /-- A GROUPS control message from the principal lists the agreeing groups (R378). -/
  | ctrlGroups (h : FabHead) (mask : Nat)
  /-- A fabric WRITE packet is accepted in order and delivered to its window or area (R385). -/
  | fabWrite (h : FabHead) (cl : Nat) (data : List Byte)
  /-- A fabric SIGNAL packet delivers a semaphore increment to a cluster (R385). -/
  | fabSignal (h : FabHead)
  /-- A fabric ACK acknowledges packets cumulatively or returns a refusal status (R384). -/
  | fabAck (h : FabHead)
  /-- A fabric NAK makes the source resend from the named number (R384). -/
  | fabNak (h : FabHead)
  /-- At least every 1 µs the destination sends a cumulative ACK (R384). -/
  | fabAckTick
  /-- No ACK for 50 µs and the source resends from its oldest unacknowledged packet (R384). -/
  | e2eRetryTimeout (dev : Nat) (ch : Nat)
  /-- A fabric flit fails its CRC and is resent with every later flit (R366). -/
  | fabFlitRetry (lg : Nat) (n : Nat) (again : Bool)
  /-- A COLL packet arrives at its owner, is checked and reduced in member order (R392). -/
  | fabCollPacket (h : FabHead) (data : List Byte)
  /-- A BARRIER packet records a member's arrival at a barrier (R386). -/
  | fabBarrier (h : FabHead)
  /-- A RELEASE packet ends a barrier at a member (R386). -/
  | fabRelease (h : FabHead)
  /-- A TIME packet carries alignment timestamps between a device and its reference (R293). -/
  | fabTime (h : FabHead) (t1 : Nat) (t2 : Nat) (t3 : Nat) (answer : Bool)
  /-- An ANSWER packet carries a worker's answer record to its manager's streamer (R399). -/
  | fabAnswer (h : FabHead) (data : List Byte)
  /-- A HEARTBEAT control message marks a member or manager live (R398). -/
  | ctrlHeartbeat (h : FabHead) (gen : Nat) (aligned : Nat)
  /-- Every 1 ms a member and its manager send each other HEARTBEAT (R398). -/
  | heartbeatTick
  /-- No heartbeat for 10 ms declares a member lost and fails its collectives (R398). -/
  | memberLost (t : Nat) (b : Nat)
  /-- A DIGEST control message reports a device's weight digest to its manager (R400). -/
  | ctrlDigest (h : FabHead) (set : Nat) (gen : Nat) (step : Nat) (value : List Byte)
  /-- At a digest step a device computes its replica digest and sends DIGEST (R461). -/
  | digestReport (b : Nat)
  /-- 100 ms after the first report the manager compares digests and expels an odd one out (R400). -/
  | digestCompare (set : Nat) (gen : Nat) (step : Nat) (b : Nat)
  /-- An EXPEL control message expels a device, which runs trials, a replay and blob re-digests (R462). -/
  | ctrlExpel (h : FabHead) (expel : Bool) (fails : List Nat) (rb : Nat)
  /-- A SWITCH control message carries a group switch to a member (R403). -/
  | ctrlSwitch (h : FabHead) (op : Nat) (gen : Nat) (beat : Nat)
  /-- A SWITCH_ACK control message answers a group switch (R403). -/
  | ctrlSwitchAck (h : FabHead) (status : Nat) (gen : Nat)
  /-- A COLL_FAIL control message fails a collective on every member (R394). -/
  | ctrlCollFail (h : FabHead) (id : Nat) (cause : Nat)
  /-- A manager routes a request from its rings to a chosen member's routing area and ring (R399). -/
  | routeRequest (ring : Nat) (log2n : Nat) (area : Nat)
  /-- A lane losing block lock for 1 ms is failed and its link retrains at half width or fails (R395). -/
  | laneFail (lg : Nat) (lane : Nat)
  /-- Firmware installs a relay route around a failed side or stair link (R396). -/
  | relayInstall (dev : Nat) (up : List Nat)
  /-- Every 500 beats FIDE reads the collective doorbell line (R389). -/
  | collDoorbellPoll
  /-- An ALL_REDUCE collective starts on its queue (R391). -/
  | collAllReduce (q : Nat)
  /-- A REDUCE_SCATTER collective starts on its queue (R391). -/
  | collReduceScatter (q : Nat)
  /-- An ALL_GATHER collective starts on its queue (R391). -/
  | collAllGather (q : Nat)
  /-- A BROADCAST collective starts on its queue (R391). -/
  | collBroadcast (q : Nat)
  /-- A BARRIER collective starts on its queue (R391). -/
  | collBarrier (q : Nat)
  /-- A collective completes on a member and done_add is sent (R393). -/
  | collComplete (q : Nat)
  /-- The LG_STATUS service returns a lane group's register (R404). -/
  | lgStatus (rid : Nat) (d : Nat) (a0 : Nat)
  /-- The FAB ERR_READ service returns FAB.ERR and its counters (R404). -/
  | fabErrRead (rid : Nat) (d : Nat)
  /-- The COLL_CLEAR service returns a collective queue from ERROR to IDLE (R404). -/
  | collClear (rid : Nat) (d : Nat) (q : Nat)
  /-- The GROUP_SWITCH service arms a switch on every live member at one beat (R403). -/
  | groupSwitch (rid : Nat) (d : Nat) (a0 : Nat) (a1 : Nat)
  /-- The GROUP_ROLLBACK service arms a rollback on every live member (R403). -/
  | groupRollback (rid : Nat) (d : Nat) (a0 : Nat)
  /-- The EXPEL service expels a member (R401). -/
  | fabExpel (rid : Nat) (d : Nat) (a0 : Nat)
  /-- The REJOIN service readmits an expelled member once its next digest agrees (R401). -/
  | rejoin (rid : Nat) (d : Nat) (a0 : Nat)
  /-- The MEMBERS service returns FAB.MEMBER for every slot (R404). -/
  | fabMembersStatus (rid : Nat) (d : Nat)
  /-- A regulator phase fails, is disabled and the gallery limit and state are updated (R408). -/
  | phaseLost (g : Nat) (phase : Nat)
  /-- An excess sense drop for 100 µs caps the gallery as a crack or opens its bank (R410). -/
  | crackDetect (g : Nat) (excess : Nat) (b : Nat)
  /-- A crack that persists for 1 s opens the bank and the gallery goes DARK (R410). -/
  | crackPersist (g : Nat) (b : Nat)
  /-- A folded-back output below 0.60 V for 20 µs opens the bank with cause SHORT (R411). -/
  | shortDetect (g : Nat)
  /-- A gallery input above 110 A for 2 µs opens its e-fuse and the gallery goes DARK (R412). -/
  | efuseOpen (g : Nat)
  /-- Every 10 µs the power manager measures P10 and updates the device throttle level (R423). -/
  | capTick (p10 : Nat) (vin : Nat) (iin : Nat) (b : Nat)
  /-- Every 0.1 µs a gallery bank compares its current with I_lim and adjusts its skip demand (R425). -/
  | galleryCurrentTick (g : Nat) (iout : Nat) (low : Bool)
  /-- Every 100 µs each sensor is read and hard thermal demands are applied or released (R428). -/
  | sensorRead (u : Nat) (l : List Nat) (b : Nat)
  /-- Every 1 ms a gallery's soft thermal skip demand rises, falls or holds (R429). -/
  | thermalSoftTick (g : Nat)
  /-- A gallery at or above 105 °C for 100 ms with AUTO_PARK is moved off and parked (R430). -/
  | heatPark (g : Nat) (b : Nat)
  /-- A heat-parked gallery cool for 1 s powers up and runs trials (R436). -/
  | heatUnpark (g : Nat) (b : Nat)
  /-- A 115 °C comparator fires and opens the gallery bank within 10 µs (R431). -/
  | thermalTrip (u : Nat)
  /-- A module trip condition opens the input stage and the part loses power (R432). -/
  | moduleTrip (cause : Nat)
  /-- A replica path's slack falls below a threshold, setting WARN or lengthening the period on ALERT (R418). -/
  | marginAlert (p : Nat) (alert : Bool) (b : Nat)
  /-- The 1 ms hold of an ALERT period stretch ends (R418). -/
  | alertHoldEnd (p : Nat) (b : Nat)
  /-- Alerts in three seconds within one hour lower a cluster's F_max or declare it failed at the floor (R419). -/
  | fmaxRefine (p : Nat) (b : Nat)
  /-- A gallery enters WAITING and asks for headroom to power up (R435). -/
  | galPowerRequest (g : Nat) (b : Nat)
  /-- At a 10 µs tick with headroom and quiet neighbours the gallery is granted and starts ramping (R435). -/
  | galGrant (b : Nat)
  /-- 1.5 ms without a grant places forcing demands on blocking neighbours (R435). -/
  | galForcing (g : Nat) (skips : List (Nat × Nat)) (theta : Nat) (b : Nat)
  /-- A gallery's 200 µs ramp completes and forcing demands are withdrawn (R435). -/
  | galRampDone (g : Nat) (b : Nat)
  /-- 1 ms of fold-back after the ramp ends and the gallery enters ON (R435). -/
  | galOn (g : Nat) (passes : Nat) (b : Nat)
  /-- The PMBus POWER_LIMIT command reads or sets the board cap (R426). -/
  | pmbusPowerLimit (write : Bool) (w : Nat)
  /-- THROT_N low for 1 µs places skip and bubble demands of 32 (R516). -/
  | throtAssert
  /-- THROT_N going high releases its demands within 10 µs (R516). -/
  | throtRelease
  /-- A write of PWR.CAP_SET sets the owner's power cap from the next tick (R422). -/
  | capSetWrite (rid : Nat) (w : Nat)
  /-- A write of CLK.MODE switches between uniform and expert frequency (R416). -/
  | clkModeWrite (rid : Nat) (m : Nat)
  /-- A write of CLK.FSET requests a set frequency for a physical cluster (R416). -/
  | fsetWrite (rid : Nat) (p : Nat) (f : Nat)
  /-- A verified calibration table takes effect at the next whole millisecond of beats (R439). -/
  | calTableApply (b : Nat)
  /-- The CAP service writes PWR.CAP_SET without EXPERT_EN (R440). -/
  | capService (rid : Nat) (w : Nat)
  /-- The PWR STATUS service returns power status, input, energy and board registers (R440). -/
  | pwrStatus (rid : Nat)
  /-- The THR_READ service returns the throttling durations (R440). -/
  | thrRead (rid : Nat)
  /-- The GAL_PARK service parks a gallery of bad or spare clusters (R434). -/
  | galPark (rid : Nat) (g : Nat)
  /-- The GAL_UNPARK service powers up a gallery parked by service (R436). -/
  | galUnpark (rid : Nat) (g : Nat)
  /-- The GAL_RESTORE service powers up a DARK gallery of a restorable cause and runs trials (R436). -/
  | galRestore (rid : Nat) (g : Nat)
  /-- The CAL_LOAD service verifies a calibration table and writes it to flash (R439). -/
  | calLoad (rid : Nat) (a0 : Nat) (a1 : Nat)
  /-- The PWR FAULT_READ service returns PWR.FAULT and its counters (R440). -/
  | pwrFaultRead (rid : Nat)
  /-- The TEMPS service returns a gallery's temperatures and power state (R440). -/
  | temps (rid : Nat) (g : Nat)
  /-- The THM FAULT_READ service returns THM.FAULT and its counters (R440). -/
  | thmFaultRead (rid : Nat)
  /-- The FREQ service sets a logical number's requested frequency in expert mode (R440). -/
  | clkFreq (rid : Nat) (l : Nat) (f : Nat)
  /-- The FMAX service returns a cluster's F_max and set frequency (R440). -/
  | clkFmax (rid : Nat) (p : Nat)
  /-- A hardware fault report reaches the BRU block, which records it and starts its recovery (R451). -/
  | faultReport (kind : Nat) (unit : Nat) (cause : Nat) (unitCause : Nat) (b : Nat)
  /-- A gallery node polls each controller every 100 µs; 1 ms of silence is a cluster fault (R451). -/
  | ctrlPoll (g : Nat) (answers : Nat) (b : Nat)
  /-- A logical number moves from its fenced holder onto a trialled spare and the map changes (R452). -/
  | move (l : Nat) (at_ : Nat) (fails : List Nat) (b : Nat)
  /-- A step replay stops and resets every stream, context and queue and chooses a replay beat (R454). -/
  | stepReplay (rb : Nat) (b : Nat)
  /-- A cluster still executing 1 ms after the replay stop is fenced (R454). -/
  | replayStopTimeout (b : Nat)
  /-- At the replay beat streams restart at stream_start and answer streams resume after their last committed token (R454). -/
  | replayRestart (b : Nat)
  /-- A cluster runs its periodic trial on firmware stream 28 and is classified by the result (R457). -/
  | trialRun (p : Nat) (first : Bool) (again : Bool) (b : Nat)
  /-- A firmware rollout round moves up to SPARES_LEFT numbers onto updated spares (R463). -/
  | fwRolloutRound (at_ : Nat) (fails : List Nat) (b : Nat)
  /-- The BRU STATUS service returns BRU status, fault and log registers (R466). -/
  | bruStatus (rid : Nat)
  /-- The LOG_EXPORT service writes error records as CPER records to HBM (R465). -/
  | logExport (rid : Nat) (a0 : Nat) (a1 : Nat) (a2 : Nat)
  /-- The FENCE_MOVE service moves a number at the next step boundary without a fault (R463). -/
  | fenceMove (rid : Nat) (l : Nat)
  /-- The TRIAL service runs a trial on a physical cluster (R466). -/
  | trialService (rid : Nat) (p : Nat) (first : Bool) (again : Bool)
  /-- The DMAP_LOAD service verifies and stores a new field defect map (R446). -/
  | dmapLoad (rid : Nat) (a0 : Nat) (a1 : Nat)
  /-- The FW_UPDATE service rolls out new firmware while service continues (R463). -/
  | fwUpdate (rid : Nat) (a0 : Nat) (a1 : Nat) (a2 : Nat)
  /-- The RESET service resets the part (R466). -/
  | bruReset (rid : Nat) (vinOk : Bool)
  /-- The FUSE_READ service returns an entry of a fuse field (R445). -/
  | fuseRead (rid : Nat) (a0 : Nat) (a1 : Nat)
  /-- Room returns in a trace queue and one LOST record counts the dropped records (R478). -/
  | traceLostRecord (u : Nat)
  /-- A write of TRC_CTL.REARM clears the record count of a stop-mode buffer and resumes writing (R477). -/
  | trcRearm (rid : Nat) (u : Nat) (v : Nat)
  /-- A read of TRC_DATA returns a trace record word and advances the word index (R479). -/
  | trcDataRead (u : Nat)
  /-- At the THAW beat every frozen counter resumes (R472). -/
  | counterThaw (b : Nat)
  /-- At the CLEAR beat every counter is set to 0 (R473). -/
  | counterClearBeat (b : Nat)
  /-- The root finishes writing a snapshot area and writes its header snap_id last (R475). -/
  | snapshotAreaWritten
  /-- A stream waiting longer than OBS.HANG_CTL.BEATS starts an automatic wait-for graph scan (R485). -/
  | autoHangScan (b : Nat)
  /-- The THAW service arms a counter resume at a beat (R472). -/
  | obsThaw (rid : Nat) (a0 : Nat)
  /-- The CLEAR service arms a counter clear at a beat (R473). -/
  | obsClear (rid : Nat) (a0 : Nat)
  /-- The SNAP_NOW service arms a snapshot 10,000 beats ahead (R474). -/
  | snapNow (rid : Nat)
  /-- The TRACE_DUMP service copies a trace buffer to HBM (R479). -/
  | traceDump (rid : Nat) (a0 : Nat) (a1 : Nat) (a2 : Nat)
  /-- The HANG_SCAN service builds and writes the wait-for graph (R482). -/
  | hangScan (rid : Nat) (a0 : Nat) (a1 : Nat)
  /-- The ATTEST service writes a signed attestation report (R502). -/
  | attest (rid : Nat) (a0 : Nat) (a1 : Nat) (a2 : Nat)
  /-- The CERT_READ service writes the identity certificate to HBM (R504). -/
  | certRead (rid : Nat) (a0 : Nat)
  /-- The LOG_READ service writes measurement log entries to HBM (R500). -/
  | logRead (rid : Nat) (a0 : Nat) (a1 : Nat) (a2 : Nat)
  /-- The EXTEND service extends an owner measurement register (R498). -/
  | extend (rid : Nat) (a0 : Nat) (a1 : Nat)
  /-- The SVN_COMMIT service burns an anti-rollback counter up to a value (R496). -/
  | svnCommit (rid : Nat) (a0 : Nat) (a1 : Nat)
  /-- The REVOKE service burns a root slot's revoked bit (R494). -/
  | revoke (rid : Nat) (a0 : Nat)
  /-- PRSNT_N goes low and its 50 ms debounce begins or restarts (R506). -/
  | prsntAssert (us : Nat)
  /-- PRSNT_N has read low for 50 ms with input and bus in range and the input stage closes (R506). -/
  | inputStageClose (us : Nat) (vin : Nat) (bus : Nat)
  /-- PRSNT_N high for 20 µs opens the input stage for removal (R509). -/
  | prsntRemove (us : Nat)
  /-- REFCLK lost for more than 10 µs ends service as a loss of the CID (R513). -/
  | refclkLost (us : Nat)
  /-- The I3C CS_READ operation reads a control-space register (R514). -/
  | i3cCsRead (a : Nat)
  /-- The I3C CS_WRITE operation writes a control-space register as requestor 0x8000 (R514). -/
  | i3cCsWrite (a : Nat) (v : Nat)
  /-- The I3C REC_NEXT operation returns the next unread error record (R514). -/
  | i3cRecNext
  /-- The I3C REC_ACK operation marks records read and releases ALERT_N (R514). -/
  | i3cRecAck (n : Nat)
  /-- The I3C STATUS operation returns MOD.STATUS (R514). -/
  | i3cStatus
  /-- The PMBus CLEAR_FAULTS command clears the PMBus status bits (R515). -/
  | pmbusClearFaults
  /-- The PMBus STATUS_WORD command returns interface and input-stage faults (R515). -/
  | pmbusStatusWord
  /-- The PMBus READ_VIN command returns the input voltage (R515). -/
  | pmbusReadVin
  /-- The PMBus READ_IIN command returns the input current (R515). -/
  | pmbusReadIin
  /-- The PMBus READ_PIN command returns the input power P10 (R515). -/
  | pmbusReadPin
  /-- The PMBus READ_TEMPERATURE_1 command returns the inlet coolant temperature (R515). -/
  | pmbusReadTemperature1
  /-- The PMBus READ_TEMPERATURE_2 command returns the hottest junction temperature (R515). -/
  | pmbusReadTemperature2
  /-- The PMBus MFR_ID command returns FOLAUX (R515). -/
  | pmbusMfrId
  /-- The PMBus MFR_MODEL command returns XKB800-M36-A2 (R515). -/
  | pmbusMfrModel
  /-- The EXTEST instruction drives boundary pins while RST_N is low (R517). -/
  | jtagExtest (d : Nat) (low : Bool) (pins : List Bool) (shift : List Bool)
  /-- The IDCODE instruction selects each die's IDCODE register (R517). -/
  | jtagIdcode (d : Nat)
  /-- The SAMPLE/PRELOAD instruction samples and preloads the boundary register (R517). -/
  | jtagSamplePreload (d : Nat) (pins : List Bool) (shift : List Bool)
  /-- The CLAMP instruction holds pins from the boundary register while RST_N is low (R517). -/
  | jtagClamp (d : Nat) (low : Bool)
  /-- The HIGHZ instruction floats the boundary pins while RST_N is low (R517). -/
  | jtagHighz (d : Nat) (low : Bool)
  /-- The BYPASS instruction, and every unsupported code, selects the bypass register (R517). -/
  | jtagBypass (d : Nat)
  /-- A Serica port receives a Nak or misses an acknowledgement and replays flits from its 64-flit replay buffer, setting REPLAY (R338). -/
  | serFlitReplay (port : Nat)
  /-- A service stair link reported failed trains again, and the units below it stop being reported unpowered (R204). -/
  | stairLinkRetrain (k : Nat)
  /-- A read or write of an MSD's 64 MiB buffer arrives at the MSD and is checked for alignment, firmware region, proxy reserve and ring producer before it is served (R216). -/
  | msdBufferAccess (src : Source) (req : Nat) (n : Nat) (o : Nat) (size : Nat) (write : Bool) (data : List Byte)
  /-- 250 ms into stage 0x08 a manager sends MEMBERS, and the principal GROUPS, even though not every slot or group agrees (R377). -/
  | membersDeadline
  /-- A command whose opcode is not in Table 04-2 reaches the head of its stream and fails with BAD_OPCODE without launching (R116). -/
  | badOpcodeCommand (p : Nat) (st : Nat) (b : Nat)
  /-- A fabric packet of a reserved type is discarded and sets FAB.ERR.PROTO while the link stays up (R380). -/
  | fabReservedPacket (h : FabHead)
  /-- A service stair frame with op 9–15 is refused at the first node (R204). -/
  | stairReservedOp
  /-- An I3C private write with an operation byte outside Table 18-5 is answered with status BAD_SERVICE (R514). -/
  | i3cOtherOp (op : Nat)
  /-- A PMBus command outside Table 18-6 is refused with a CML fault in STATUS_WORD (R515). -/
  | pmbusOtherCommand (code : Nat)
deriving DecidableEq, Repr

end Sys2Proof
end

