-- ==== Sys2Proof/Machine/Bits.lean ====
section
/-! DEFINITION. Register fields, bit helpers and byte order: multi-byte values are little-endian everywhere (00 R4). -/
namespace Sys2Proof.Machine

/-- The lowest `w` bits set. -/
def lowMask (w : Nat) : Word := BitVec.ofNat 64 (2 ^ w - 1)

/-- The value of a field of a register. -/
def fget (f : Field) (v : Word) : Nat := ((v >>> f.lo) &&& lowMask f.w).toNat

/-- A register with one field replaced; the value is cut to the field's width. -/
def fset (f : Field) (v : Word) (x : Nat) : Word :=
  (v &&& ~~~(lowMask f.w <<< f.lo)) ||| ((BitVec.ofNat 64 x &&& lowMask f.w) <<< f.lo)

/-- Bit `i` of a number. -/
def bitAt (n i : Nat) : Bool := (n >>> i) % 2 == 1

/-- Bits `[lo + w - 1 : lo]` of a number. -/
def bitsAt (lo w n : Nat) : Nat := (n >>> lo) % 2 ^ w

/-- A truth value as a register bit. -/
def bit (b : Bool) : Nat := if b then 1 else 0

/-- The bit mask of a list of bit numbers. -/
def maskOf (l : List Nat) : Nat := l.foldl (fun m i => m ||| (1 <<< i)) 0

/-- The bit numbers below `n` set in a mask. -/
def bitsOf (n mask : Nat) : List Nat := (List.range n).filter (bitAt mask)

/-- The numbers `lo`, `lo + 1`, … of a range of `n`. -/
def rangeFrom (lo n : Nat) : List Nat := (List.range n).map (lo + ·)

/-- Two's complement reading of a `w`-bit number. -/
def toSigned (w n : Nat) : Int := if n < 2 ^ (w - 1) then (n : Int) else (n : Int) - (2 ^ w : Nat)

/-- The `w`-bit two's complement code of an integer. -/
def ofSigned (w : Nat) (x : Int) : Nat := (x % ((2 ^ w : Nat) : Int)).toNat

/-- The number a list of bytes spells, least significant byte first (00 R4). -/
def leNat : List Byte → Nat
  | [] => 0
  | b :: t => b.toNat + 256 * leNat t

/-- The `n` bytes of a number, least significant first (00 R4). -/
def natLe : Nat → Nat → List Byte
  | 0, _ => []
  | n + 1, x => BitVec.ofNat 8 (x % 256) :: natLe n (x / 256)

/-- A list cut or padded with zero bytes to `n` bytes. -/
def padTo (n : Nat) (l : List Byte) : List Byte := (l ++ List.replicate (n - l.length) 0).take n

/-- Bytes `off` to `off + n - 1` of a list, zero past its end. -/
def slice (off n : Nat) (l : List Byte) : List Byte := padTo n (l.drop off)

/-- The little-endian number at an offset of a list of bytes. -/
def leAt (off n : Nat) (l : List Byte) : Nat := leNat (slice off n l)

/-- A list with one place replaced (unchanged where there is no such place). -/
def listSet {α : Type} : List α → Nat → α → List α
  | [], _, _ => []
  | _ :: t, 0, x => x :: t
  | a :: t, n + 1, x => a :: listSet t n x

/-- A list changed at one place. -/
def listModify {α : Type} (f : α → α) : List α → Nat → List α
  | [], _ => []
  | a :: t, 0 => f a :: t
  | a :: t, n + 1 => a :: listModify f t n

/-- Rounding down a division of an integer by a power of two. -/
def shiftDown (x : Int) (k : Nat) : Int := x / ((2 ^ k : Nat) : Int)

/-- The position of the highest set bit; 0 for 0. -/
def log2 (n : Nat) : Nat := Nat.log2 n

/-- The number of set bits below `n`. -/
def popcount (n mask : Nat) : Nat := (bitsOf n mask).length

/-- `a - b` in modulo-`2^w` arithmetic. -/
def subMod (w a b : Nat) : Nat := (a % 2 ^ w + 2 ^ w - b % 2 ^ w) % 2 ^ w

end Sys2Proof.Machine
end

