-- ==== Sys2Proof/Config.lean ====
section
/-! DEFINITION. What an implementation fixes and the spec leaves open: constants without a body, so that no proof can see
what they are. Each is named in an assumption log row. -/
namespace Sys2Proof.Config

/-- CL.SFU_TAB's coefficients: segment `j`, coefficient `k` of table `f` (03 R102, R110); the spec prints two of them. -/
opaque sfuCoeff : Nat → Nat → Nat → BitVec 32

/-- Usage mask (bits 15:0) and revoked bit (bit 63) of root slot `k` as the part's fuses give them (17 R492): per part. -/
opaque fuseRoot : Nat → Word

/-- Word `w` of the key hash of root slot `k` (17 R492): per part. -/
opaque fuseHash : Nat → Nat → Word

/-- Entry `e` of fuse field `f` of Table 15-2 for the fields 0 to 2 and 4 to 6, and the number of entries of a field: per
part. -/
opaque fuseEntry : Nat → Nat → Word
opaque fuseCount : Nat → Nat

/-- The device secret (17 R493): per part. -/
opaque deviceSecret : List (BitVec 8)

/-- SLH-DSA of FIPS 205 (17 R487), by public key or secret key, message and signature: the spec names the standard and does
not restate it. -/
opaque slhVerify : List (BitVec 8) → List (BitVec 8) → List (BitVec 8) → Bool
opaque slhSign : List (BitVec 8) → List (BitVec 8) → List (BitVec 8)
opaque slhPublic : List (BitVec 8) → List (BitVec 8)

/-- The firmware objects and the identity certificate the flash holds when the part is shipped, by object type. -/
opaque shipped : Nat → List (BitVec 8)

/-- The version of the firmware that an object header describes (08 Table 08-4 check 5), and the version of the security
ROM (17 Table 17-5). -/
opaque fwVersion : List (BitVec 8) → Nat
opaque romVersion : Nat

/-- SEC.SVN[c] as the part's fuses give it at its first start (17 R496): per part. -/
opaque fuseSvn : Nat → Nat

/-- The fused maximum frequency of physical cluster `p`, MHz (15 Table 15-2): per part. -/
opaque fuseFmax : Nat → Nat

/-- The values the spec leaves open where the part goes on: the value of the `n`-th one taken (log 5). -/
opaque freeValue : Nat → Word

/-- kp_q and mem_share of the cap loop while no image is active: the spec gives neither then (14 R423; log 31). -/
opaque idleKp : Nat
opaque idleShare : Nat

/-- The class of a Unicode 15.1 general category by code point: 0 letter, 1 digit, 2 whitespace, 3 other (10 Table 10-3); the
spec names the standard and does not restate it. -/
opaque charClass : Nat → Nat

/-- A grammar table by its bytes (10 R320), whose header and state layout the spec does not give: whether state `q` allows
token `t`, whether it accepts, and the state its list gives for `t`, if any. -/
opaque grammarAllows : List (BitVec 8) → Nat → Nat → Bool
opaque grammarAccepts : List (BitVec 8) → Nat → Bool
opaque grammarNext : List (BitVec 8) → Nat → Nat → Option Nat

/-- The bytes of the field calibration record by the F_max steps taken in the field (14 R419; 17 Table 17-5): the spec gives it no
layout. -/
opaque fieldRecord : List (Nat × Nat) → List (BitVec 8)

/-- Byte `i` of the fields of a CPER record header that the spec leaves to the UEFI specification's user: creator ID and
notification type (15 R465). -/
opaque cperIds : Nat → BitVec 8

/-- The 64 bytes that stage 0x02 extends measurement register 0 with, from the ROM version and the values of SEC.ROOT and SEC.SVN (17
Table 17-5): the spec gives their order and not their layout. -/
opaque romRecord : Nat → List Word → List (BitVec 8)

/-- The 64 KiB chunk of HBM at which stage 0x09 places the boot image (08 R277): the spec does not say where. -/
opaque bootChunk : Nat

end Sys2Proof.Config
end

