-- ==== Sys2Proof/Machine/RegMap.lean ====
section
/-! DEFINITION. The register map: where each register of control space lies (01 Table 01-4 and the register tables of the
chapters), where its fields lie, and which bits a write of it changes (00 R7). A register is named by one canonical offset:
a cluster's registers by the expert view of its physical serial (01 R39). -/
namespace Sys2Proof.Machine

/-- What one register of a block lets a write do: `rw` bits are replaced, `w1c` bits are cleared by ones, and an event
counter (`cnt`) is cleared by a write of 0 only (00 R7, R10). Every other bit keeps its value (00 R8). -/
structure RegSpec where
  off : Nat
  stride : Nat
  count : Nat
  rw : Word
  w1c : Word
  cnt : Bool
deriving DecidableEq, Repr

/-- Coefficient `k` of segment `j` of table `f`: two values are stated (03 R102); the rest are the part's fixed table,
which the spec does not print (log 10). -/
def sfuCoef (f j k : Nat) : Nat :=
  if f = 0 ∧ j = 0 ∧ k = 0 then 0x3F800000
  else if f = 1 ∧ j = 0 ∧ k = 0 then 0
  else (Config.sfuCoeff f j k).toNat

/-- The expert view of physical cluster `p` (Table 01-4): the canonical home of its registers. -/
def clBase (p : Nat) : Nat := 0x30000000 + p * 0x10000
/-- The block of MSD `n` (Table 01-4). -/
def msdBase (n : Nat) : Nat := 0x1000000 + n * 0x100000
/-- The block of fabric die `d`: 0 FIDW, 1 FIDE (Table 01-4). -/
def fabBase (d : Nat) : Nat := 0x400000 + d * 0x100000

/-- MOD.ID (01 Table 01-5). -/
def rModId : Nat := 0x0 + 0x0
def fModIdVendor : Field := ⟨48, 16⟩
def fModIdPart : Field := ⟨32, 16⟩
def fModIdStepMajor : Field := ⟨24, 8⟩
def fModIdStepMinor : Field := ⟨16, 8⟩
def fModIdPkgVar : Field := ⟨8, 8⟩
/-- MOD.STATUS (01 Table 01-6). -/
def rModStatus : Nat := 0x0 + 0x8
def fModStatusSparesLeft : Field := ⟨48, 7⟩
def fModStatusLiveLogical : Field := ⟨32, 10⟩
def fModStatusStage : Field := ⟨8, 8⟩
def fModStatusParityOn : Field := ⟨2, 1⟩
def fModStatusDegraded : Field := ⟨1, 1⟩
def fModStatusReady : Field := ⟨0, 1⟩
/-- CL.MAT_STATUS (02 Table 02-8). -/
def rClMatStatus (p : Nat) : Nat := clBase p + 0x2000
def fClMatStatusLastSeq : Field := ⟨32, 16⟩
def fClMatStatusAccValid : Field := ⟨16, 16⟩
def fClMatStatusWFmt : Field := ⟨12, 4⟩
def fClMatStatusAFmt : Field := ⟨8, 4⟩
def fClMatStatusSparse : Field := ⟨2, 1⟩
def fClMatStatusShadowBusy : Field := ⟨1, 1⟩
def fClMatStatusBusy : Field := ⟨0, 1⟩
/-- CL.MAT_ERR (02 Table 02-9). -/
def rClMatErr (p : Nat) : Nat := clBase p + 0x2008
def fClMatErrOpId : Field := ⟨44, 20⟩
def fClMatErrLayerId : Field := ⟨32, 12⟩
def fClMatErrSeq : Field := ⟨16, 16⟩
def fClMatErrCause : Field := ⟨8, 8⟩
def fClMatErrErr : Field := ⟨0, 1⟩
/-- CL.MAT_CTRL (02 Table 02-10). -/
def rClMatCtrl (p : Nat) : Nat := clBase p + 0x2018
def fClMatCtrlUngateLimit : Field := ⟨4, 4⟩
def fClMatCtrlGateEn : Field := ⟨0, 1⟩
/-- CL.ARITH_CTRL (03 Table 03-8). -/
def rClArithCtrl (p : Nat) : Nat := clBase p + 0x2800
def fClArithCtrlRepro : Field := ⟨0, 1⟩
/-- CL.ARITH_FLAGS (03 Table 03-9). -/
def rClArithFlags (p : Nat) : Nat := clBase p + 0x2808
def fClArithFlagsReadoutNonfinite : Field := ⟨5, 1⟩
def fClArithFlagsMxNanScale : Field := ⟨4, 1⟩
def fClArithFlagsIntNan : Field := ⟨3, 1⟩
def fClArithFlagsInfOut : Field := ⟨2, 1⟩
def fClArithFlagsNanOut : Field := ⟨1, 1⟩
def fClArithFlagsSat : Field := ⟨0, 1⟩
/-- CL.ARITH_FLAGS_CNT[i] (03 Table 03-10). -/
def rClArithFlagsCnt (p i : Nat) : Nat := clBase p + 0x2810 + 8 * i
def fClArithFlagsCntCount : Field := ⟨0, 32⟩
/-- CL.SFU_TAB[i] (03 Table 03-11). -/
def rClSfuTab (p i : Nat) : Nat := clBase p + 0x3000 + 8 * i
def fClSfuTabHi : Field := ⟨32, 32⟩
def fClSfuTabLo : Field := ⟨0, 32⟩
/-- CL.CMD_ERR (04 Table 04-9). -/
def rClCmdErr (p : Nat) : Nat := clBase p + 0x1000
def fClCmdErrOpId : Field := ⟨44, 20⟩
def fClCmdErrLayerId : Field := ⟨32, 12⟩
def fClCmdErrSeq : Field := ⟨16, 16⟩
def fClCmdErrCause : Field := ⟨8, 8⟩
def fClCmdErrStream : Field := ⟨3, 5⟩
def fClCmdErrUnit : Field := ⟨1, 2⟩
def fClCmdErrErr : Field := ⟨0, 1⟩
/-- CL.CMD_ERR_CNT (04 Table 04-10). -/
def rClCmdErrCnt (p : Nat) : Nat := clBase p + 0x1008
def fClCmdErrCntCount : Field := ⟨0, 32⟩
/-- CL.STREAM[i] (04 Table 04-11). -/
def rClStream (p i : Nat) : Nat := clBase p + 0x1100 + 8 * i
def fClStreamState : Field := ⟨60, 4⟩
def fClStreamWaitKind : Field := ⟨56, 4⟩
def fClStreamWaitObj : Field := ⟨48, 8⟩
def fClStreamWaitValue : Field := ⟨16, 32⟩
def fClStreamPc : Field := ⟨0, 13⟩
/-- CL.STREAM_CTL[i] (04 Table 04-12). -/
def rClStreamCtl (p i : Nat) : Nat := clBase p + 0x1200 + 8 * i
def fClStreamCtlResume : Field := ⟨63, 1⟩
def fClStreamCtlStop : Field := ⟨62, 1⟩
def fClStreamCtlPcSet : Field := ⟨0, 13⟩
/-- CL.SEM[i] (04 Table 04-13). -/
def rClSem (p i : Nat) : Nat := clBase p + 0x1300 + 8 * i
def fClSemValue : Field := ⟨0, 32⟩
/-- CL.DMA_CTX[i] (04 Table 04-14). -/
def rClDmaCtx (p i : Nat) : Nat := clBase p + 0x1500 + 8 * i
def fClDmaCtxState : Field := ⟨62, 2⟩
def fClDmaCtxCause : Field := ⟨48, 8⟩
def fClDmaCtxQueued : Field := ⟨43, 5⟩
def fClDmaCtxDoneBytes : Field := ⟨0, 40⟩
/-- CL.DMA_CTX_CLR (04 Table 04-15). -/
def rClDmaCtxClr (p : Nat) : Nat := clBase p + 0x1700
def fClDmaCtxClrReservedCtx : Field := ⟨60, 4⟩
def fClDmaCtxClrClear : Field := ⟨0, 60⟩
/-- CL.SPM_RANGE (05 Table 05-7). -/
def rClSpmRange (p : Nat) : Nat := clBase p + 0x1800
def fClSpmRangeState : Field := ⟨0, 24⟩
/-- CL.SPM_RANGE_CTL (05 Table 05-8). -/
def rClSpmRangeCtl (p : Nat) : Nat := clBase p + 0x1808
def fClSpmRangeCtlOp : Field := ⟨60, 4⟩
def fClSpmRangeCtlMask : Field := ⟨0, 12⟩
/-- CL.SPM_ECC (05 Table 05-9). -/
def rClSpmEcc (p : Nat) : Nat := clBase p + 0x1810
def fClSpmEccLastWord : Field := ⟨36, 22⟩
def fClSpmEccLastUncorr : Field := ⟨32, 1⟩
def fClSpmEccUncorr : Field := ⟨1, 1⟩
def fClSpmEccCorr : Field := ⟨0, 1⟩
/-- CL.SPM_ECC_CNT[i] (05 Table 05-10). -/
def rClSpmEccCnt (p i : Nat) : Nat := clBase p + 0x1818 + 8 * i
def fClSpmEccCntCount : Field := ⟨0, 32⟩
/-- CL.SPM_STALL[i] (05 Table 05-11). -/
def rClSpmStall (p i : Nat) : Nat := clBase p + 0x1900 + 8 * i
def fClSpmStallCycles : Field := ⟨0, 48⟩
/-- CL.WIN_A[i] (05 Table 05-12). -/
def rClWinA (p i : Nat) : Nat := clBase p + 0x5000 + 16 * i
def fClWinAGen : Field := ⟨56, 8⟩
def fClWinAState : Field := ⟨54, 2⟩
def fClWinARead : Field := ⟨53, 1⟩
def fClWinAWrite : Field := ⟨52, 1⟩
def fClWinASrcClass : Field := ⟨48, 4⟩
def fClWinALen : Field := ⟨19, 19⟩
def fClWinABase : Field := ⟨0, 19⟩
/-- CL.WIN_B[i] (05 Table 05-13). -/
def rClWinB (p i : Nat) : Nat := clBase p + 0x5008 + 16 * i
def fClWinBSrcMsd : Field := ⟨48, 16⟩
def fClWinBSrcDev : Field := ⟨40, 8⟩
def fClWinBDevAny : Field := ⟨39, 1⟩
def fClWinBSrcHi : Field := ⟨16, 10⟩
def fClWinBSrcLo : Field := ⟨0, 10⟩
/-- CL.WIN_OPEN (05 Table 05-14). -/
def rClWinOpen (p : Nat) : Nat := clBase p + 0x5400
def fClWinOpenOpen : Field := ⟨0, 64⟩
/-- CL.WIN_CLOSE (05 Table 05-15). -/
def rClWinClose (p : Nat) : Nat := clBase p + 0x5408
def fClWinCloseClose : Field := ⟨0, 64⟩
/-- CL.WIN_NACK (05 Table 05-16). -/
def rClWinNack (p : Nat) : Nat := clBase p + 0x5410
def fClWinNackSrcId : Field := ⟨54, 10⟩
def fClWinNackSrcClass : Field := ⟨52, 2⟩
def fClWinNackSrcDev : Field := ⟨44, 8⟩
def fClWinNackWin : Field := ⟨38, 6⟩
def fClWinNackGenSeen : Field := ⟨30, 8⟩
def fClWinNackByAddr : Field := ⟨16, 1⟩
def fClWinNackCause : Field := ⟨8, 8⟩
def fClWinNackNack : Field := ⟨0, 1⟩
/-- CL.RTR_STATUS (06 Table 06-7). -/
def rClRtrStatus (p : Nat) : Nat := clBase p + 0x6000
def fClRtrStatusResponder : Field := ⟨24, 1⟩
def fClRtrStatusDetourUsed : Field := ⟨16, 8⟩
def fClRtrStatusPortUp : Field := ⟨0, 7⟩
/-- CL.RTR_PORT[i] (06 Table 06-8). -/
def rClRtrPort (p i : Nat) : Nat := clBase p + 0x6008 + 8 * i
def fClRtrPortState : Field := ⟨62, 2⟩
def fClRtrPortMode : Field := ⟨61, 1⟩
def fClRtrPortLanding : Field := ⟨60, 1⟩
def fClRtrPortOffset : Field := ⟨52, 4⟩
def fClRtrPortRetries : Field := ⟨32, 16⟩
def fClRtrPortHsEntries : Field := ⟨0, 32⟩
/-- CL.RTR_ERR (06 Table 06-9). -/
def rClRtrErr (p : Nat) : Nat := clBase p + 0x6040
def fClRtrErrLastPort : Field := ⟨8, 3⟩
def fClRtrErrHsMode : Field := ⟨2, 1⟩
def fClRtrErrLinkFail : Field := ⟨1, 1⟩
def fClRtrErrCrcRetry : Field := ⟨0, 1⟩
/-- CL.RTR_DETOUR[i] (06 Table 06-10). -/
def rClRtrDetour (p i : Nat) : Nat := clBase p + 0x6100 + 8 * i
def fClRtrDetourValid : Field := ⟨63, 1⟩
def fClRtrDetourVcMask : Field := ⟨59, 4⟩
def fClRtrDetourOutPort : Field := ⟨56, 3⟩
def fClRtrDetourYHi : Field := ⟨42, 6⟩
def fClRtrDetourYLo : Field := ⟨36, 6⟩
def fClRtrDetourXHi : Field := ⟨31, 5⟩
def fClRtrDetourXLo : Field := ⟨26, 5⟩
/-- CL.RTR_COMMIT (06 Table 06-11). -/
def rClRtrCommit (p : Nat) : Nat := clBase p + 0x6200
def fClRtrCommitArmed : Field := ⟨63, 1⟩
def fClRtrCommitBeat : Field := ⟨0, 63⟩
/-- BRU.DIST (06 Table 06-12). -/
def rBruDist : Nat := 0xB00000 + 0x400
def fBruDistGen : Field := ⟨48, 16⟩
def fBruDistCopy : Field := ⟨0, 1⟩
/-- MSD.STATUS (07 Table 07-10). -/
def rMsdStatus (n : Nat) : Nat := msdBase n + 0x0
def fMsdStatusProxyOf : Field := ⟨52, 4⟩
def fMsdStatusProxy : Field := ⟨51, 1⟩
def fMsdStatusDramTemp : Field := ⟨40, 8⟩
def fMsdStatusRefreshX2 : Field := ⟨32, 1⟩
def fMsdStatusRebuildLeft : Field := ⟨15, 17⟩
def fMsdStatusFullRebuild : Field := ⟨14, 1⟩
def fMsdStatusParityOn : Field := ⟨3, 1⟩
def fMsdStatusState : Field := ⟨0, 3⟩
/-- MSD.ERR (07 Table 07-11). -/
def rMsdErr (n : Nat) : Nat := msdBase n + 0x8
def fMsdErrOpId : Field := ⟨44, 20⟩
def fMsdErrLayerId : Field := ⟨32, 12⟩
def fMsdErrSeq : Field := ⟨16, 16⟩
def fMsdErrCause : Field := ⟨8, 8⟩
def fMsdErrQueue : Field := ⟨3, 5⟩
def fMsdErrDataLost : Field := ⟨2, 1⟩
def fMsdErrRepaired : Field := ⟨1, 1⟩
def fMsdErrErr : Field := ⟨0, 1⟩
/-- MSD.SLOT[i] (07 Table 07-12a). -/
def rMsdSlot (n i : Nat) : Nat := msdBase n + 0x100 + 8 * i
/-- MSD.SLOT_CTL (07 Table 07-12b). -/
def rMsdSlotCtl (n : Nat) : Nat := msdBase n + 0x140
def fMsdSlotCtlApply : Field := ⟨1, 1⟩
def fMsdSlotCtlWorkConserve : Field := ⟨0, 1⟩
/-- MSD.QUEUE[i] (07 Table 07-12c). -/
def rMsdQueue (n i : Nat) : Nat := msdBase n + 0x200 + 8 * i
def fMsdQueueState : Field := ⟨62, 2⟩
def fMsdQueueCause : Field := ⟨48, 8⟩
def fMsdQueuePending : Field := ⟨32, 11⟩
def fMsdQueueConsumer : Field := ⟨0, 32⟩
/-- CAL.SLOT[i] (08 Table 08-9). -/
def rCalSlot (i : Nat) : Nat := 0x600000 + 0x0 + 8 * i
def fCalSlotGen : Field := ⟨32, 32⟩
def fCalSlotState : Field := ⟨0, 4⟩
/-- CAL.SWITCH_BEAT (08 Table 08-10). -/
def rCalSwitchBeat : Nat := 0x600000 + 0x20
def fCalSwitchBeatBeat : Field := ⟨0, 64⟩
/-- CAL.SWITCH_STAT (08 Table 08-11). -/
def rCalSwitchStat : Nat := 0x600000 + 0x28
def fCalSwitchStatRejectedGen : Field := ⟨32, 32⟩
def fCalSwitchStatOutcome : Field := ⟨24, 8⟩
def fCalSwitchStatHealthBit : Field := ⟨16, 8⟩
def fCalSwitchStatRollback : Field := ⟨4, 1⟩
def fCalSwitchStatPhase : Field := ⟨1, 3⟩
def fCalSwitchStatAborted : Field := ⟨0, 1⟩
/-- CAL.WATCH_END (08 Table 08-12). -/
def rCalWatchEnd : Nat := 0x600000 + 0x30
def fCalWatchEndBeat : Field := ⟨0, 64⟩
/-- CAL.LAST (08 Table 08-13). -/
def rCalLast : Nat := 0x600000 + 0x38
def fCalLastEntry : Field := ⟨32, 32⟩
def fCalLastSection : Field := ⟨24, 8⟩
def fCalLastCode : Field := ⟨16, 8⟩
def fCalLastDrift : Field := ⟨6, 10⟩
def fCalLastRefused : Field := ⟨0, 1⟩
/-- ESC.NOW (09 Table 09-6). -/
def rEscNow : Nat := 0x700000 + 0x0
def fEscNowBeat : Field := ⟨0, 64⟩
/-- ESC.STATUS (09 Table 09-7). -/
def rEscStatus : Nat := 0x700000 + 0x8
def fEscStatusLoaded : Field := ⟨32, 10⟩
def fEscStatusStepDone : Field := ⟨3, 1⟩
def fEscStatusAligned : Field := ⟨2, 1⟩
def fEscStatusRole : Field := ⟨0, 2⟩
/-- ESC.ALIGN (09 Table 09-8). -/
def rEscAlign : Nat := 0x700000 + 0x10
def fEscAlignOffset : Field := ⟨32, 32⟩
def fEscAlignTrim : Field := ⟨16, 12⟩
def fEscAlignRtt : Field := ⟨0, 16⟩
/-- ESC.ALIGN_BEAT (09 Table 09-9). -/
def rEscAlignBeat : Nat := 0x700000 + 0x18
def fEscAlignBeatBeat : Field := ⟨0, 64⟩
/-- ESC.FAULT (09 Table 09-10). -/
def rEscFault : Nat := 0x700000 + 0x20
def fEscFaultLastLeaf : Field := ⟨32, 10⟩
def fEscFaultStep : Field := ⟨2, 1⟩
def fEscFaultAlignLost : Field := ⟨1, 1⟩
def fEscFaultLeafSlip : Field := ⟨0, 1⟩
/-- ESC.TRIG[i] (09 Table 09-11). -/
def rEscTrig (i : Nat) : Nat := 0x700000 + 0x100 + 16 * i
def fEscTrigBeat : Field := ⟨0, 64⟩
/-- ESC.TRIG_CTL[i] (09 Table 09-12). -/
def rEscTrigCtl (i : Nat) : Nat := 0x700000 + 0x108 + 16 * i
def fEscTrigCtlAction : Field := ⟨4, 4⟩
def fEscTrigCtlFired : Field := ⟨1, 1⟩
def fEscTrigCtlArmed : Field := ⟨0, 1⟩
/-- CL.ESC_LEAF (09 Table 09-13). -/
def rClEscLeaf (p : Nat) : Nat := clBase p + 0x7000
def fClEscLeafBeat : Field := ⟨0, 64⟩
/-- CL.ESC_LATE (09 Table 09-14). -/
def rClEscLate (p : Nat) : Nat := clBase p + 0x7008
def fClEscLateOpId : Field := ⟨44, 20⟩
def fClEscLateLayerId : Field := ⟨32, 12⟩
def fClEscLateSeq : Field := ⟨16, 16⟩
def fClEscLateStream : Field := ⟨6, 5⟩
def fClEscLateLate : Field := ⟨0, 1⟩
/-- CL.ESC_LATE_CNT (09 Table 09-15). -/
def rClEscLateCnt (p : Nat) : Nat := clBase p + 0x7010
def fClEscLateCntCount : Field := ⟨0, 32⟩
/-- CL.ESC_LATE_BY (09 Table 09-16). -/
def rClEscLateBy (p : Nat) : Nat := clBase p + 0x7018
def fClEscLateByBeats : Field := ⟨0, 64⟩
/-- CL.ESC_LATE_MAX (09 Table 09-17). -/
def rClEscLateMax (p : Nat) : Nat := clBase p + 0x7020
def fClEscLateMaxBeats : Field := ⟨0, 64⟩
/-- SVC.STATUS (10 Table 10-8). -/
def rSvcStatus : Nat := 0xD00000 + 0x0
def fSvcStatusCoresUp : Field := ⟨48, 16⟩
def fSvcStatusFaultStop : Field := ⟨2, 1⟩
def fSvcStatusAdmit : Field := ⟨1, 1⟩
def fSvcStatusAdmitting : Field := ⟨0, 1⟩
/-- SVC.COUNTS (10 Table 10-9). -/
def rSvcCounts : Nat := 0xD00000 + 0x8
def fSvcCountsFreeSets : Field := ⟨40, 24⟩
def fSvcCountsRingFull : Field := ⟨32, 8⟩
def fSvcCountsWaiting : Field := ⟨15, 17⟩
def fSvcCountsActive : Field := ⟨0, 15⟩
/-- SVC.ADMIT_CTL (10 Table 10-10). -/
def rSvcAdmitCtl : Nat := 0xD00000 + 0x10
def fSvcAdmitCtlAdmit : Field := ⟨0, 1⟩
/-- SVC.INTAKE_ERR (10 Table 10-11). -/
def rSvcIntakeErr : Nat := 0xD00000 + 0x18
def fSvcIntakeErrRing : Field := ⟨58, 6⟩
def fSvcIntakeErrReason : Field := ⟨48, 8⟩
def fSvcIntakeErrErr : Field := ⟨0, 1⟩
/-- SVC.RING[i] (10 Table 10-12). -/
def rSvcRing (i : Nat) : Nat := 0xD00000 + 0x100 + 8 * i
def fSvcRingState : Field := ⟨62, 2⟩
def fSvcRingLog2 : Field := ⟨52, 5⟩
def fSvcRingLive : Field := ⟨32, 20⟩
def fSvcRingConsumer : Field := ⟨0, 32⟩
/-- SER.PORT[i] (12 Table 12-10). -/
def rSerPort (i : Nat) : Nat := 0x200000 + 0x0 + 8 * i
def fSerPortOutstanding : Field := ⟨48, 16⟩
def fSerPortFilterHeld : Field := ⟨32, 16⟩
def fSerPortNoCache : Field := ⟨11, 1⟩
def fSerPortBonded : Field := ⟨10, 1⟩
def fSerPortReversed : Field := ⟨9, 1⟩
def fSerPortRate : Field := ⟨8, 1⟩
def fSerPortWidth : Field := ⟨6, 2⟩
def fSerPortState : Field := ⟨0, 3⟩
/-- SER.PORT_ERR[i] (12 Table 12-11). -/
def rSerPortErr (i : Nat) : Nat := 0x200000 + 0x10 + 8 * i
def fSerPortErrInitRefused : Field := ⟨5, 1⟩
def fSerPortErrTimeout : Field := ⟨4, 1⟩
def fSerPortErrLostLine : Field := ⟨3, 1⟩
def fSerPortErrProtoErr : Field := ⟨2, 1⟩
def fSerPortErrReplay : Field := ⟨1, 1⟩
def fSerPortErrLinkDown : Field := ⟨0, 1⟩
/-- SER.PORT_CTL[i] (12). -/
def rSerPortCtl (i : Nat) : Nat := 0x200000 + 0x80 + 8 * i
def fSerPortCtlEvtFault : Field := ⟨2, 1⟩
def fSerPortCtlEvtAnswer : Field := ⟨1, 1⟩
def fSerPortCtlHold : Field := ⟨0, 1⟩
/-- SER.COH (12). -/
def rSerCoh : Nat := 0x200000 + 0x90
def fSerCohSizeM1 : Field := ⟨48, 16⟩
def fSerCohBase : Field := ⟨16, 32⟩
def fSerCohEn : Field := ⟨0, 1⟩
/-- SER.OWNER (12). -/
def rSerOwner : Nat := 0x200000 + 0x100
def fSerOwnerRid : Field := ⟨48, 16⟩
def fSerOwnerOfferTo : Field := ⟨44, 4⟩
def fSerOwnerCand : Field := ⟨42, 2⟩
def fSerOwnerChanged : Field := ⟨3, 1⟩
def fSerOwnerState : Field := ⟨0, 3⟩
/-- SER.OWN_CMD (12). -/
def rSerOwnCmd : Nat := 0x200000 + 0x140
def fSerOwnCmdCmd : Field := ⟨60, 4⟩
def fSerOwnCmdArg : Field := ⟨4, 4⟩
/-- SER.GRANT[i] (12). -/
def rSerGrant (i : Nat) : Nat := 0x200000 + 0x200 + 8 * i
def fSerGrantValid : Field := ⟨63, 1⟩
def fSerGrantRid : Field := ⟨32, 16⟩
def fSerGrantBlocks : Field := ⟨0, 14⟩
/-- FAB.STATUS (13 Table 13-8). -/
def rFabStatus (d : Nat) : Nat := fabBase d + 0x0
def fFabStatusDevice : Field := ⟨56, 8⟩
def fFabStatusGroupSize : Field := ⟨52, 4⟩
def fFabStatusGroupCount : Field := ⟨48, 4⟩
def fFabStatusRole : Field := ⟨46, 2⟩
def fFabStatusDisc : Field := ⟨43, 3⟩
def fFabStatusSplit : Field := ⟨42, 1⟩
def fFabStatusExpelled : Field := ⟨41, 1⟩
def fFabStatusPresent : Field := ⟨16, 16⟩
def fFabStatusLive : Field := ⟨0, 16⟩
/-- FAB.LG[i] (13 Table 13-9). -/
def rFabLg (d i : Nat) : Nat := fabBase d + 0x100 + 8 * i
def fFabLgState : Field := ⟨61, 3⟩
def fFabLgRole : Field := ⟨59, 2⟩
def fFabLgSplit : Field := ⟨57, 2⟩
def fFabLgPeer : Field := ⟨48, 8⟩
def fFabLgPeerLg : Field := ⟨43, 5⟩
def fFabLgLanesUp : Field := ⟨32, 8⟩
def fFabLgRetries : Field := ⟨16, 16⟩
def fFabLgFecUncorr : Field := ⟨0, 16⟩
/-- FAB.ERR (13 Table 13-10). -/
def rFabErr (d : Nat) : Nat := fabBase d + 0x200
def fFabErrLastLg : Field := ⟨56, 8⟩
def fFabErrLastDev : Field := ⟨48, 8⟩
def fFabErrDigestSplit : Field := ⟨6, 1⟩
def fFabErrProto : Field := ⟨5, 1⟩
def fFabErrCollFail : Field := ⟨4, 1⟩
def fFabErrCollLate : Field := ⟨3, 1⟩
def fFabErrMiswired : Field := ⟨2, 1⟩
def fFabErrLinkFail : Field := ⟨1, 1⟩
def fFabErrLaneFail : Field := ⟨0, 1⟩
/-- FAB.COLL_Q[i] (13 Table 13-11). -/
def rFabCollQ (d i : Nat) : Nat := fabBase d + 0x300 + 8 * i
def fFabCollQState : Field := ⟨62, 2⟩
def fFabCollQCause : Field := ⟨48, 8⟩
def fFabCollQPending : Field := ⟨32, 10⟩
def fFabCollQConsumer : Field := ⟨0, 32⟩
/-- FAB.COLL_LAST (13 Table 13-12). -/
def rFabCollLast (d : Nat) : Nat := fabBase d + 0x380
def fFabCollLastCollId : Field := ⟨32, 32⟩
def fFabCollLastCause : Field := ⟨8, 8⟩
def fFabCollLastQueue : Field := ⟨0, 4⟩
/-- FAB.MEMBER[i] (13 Table 13-13). -/
def rFabMember (d i : Nat) : Nat := fabBase d + 0x400 + 8 * i
def fFabMemberGen : Field := ⟨32, 32⟩
def fFabMemberExpelled : Field := ⟨27, 1⟩
def fFabMemberUnaligned : Field := ⟨26, 1⟩
def fFabMemberLive : Field := ⟨25, 1⟩
def fFabMemberRouted : Field := ⟨0, 16⟩
/-- PWR.STATUS (14 Table 14-9). -/
def rPwrStatus : Nat := 0x800000 + 0x0
def fPwrStatusInputW : Field := ⟨48, 16⟩
def fPwrStatusCapW : Field := ⟨32, 16⟩
def fPwrStatusTheta : Field := ⟨24, 8⟩
def fPwrStatusBubble : Field := ⟨16, 8⟩
def fPwrStatusLimiting : Field := ⟨8, 8⟩
/-- PWR.CAP_SET (14 Table 14-10). -/
def rPwrCapSet : Nat := 0x800000 + 0x8
def fPwrCapSetCap : Field := ⟨0, 16⟩
/-- PWR.BOARD (14 Table 14-11). -/
def rPwrBoard : Nat := 0x800000 + 0x10
def fPwrBoardThrot : Field := ⟨16, 1⟩
def fPwrBoardBoardCap : Field := ⟨0, 16⟩
/-- PWR.INPUT (14 Table 14-12). -/
def rPwrInput : Nat := 0x800000 + 0x18
def fPwrInputVin : Field := ⟨48, 16⟩
def fPwrInputIin : Field := ⟨32, 16⟩
/-- PWR.ENERGY (14 Table 14-13). -/
def rPwrEnergy : Nat := 0x800000 + 0x20
def fPwrEnergyMj : Field := ⟨0, 64⟩
/-- PWR.THR_DUR[i] (14 Table 14-14). -/
def rPwrThrDur (i : Nat) : Nat := 0x800000 + 0x100 + 8 * i
def fPwrThrDurBeats : Field := ⟨0, 64⟩
/-- PWR.FAULT (14 Table 14-15). -/
def rPwrFault : Nat := 0x800000 + 0x200
def fPwrFaultLastGal : Field := ⟨56, 8⟩
def fPwrFaultPeak : Field := ⟨6, 1⟩
def fPwrFaultEfuse : Field := ⟨5, 1⟩
def fPwrFaultShort : Field := ⟨4, 1⟩
def fPwrFaultCrack : Field := ⟨3, 1⟩
def fPwrFaultGalDark : Field := ⟨2, 1⟩
def fPwrFaultGalCapped : Field := ⟨1, 1⟩
def fPwrFaultPhaseLost : Field := ⟨0, 1⟩
/-- PWR.GAL[i] (14 Table 14-16). -/
def rPwrGal (i : Nat) : Nat := 0x800000 + 0x1000 + 8 * i
def fPwrGalState : Field := ⟨61, 3⟩
def fPwrGalCause : Field := ⟨56, 5⟩
def fPwrGalPhaseOk : Field := ⟨32, 16⟩
def fPwrGalILim : Field := ⟨24, 8⟩
def fPwrGalIOut : Field := ⟨16, 8⟩
def fPwrGalSkip : Field := ⟨8, 8⟩
def fPwrGalReasons : Field := ⟨0, 6⟩
/-- THM.FAULT (14 Table 14-17). -/
def rThmFault : Nat := 0x900000 + 0x0
def fThmFaultLastUnit : Field := ⟨56, 8⟩
def fThmFaultInletWarn : Field := ⟨4, 1⟩
def fThmFaultHeatPark : Field := ⟨3, 1⟩
def fThmFaultTrip : Field := ⟨2, 1⟩
def fThmFaultHard : Field := ⟨1, 1⟩
def fThmFaultSoft : Field := ⟨0, 1⟩
/-- THM.GAL_TEMP[i] (14 Table 14-18). -/
def rThmGalTemp (i : Nat) : Nat := 0x900000 + 0x1000 + 8 * i
/-- THM.DIE_TEMP[i] (14 Table 14-19). -/
def rThmDieTemp (i : Nat) : Nat := 0x900000 + 0x2000 + 8 * i
def fThmDieTempTemp : Field := ⟨0, 16⟩
/-- CLK.MODE (14 Table 14-20). -/
def rClkMode : Nat := 0xA00000 + 0x0
def fClkModeExpertFreq : Field := ⟨0, 1⟩
/-- CLK.MARGIN (14 Table 14-21). -/
def rClkMargin : Nat := 0xA00000 + 0x8
def fClkMarginLastP : Field := ⟨54, 10⟩
def fClkMarginFloor : Field := ⟨3, 1⟩
def fClkMarginRefined : Field := ⟨2, 1⟩
def fClkMarginAlert : Field := ⟨1, 1⟩
def fClkMarginWarn : Field := ⟨0, 1⟩
/-- CLK.FMAX[i] (14 Table 14-22). -/
def rClkFmax (i : Nat) : Nat := 0xA00000 + 0x1000 + 8 * i
def fClkFmaxRefined : Field := ⟨32, 8⟩
def fClkFmaxFused : Field := ⟨16, 16⟩
def fClkFmaxFmax : Field := ⟨0, 16⟩
/-- CLK.FSET[i] (14 Table 14-23). -/
def rClkFset (i : Nat) : Nat := 0xA00000 + 0x3000 + 8 * i
def fClkFsetFnow : Field := ⟨16, 16⟩
def fClkFsetFset : Field := ⟨0, 16⟩
/-- BRU.STATUS (15 Table 15-10). -/
def rBruStatus : Nat := 0xB00000 + 0x0
def fBruStatusStartMs : Field := ⟨48, 16⟩
def fBruStatusWarm : Field := ⟨40, 1⟩
def fBruStatusFailStage : Field := ⟨32, 8⟩
def fBruStatusFailUnit : Field := ⟨16, 16⟩
def fBruStatusFailCause : Field := ⟨8, 8⟩
/-- BRU.FAULT (15 Table 15-11). -/
def rBruFault : Nat := 0xB00000 + 0x8
def fBruFaultLastCause : Field := ⟨56, 8⟩
def fBruFaultBlobBad : Field := ⟨7, 1⟩
def fBruFaultNoSpare : Field := ⟨6, 1⟩
def fBruFaultRollbackBlocked : Field := ⟨5, 1⟩
def fBruFaultStackLost : Field := ⟨4, 1⟩
def fBruFaultRouteUncovered : Field := ⟨3, 1⟩
def fBruFaultFault : Field := ⟨0, 1⟩
/-- BRU.CL[i] (15 Table 15-12). -/
def rBruCl (i : Nat) : Nat := 0xB00000 + 0x1000 + 8 * i
def fBruClState : Field := ⟨61, 3⟩
def fBruClPending : Field := ⟨60, 1⟩
def fBruClClass : Field := ⟨58, 2⟩
def fBruClLogical : Field := ⟨32, 16⟩
def fBruClPosition : Field := ⟨16, 16⟩
def fBruClTrials : Field := ⟨0, 16⟩
/-- CL.CNT_CFG[i] (16 Table 16-8). -/
def rClCntCfg (p i : Nat) : Nat := clBase p + 0x8000 + 8 * i
def fClCntCfgLayer : Field := ⟨52, 12⟩
def fClCntCfgOp : Field := ⟨32, 20⟩
def fClCntCfgOvf : Field := ⟨13, 1⟩
def fClCntCfgFilter : Field := ⟨10, 2⟩
def fClCntCfgMode : Field := ⟨8, 2⟩
def fClCntCfgEvent : Field := ⟨0, 8⟩
/-- CL.CNT[i] (16 Table 16-9). -/
def rClCnt (p i : Nat) : Nat := clBase p + 0x8200 + 8 * i
def fClCntSeq : Field := ⟨48, 16⟩
def fClCntValue : Field := ⟨0, 48⟩
/-- CL.CNT_DONE[i] (16 Table 16-10). -/
def rClCntDone (p i : Nat) : Nat := clBase p + 0x8400 + 8 * i
def fClCntDoneSeq : Field := ⟨48, 16⟩
def fClCntDoneComplete : Field := ⟨47, 1⟩
def fClCntDoneValue : Field := ⟨0, 47⟩
/-- CL.TRC_CTL (16 Table 16-11). -/
def rClTrcCtl (p : Nat) : Nat := clBase p + 0x8700
def fClTrcCtlRearm : Field := ⟨2, 1⟩
def fClTrcCtlMode : Field := ⟨1, 1⟩
def fClTrcCtlEnable : Field := ⟨0, 1⟩
/-- CL.TRC_PTR (16 Table 16-12). -/
def rClTrcPtr (p : Nat) : Nat := clBase p + 0x8708
def fClTrcPtrDropped : Field := ⟨32, 32⟩
def fClTrcPtrWraps : Field := ⟨12, 20⟩
def fClTrcPtrWr : Field := ⟨0, 11⟩
/-- OBS.STATUS (16 Table 16-13). -/
def rObsStatus : Nat := 0xC00000 + 0x0
def fObsStatusSnapId : Field := ⟨32, 32⟩
def fObsStatusCycle : Field := ⟨2, 1⟩
def fObsStatusScanning : Field := ⟨1, 1⟩
def fObsStatusFrozen : Field := ⟨0, 1⟩
/-- SEC.STATUS (17 Table 17-7). -/
def rSecStatus : Nat := 0x100000 + 0x0
def fSecStatusLogCount : Field := ⟨32, 32⟩
def fSecStatusIdVersion : Field := ⟨4, 4⟩
def fSecStatusCertBad : Field := ⟨3, 1⟩
def fSecStatusLogFull : Field := ⟨2, 1⟩
def fSecStatusBank : Field := ⟨1, 1⟩
def fSecStatusBootOk : Field := ⟨0, 1⟩
/-- SEC.VERIFY_LAST (17 Table 17-8). -/
def rSecVerifyLast : Nat := 0x100000 + 0x8
def fSecVerifyLastType : Field := ⟨48, 16⟩
def fSecVerifyLastSvn : Field := ⟨16, 32⟩
def fSecVerifyLastSlot : Field := ⟨8, 4⟩
def fSecVerifyLastCause : Field := ⟨4, 4⟩
def fSecVerifyLastFail : Field := ⟨0, 1⟩
/-- SEC.ROOT[i] (17 Table 17-9). -/
def rSecRoot (i : Nat) : Nat := 0x100000 + 0x100 + 8 * i
def fSecRootRevoked : Field := ⟨63, 1⟩
def fSecRootBlank : Field := ⟨62, 1⟩
def fSecRootUsage : Field := ⟨0, 16⟩
/-- SEC.SVN[i] (17 Table 17-10). -/
def rSecSvn (i : Nat) : Nat := 0x100000 + 0x200 + 8 * i
def fSecSvnCount : Field := ⟨0, 6⟩
/-- SEC.MEAS[i] (17 Table 17-11). -/
def rSecMeas (i : Nat) : Nat := 0x100000 + 0x1000 + 8 * i
def fSecMeasBytes : Field := ⟨0, 64⟩
/-- MOD.STRAPS (18 Table 18-4). -/
def rModStraps : Nat := 0x0 + 0x10
def fModStrapsGroup : Field := ⟨20, 4⟩
def fModStrapsSlot : Field := ⟨16, 4⟩
def fModStrapsRole : Field := ⟨14, 2⟩
def fModStrapsGsize : Field := ⟨10, 4⟩
def fModStrapsGcount : Field := ⟨6, 4⟩
def fModStrapsRole11 : Field := ⟨5, 1⟩
def fModStrapsLatched : Field := ⟨0, 1⟩
/-- CL.MAT_ERR_CNT (02 R77). -/
def rClMatErrCnt (p : Nat) : Nat := clBase p + 0x2010
def fClMatErrCntCount : Field := ⟨0, 32⟩
/-- CL.WIN_NACK_CNT (05 Table 05-16). -/
def rClWinNackCnt (p : Nat) : Nat := clBase p + 0x5418
def fClWinNackCntCount : Field := ⟨0, 32⟩
/-- CL.RTR_ERR_CNT[i] (06 Table 06-9). -/
def rClRtrErrCnt (p i : Nat) : Nat := clBase p + 0x6048 + 8 * i
def fClRtrErrCntCount : Field := ⟨0, 32⟩
/-- MSD.ERR_CNT[i] (07 Table 07-11). -/
def rMsdErrCnt (n i : Nat) : Nat := msdBase n + 0x10 + 8 * i
def fMsdErrCntCount : Field := ⟨0, 32⟩
/-- CAL.SWITCH_STAT_CNT (08). -/
def rCalSwitchStatCnt : Nat := 0x600000 + 0x40
def fCalSwitchStatCntCount : Field := ⟨0, 32⟩
/-- CAL.LAST_CNT (08). -/
def rCalLastCnt : Nat := 0x600000 + 0x48
def fCalLastCntCount : Field := ⟨0, 32⟩
/-- ESC.FAULT_CNT[i] (09). -/
def rEscFaultCnt (i : Nat) : Nat := 0x700000 + 0x28 + 8 * i
def fEscFaultCntCount : Field := ⟨0, 32⟩
/-- SVC.INTAKE_ERR_ID (10). -/
def rSvcIntakeErrId : Nat := 0xD00000 + 0x20
/-- SVC.INTAKE_ERR_CNT (10). -/
def rSvcIntakeErrCnt : Nat := 0xD00000 + 0x28
def fSvcIntakeErrCntCount : Field := ⟨0, 32⟩
/-- SER.PORT_ERR_CNT[i] (12 Table 12-11; index 6p + i). -/
def rSerPortErrCnt (i : Nat) : Nat := 0x200000 + 0x20 + 8 * i
def fSerPortErrCntCount : Field := ⟨0, 32⟩
/-- SER.LEASE_END (12). -/
def rSerLeaseEnd : Nat := 0x200000 + 0x108
/-- SER.CAND[i] (12). -/
def rSerCand (i : Nat) : Nat := 0x200000 + 0x110 + 8 * i
/-- FAB.ERR_CNT[i] (13). -/
def rFabErrCnt (d i : Nat) : Nat := fabBase d + 0x208 + 8 * i
def fFabErrCntCount : Field := ⟨0, 32⟩
/-- PWR.FAULT_CNT[i] (14). -/
def rPwrFaultCnt (i : Nat) : Nat := 0x800000 + 0x208 + 8 * i
def fPwrFaultCntCount : Field := ⟨0, 32⟩
/-- THM.FAULT_CNT[i] (14). -/
def rThmFaultCnt (i : Nat) : Nat := 0x900000 + 0x8 + 8 * i
def fThmFaultCntCount : Field := ⟨0, 32⟩
/-- CLK.MARGIN_CNT[i] (14). -/
def rClkMarginCnt (i : Nat) : Nat := 0xA00000 + 0x10 + 8 * i
def fClkMarginCntCount : Field := ⟨0, 32⟩
/-- BRU.FAULT_CNT (15). -/
def rBruFaultCnt : Nat := 0xB00000 + 0x10
def fBruFaultCntCount : Field := ⟨0, 32⟩
/-- BRU.LOG (15). -/
def rBruLog : Nat := 0xB00000 + 0x18
/-- BRU.STAGE_MS[i] (15). -/
def rBruStageMs (i : Nat) : Nat := 0xB00000 + 0x100 + 8 * i
/-- CL.STREAM_SINCE[i] (16). -/
def rClStreamSince (p i : Nat) : Nat := clBase p + 0x8600 + 8 * i
/-- CL.TRC_ADDR (16). -/
def rClTrcAddr (p : Nat) : Nat := clBase p + 0x8710
def fClTrcAddrRecord : Field := ⟨0, 11⟩
def fClTrcAddrWord : Field := ⟨11, 2⟩
/-- CL.TRC_DATA (16). -/
def rClTrcData (p : Nat) : Nat := clBase p + 0x8718
/-- MSD.CNT_CFG[i] (16 Table 16-1). -/
def rMsdCntCfg (n i : Nat) : Nat := msdBase n + 0x1000 + 8 * i
def fMsdCntCfgLayer : Field := ⟨52, 12⟩
def fMsdCntCfgOp : Field := ⟨32, 20⟩
def fMsdCntCfgOvf : Field := ⟨13, 1⟩
def fMsdCntCfgFilter : Field := ⟨10, 2⟩
def fMsdCntCfgEvent : Field := ⟨0, 8⟩
/-- MSD.CNT[i] (16). -/
def rMsdCnt (n i : Nat) : Nat := msdBase n + 0x1100 + 8 * i
def fMsdCntValue : Field := ⟨0, 48⟩
/-- MSD.TRC_CTL (16). -/
def rMsdTrcCtl (n : Nat) : Nat := msdBase n + 0x1200
def fMsdTrcCtlMode : Field := ⟨1, 1⟩
def fMsdTrcCtlEnable : Field := ⟨0, 1⟩
/-- MSD.TRC_PTR (16). -/
def rMsdTrcPtr (n : Nat) : Nat := msdBase n + 0x1208
/-- MSD.TRC_ADDR (16). -/
def rMsdTrcAddr (n : Nat) : Nat := msdBase n + 0x1210
def fMsdTrcAddrRecord : Field := ⟨0, 11⟩
def fMsdTrcAddrWord : Field := ⟨11, 2⟩
/-- MSD.TRC_DATA (16). -/
def rMsdTrcData (n : Nat) : Nat := msdBase n + 0x1218
/-- FAB.CNT_CFG[i] (16 Table 16-1). -/
def rFabCntCfg (d i : Nat) : Nat := fabBase d + 0x1000 + 8 * i
def fFabCntCfgLayer : Field := ⟨52, 12⟩
def fFabCntCfgOp : Field := ⟨32, 20⟩
def fFabCntCfgOvf : Field := ⟨13, 1⟩
def fFabCntCfgFilter : Field := ⟨10, 2⟩
def fFabCntCfgEvent : Field := ⟨0, 8⟩
/-- FAB.CNT[i] (16). -/
def rFabCnt (d i : Nat) : Nat := fabBase d + 0x1100 + 8 * i
def fFabCntValue : Field := ⟨0, 48⟩
/-- FAB.TRC_CTL (16). -/
def rFabTrcCtl (d : Nat) : Nat := fabBase d + 0x1200
def fFabTrcCtlSample : Field := ⟨8, 4⟩
def fFabTrcCtlMode : Field := ⟨1, 1⟩
def fFabTrcCtlEnable : Field := ⟨0, 1⟩
/-- FAB.TRC_PTR (16). -/
def rFabTrcPtr (d : Nat) : Nat := fabBase d + 0x1208
/-- FAB.TRC_ADDR (16). -/
def rFabTrcAddr (d : Nat) : Nat := fabBase d + 0x1210
def fFabTrcAddrRecord : Field := ⟨0, 11⟩
def fFabTrcAddrWord : Field := ⟨11, 2⟩
/-- FAB.TRC_DATA (16). -/
def rFabTrcData (d : Nat) : Nat := fabBase d + 0x1218
/-- OBS.STATUS_CNT (16). -/
def rObsStatusCnt : Nat := 0xC00000 + 0x8
def fObsStatusCntCount : Field := ⟨0, 32⟩
/-- OBS.HANG_CTL (16). -/
def rObsHangCtl : Nat := 0xC00000 + 0x10
def fObsHangCtlBeats : Field := ⟨0, 64⟩
/-- OBS.GAL_CNT_CFG[i] (16 Table 16-1; index 8n + i). -/
def rObsGalCntCfg (i : Nat) : Nat := 0xC00000 + 0x10000 + 8 * i
def fObsGalCntCfgLayer : Field := ⟨52, 12⟩
def fObsGalCntCfgOp : Field := ⟨32, 20⟩
def fObsGalCntCfgOvf : Field := ⟨13, 1⟩
def fObsGalCntCfgFilter : Field := ⟨10, 2⟩
def fObsGalCntCfgEvent : Field := ⟨0, 8⟩
/-- OBS.GAL_CNT[i] (16; index 8n + i). -/
def rObsGalCnt (i : Nat) : Nat := 0xC00000 + 0x20000 + 8 * i
def fObsGalCntValue : Field := ⟨0, 48⟩
/-- SEC.VERIFY_LAST_CNT (17). -/
def rSecVerifyLastCnt : Nat := 0x100000 + 0x10
def fSecVerifyLastCntCount : Field := ⟨0, 32⟩
/-- BRU.GEN_MIRROR[i] (15 R452; eight generations a word). -/
def rBruGenMirror (i : Nat) : Nat := 0xB00000 + 0x80000 + 8 * i

/-- The registers of the MOD block whose bits a plain write can change.  -/
def specsMod : List RegSpec := [
]

/-- The registers of a CL block whose bits a plain write can change.  -/
def specsCl : List RegSpec := [
  ⟨0x1000, 0, 1, 0x0, 0x1, false⟩,
  ⟨0x1008, 0, 1, 0x0, 0x0, true⟩,
  ⟨0x1300, 8, 64, 0xFFFFFFFF, 0x0, false⟩,
  ⟨0x1700, 0, 1, 0x0, 0xFFFFFFFFFFFFFFFF, false⟩,
  ⟨0x1810, 0, 1, 0x0, 0x3, false⟩,
  ⟨0x1818, 8, 2, 0x0, 0x0, true⟩,
  ⟨0x2008, 0, 1, 0x0, 0x1, false⟩,
  ⟨0x2010, 0, 1, 0x0, 0x0, true⟩,
  ⟨0x2018, 0, 1, 0xF1, 0x0, false⟩,
  ⟨0x2800, 0, 1, 0x1, 0x0, false⟩,
  ⟨0x2808, 0, 1, 0x0, 0x3F, false⟩,
  ⟨0x2810, 8, 6, 0x0, 0x0, true⟩,
  ⟨0x5000, 16, 64, 0x3F003FFFFFFFFF, 0x0, false⟩,
  ⟨0x5008, 16, 64, 0xFFFFFF8003FF03FF, 0x0, false⟩,
  ⟨0x5410, 0, 1, 0x0, 0x1, false⟩,
  ⟨0x5418, 0, 1, 0x0, 0x0, true⟩,
  ⟨0x6040, 0, 1, 0x0, 0x7, false⟩,
  ⟨0x6048, 8, 3, 0x0, 0x0, true⟩,
  ⟨0x6100, 8, 32, 0xFF00FFFFFC000000, 0x0, false⟩,
  ⟨0x6200, 0, 1, 0xFFFFFFFFFFFFFFFF, 0x0, false⟩,
  ⟨0x7008, 0, 1, 0x0, 0x1, false⟩,
  ⟨0x7010, 0, 1, 0x0, 0x0, true⟩,
  ⟨0x8000, 8, 64, 0xFFFFFFFF00000FFF, 0x2000, false⟩,
  ⟨0x8200, 8, 64, 0xFFFFFFFFFFFF, 0x0, false⟩,
  ⟨0x8700, 0, 1, 0x3, 0x0, false⟩,
  ⟨0x8710, 0, 1, 0x1FFF, 0x0, false⟩]

/-- The registers of the BRU block whose bits a plain write can change.  -/
def specsBru : List RegSpec := [
  ⟨0x8, 0, 1, 0x0, 0x1, false⟩,
  ⟨0x10, 0, 1, 0x0, 0x0, true⟩]

/-- The registers of an MSD block whose bits a plain write can change.  -/
def specsMsd : List RegSpec := [
  ⟨0x8, 0, 1, 0x0, 0x7, false⟩,
  ⟨0x10, 8, 3, 0x0, 0x0, true⟩,
  ⟨0x100, 8, 8, 0x9F9F9F9F9F9F9F9F, 0x0, false⟩,
  ⟨0x140, 0, 1, 0x1, 0x0, false⟩,
  ⟨0x1000, 8, 32, 0xFFFFFFFF00000CFF, 0x2000, false⟩,
  ⟨0x1100, 8, 32, 0xFFFFFFFFFFFF, 0x0, false⟩,
  ⟨0x1200, 0, 1, 0x3, 0x0, false⟩,
  ⟨0x1210, 0, 1, 0x1FFF, 0x0, false⟩]

/-- The registers of the CAL block whose bits a plain write can change.  -/
def specsCal : List RegSpec := [
  ⟨0x28, 0, 1, 0x0, 0x1, false⟩,
  ⟨0x38, 0, 1, 0x0, 0x1, false⟩,
  ⟨0x40, 0, 1, 0x0, 0x0, true⟩,
  ⟨0x48, 0, 1, 0x0, 0x0, true⟩]

/-- The registers of the ESC block whose bits a plain write can change.  -/
def specsEsc : List RegSpec := [
  ⟨0x20, 0, 1, 0x0, 0x7, false⟩,
  ⟨0x28, 8, 3, 0x0, 0x0, true⟩,
  ⟨0x100, 16, 8, 0xFFFFFFFFFFFFFFFF, 0x0, false⟩,
  ⟨0x108, 16, 8, 0xF0, 0x2, false⟩]

/-- The registers of the SVC block whose bits a plain write can change.  -/
def specsSvc : List RegSpec := [
  ⟨0x10, 0, 1, 0x1, 0x0, false⟩,
  ⟨0x18, 0, 1, 0x0, 0x1, false⟩,
  ⟨0x28, 0, 1, 0x0, 0x0, true⟩]

/-- The registers of the SER block whose bits a plain write can change.  -/
def specsSer : List RegSpec := [
  ⟨0x10, 8, 2, 0x0, 0x3F, false⟩,
  ⟨0x20, 8, 12, 0x0, 0x0, true⟩,
  ⟨0x80, 8, 2, 0x7, 0x0, false⟩,
  ⟨0x90, 0, 1, 0xFFFFFFFFFFFF0001, 0x0, false⟩,
  ⟨0x100, 0, 1, 0x0, 0x8, false⟩,
  ⟨0x200, 8, 16, 0x8000FFFF00001FFF, 0x0, false⟩]

/-- The registers of a FAB block whose bits a plain write can change.  -/
def specsFab : List RegSpec := [
  ⟨0x200, 0, 1, 0x0, 0x7F, false⟩,
  ⟨0x208, 8, 7, 0x0, 0x0, true⟩,
  ⟨0x1000, 8, 32, 0xFFFFFFFF00000CFF, 0x2000, false⟩,
  ⟨0x1100, 8, 32, 0xFFFFFFFFFFFF, 0x0, false⟩,
  ⟨0x1200, 0, 1, 0xF03, 0x0, false⟩,
  ⟨0x1210, 0, 1, 0x1FFF, 0x0, false⟩]

/-- The registers of the PWR block whose bits a plain write can change.  -/
def specsPwr : List RegSpec := [
  ⟨0x8, 0, 1, 0xFFFF, 0x0, false⟩,
  ⟨0x200, 0, 1, 0x0, 0x7F, false⟩,
  ⟨0x208, 8, 7, 0x0, 0x0, true⟩]

/-- The registers of the THM block whose bits a plain write can change.  -/
def specsThm : List RegSpec := [
  ⟨0x0, 0, 1, 0x0, 0x1F, false⟩,
  ⟨0x8, 8, 5, 0x0, 0x0, true⟩]

/-- The registers of the CLK block whose bits a plain write can change.  -/
def specsClk : List RegSpec := [
  ⟨0x0, 0, 1, 0x1, 0x0, false⟩,
  ⟨0x8, 0, 1, 0x0, 0xF, false⟩,
  ⟨0x10, 8, 4, 0x0, 0x0, true⟩,
  ⟨0x3000, 8, 864, 0xFFFF, 0x0, false⟩]

/-- The registers of the OBS block whose bits a plain write can change.  -/
def specsObs : List RegSpec := [
  ⟨0x0, 0, 1, 0x0, 0x4, false⟩,
  ⟨0x8, 0, 1, 0x0, 0x0, true⟩,
  ⟨0x10, 0, 1, 0xFFFFFFFFFFFFFFFF, 0x0, false⟩,
  ⟨0x10000, 8, 1152, 0xFFFFFFFF00000CFF, 0x2000, false⟩,
  ⟨0x20000, 8, 1152, 0xFFFFFFFFFFFF, 0x0, false⟩]

/-- The registers of the SEC block whose bits a plain write can change.  -/
def specsSec : List RegSpec := [
  ⟨0x8, 0, 1, 0x0, 0x1, false⟩,
  ⟨0x10, 0, 1, 0x0, 0x0, true⟩]

/-- SEC.ROOT[k] from the fuses: usage mask, revoked bit, and BLANK for a slot whose hash is all zeros (17 R492). -/
def rootReset (k : Nat) : Word :=
  (Config.fuseRoot k &&& 0x800000000000FFFF) |||
    (if (List.range 4).all (fun w => Config.fuseHash k w == 0) then 1#64 <<< 62 else 0)

/-- The value a register holds at reset: the value its header line gives, 0 for every other register; fuse registers hold
the part's fuses (log 11) and CL.SFU_TAB its fixed table (03 R110). -/
def regReset (k : Nat) : Word :=
  if k < 0x1000000 then
    (if k = rModId then 0x0F1A080041020100
     else if k = rModStatus then 0x100
     else if k = rSecStatus then 0x10
     else if 0x100100 ≤ k ∧ k < 0x100120 ∧ k % 8 = 0 then rootReset ((k - 0x100100) / 8)
     else if 0x100200 ≤ k ∧ k < 0x100280 ∧ k % 8 = 0 then BitVec.ofNat 64 (Config.fuseSvn ((k - 0x100200) / 8) % 64)
     else if k = rFabTrcCtl 0 ∨ k = rFabTrcCtl 1 then 1
     else if k = rPwrStatus then 0x465000000000
     else if k = rPwrCapSet ∨ k = rPwrBoard then 0x4650
     else if 0x801000 ≤ k ∧ k < 0x801000 + 8 * 144 ∧ k % 8 = 0 then 0xA000000000000000
     else if 0xA01000 ≤ k ∧ k < 0xA01000 + 8 * 864 ∧ k % 8 = 0 then
       (let f := Config.fuseFmax ((k - 0xA01000) / 8); BitVec.ofNat 64 (f % 65536 * 65536 + f % 65536))
     else if k = rObsHangCtl then 1000000000
     else if k = rSvcAdmitCtl then 1
     else 0)
  else if k < 0x2000000 then
    (let o := k % 0x100000
     if 0x100 ≤ o ∧ o < 0x140 ∧ o % 8 = 0 then
       BitVec.ofNat 64 (0x0706050403020100 + 0x0808080808080808 * ((o - 0x100) / 8 % 4))
     else if o = 0x140 ∨ o = 0x1200 then 1 else 0)
  else if 0x30000000 ≤ k then
    (let o := k % 0x10000
     if o = 0x2000 then 0xFFFF0000
     else if o = 0x2018 then 0x41
     else if o = 0x2800 then 1
     else if o = 0x1800 then 0xAAAAAA
     else if o = 0x8700 then 1
     else if 0x3000 ≤ o ∧ o < 0x4800 ∧ o % 8 = 0 then
       (let w := (o - 0x3000) / 8
        let f := w / 128
        let j := w % 128 / 2
        if w % 2 = 0 then BitVec.ofNat 64 ((sfuCoef f j 1) * 2 ^ 32 + sfuCoef f j 0) else BitVec.ofNat 64 (sfuCoef f j 2))
     else 0)
  else 0


end Sys2Proof.Machine
end

