-- ==== Sys2Proof/Machine/Float.lean ====
section
/-! DEFINITION. Number formats and arithmetic, defined to the bit: encodings, conversions, the one rounding of each operation,
stochastic rounding, tree sums and special functions (03 R79-R105). Values are exact dyadic numbers until their one rounding. -/
namespace Sys2Proof.Machine

/-- A floating-point element format of Table 03-1: exponent and mantissa bits, bias, the largest finite value as
`maxM × 2^maxE`, and which non-finite encodings it has (0 none, 1 NaN only at all ones, 2 infinity and NaN as IEEE 754). -/
structure FloatFmt where
  eb : Nat
  mb : Nat
  bias : Nat
  maxM : Nat
  maxE : Int
  special : Nat
deriving DecidableEq, Repr

/-- An exact value: `± m × 2^e`, an infinity, or NaN. -/
inductive Num where
  | fin (neg : Bool) (m : Nat) (e : Int)
  | inf (neg : Bool)
  | nan
deriving DecidableEq, Repr

def fp32 : FloatFmt := ⟨8, 23, 127, 2 ^ 24 - 1, 104, 2⟩
def fpBf16 : FloatFmt := ⟨8, 7, 127, 255, 120, 2⟩
def fp16 : FloatFmt := ⟨5, 10, 15, 2047, 5, 2⟩
def fpE4m3 : FloatFmt := ⟨4, 3, 7, 14, 5, 1⟩
def fpE5m2 : FloatFmt := ⟨5, 2, 15, 7, 13, 2⟩
def fpE3m2 : FloatFmt := ⟨3, 2, 3, 7, 2, 0⟩
def fpE2m3 : FloatFmt := ⟨2, 3, 1, 15, -1, 0⟩
def fpE2m1 : FloatFmt := ⟨2, 1, 1, 3, 1, 0⟩

/-- Bits of an encoding of the format. -/
def fmtBits (f : FloatFmt) : Nat := 1 + f.eb + f.mb

/-- The canonical NaN (03 R81). -/
def canonNan (f : FloatFmt) : Nat :=
  if f.special = 1 then 2 ^ (f.eb + f.mb) - 1
  else (2 ^ f.eb - 1) * 2 ^ f.mb + 2 ^ (f.mb - 1)

/-- The encoding of an infinity, for a format that has one. -/
def infBits (f : FloatFmt) (neg : Bool) : Nat := bit neg * 2 ^ (f.eb + f.mb) + (2 ^ f.eb - 1) * 2 ^ f.mb

/-- The exact value of an encoding (03 R79, Table 03-1). -/
def decodeNum (f : FloatFmt) (x : Nat) : Num :=
  let man := x % 2 ^ f.mb
  let exp := bitsAt f.mb f.eb x
  let neg := bitAt x (f.eb + f.mb)
  if f.special = 2 ∧ exp = 2 ^ f.eb - 1 then (if man = 0 then .inf neg else .nan)
  else if f.special = 1 ∧ exp = 2 ^ f.eb - 1 ∧ man = 2 ^ f.mb - 1 then .nan
  else if exp = 0 then .fin neg man (1 - (f.bias : Int) - f.mb)
  else .fin neg (2 ^ f.mb + man) ((exp : Int) - f.bias - f.mb)

/-- `m × 2^e` in units of `2^q`, rounded to nearest with ties to even (03 R84). -/
def rneUnits (m : Nat) (e q : Int) : Nat :=
  if q ≤ e then m * 2 ^ (e - q).toNat
  else
    let k := (q - e).toNat
    let lo := m / 2 ^ k
    let r := m % 2 ^ k
    let half := 2 ^ (k - 1)
    if half < r ∨ (r = half ∧ lo % 2 = 1) then lo + 1 else lo

/-- `m × 2^e` in units of `2^q` under stochastic rounding with random value `r` (03 R89). -/
def srUnits (m : Nat) (e q : Int) (r : Nat) : Nat :=
  if q ≤ e then m * 2 ^ (e - q).toNat
  else
    let k := (q - e).toNat
    let lo := m / 2 ^ k
    let d := (if k ≤ 16 then m * 2 ^ (16 - k) else m / 2 ^ (k - 16)) % 65536
    if m % 2 ^ k = 0 then lo else if 65536 ≤ d + r then lo + 1 else lo

/-- The random value of output element `e` of a command with seed `seed` (03 R90). -/
def srBits (seed e : Nat) : Nat :=
  let w := 2 ^ 64
  let z := (seed + 0x9E3779B97F4A7C15 * (e + 1)) % w
  let z := ((z ^^^ (z >>> 30)) * 0xBF58476D1CE4E5B9) % w
  let z := ((z ^^^ (z >>> 27)) * 0x94D049BB133111EB) % w
  let z := z ^^^ (z >>> 31)
  z >>> 48

/-- How a conversion rounds: to nearest, or stochastically with a random value (Table 03-4). -/
inductive Rnd where
  | rne
  | sr (r : Nat)
deriving DecidableEq, Repr

/-- Units of `2^q` by the rounding named. -/
def roundUnits (rnd : Rnd) (m : Nat) (e q : Int) : Nat :=
  match rnd with
  | .rne => rneUnits m e q
  | .sr r => srUnits m e q r

/-- The exponent of the unit in the last place of `m × 2^e` in a format; subnormals share the smallest one. -/
def quantum (f : FloatFmt) (m : Nat) (e : Int) : Int :=
  let emin : Int := 1 - (f.bias : Int) - f.mb
  if m = 0 then emin else max emin ((log2 m : Int) + e - f.mb)

/-- Whether `k × 2^q` is larger than the format's largest finite value (03 R85). -/
def overMax (f : FloatFmt) (k : Nat) (q : Int) : Bool :=
  if f.maxE ≤ q then decide (f.maxM < k * 2 ^ (q - f.maxE).toNat)
  else decide (f.maxM * 2 ^ (f.maxE - q).toNat < k)

/-- The encoding of `± k × 2^q` where `q` is the value's own quantum. -/
def packUnits (f : FloatFmt) (neg : Bool) (k : Nat) (q : Int) : Nat :=
  let e1 := (q + f.mb + f.bias - 1).toNat
  bit neg * 2 ^ (f.eb + f.mb) + (e1 * 2 ^ f.mb + k)

/-- The encoding of the largest finite value with a sign. -/
def maxBits (f : FloatFmt) (neg : Bool) : Nat := packUnits f neg f.maxM f.maxE

/-- A conversion to a floating-point format: one rounding, and the overflow and special rules of Table 03-3. The second
component says whether a finite value or an infinity was replaced by the largest finite value. -/
def convFloat (f : FloatFmt) (rnd : Rnd) (sat : Bool) (x : Num) : Nat × Bool :=
  match x with
  | .nan => (canonNan f, false)
  | .inf n => if sat then (maxBits f n, true) else if f.special = 2 then (infBits f n, false) else (canonNan f, false)
  | .fin n m e =>
    let q := quantum f m e
    let k := roundUnits rnd m e q
    if overMax f k q then
      (if sat then (maxBits f n, true) else if f.special = 2 then (infBits f n, false) else (canonNan f, false))
    else (packUnits f n k q, false)

/-- The exact value of an FP32 code. -/
def num32 (x : Nat) : Num := decodeNum fp32 x

/-- An exact value rounded once to FP32 by RNE. -/
def to32 (x : Num) : Nat := (convFloat fp32 .rne false x).1

def zero32 : Nat := 0
def one32 : Nat := 0x3F800000
def nan32 : Nat := 0x7FC00000
def pinf32 : Nat := 0x7F800000
def ninf32 : Nat := 0xFF800000

/-- Sign inverted. -/
def numNeg : Num → Num
  | .fin n m e => .fin (!n) m e
  | .inf n => .inf (!n)
  | .nan => .nan

/-- The exact product. Zero times infinity is NaN (03 R91). -/
def numMul : Num → Num → Num
  | .nan, _ => .nan
  | _, .nan => .nan
  | .inf a, .inf b => .inf (a != b)
  | .inf a, .fin b m _ => if m = 0 then .nan else .inf (a != b)
  | .fin a m _, .inf b => if m = 0 then .nan else .inf (a != b)
  | .fin a m e, .fin b n f => .fin (a != b) (m * n) (e + f)

/-- The exact sum; IEEE 754 signs of zero under RNE (03 R95). -/
def numAdd : Num → Num → Num
  | .nan, _ => .nan
  | _, .nan => .nan
  | .inf a, .inf b => if a = b then .inf a else .nan
  | .inf a, .fin _ _ _ => .inf a
  | .fin _ _ _, .inf b => .inf b
  | .fin a m e, .fin b n f =>
    if m = 0 ∧ n = 0 then .fin (a && b) 0 e
    else
      let q := min e f
      let x : Int := ((m * 2 ^ (e - q).toNat : Nat) : Int) * (if a then -1 else 1)
      let y : Int := ((n * 2 ^ (f - q).toNat : Nat) : Int) * (if b then -1 else 1)
      let z := x + y
      .fin (decide (z < 0)) z.natAbs q

/-- A value times a power of two, exact. -/
def numScale (k : Int) : Num → Num
  | .fin n m e => .fin n m (e + k)
  | x => x

/-- An integer as an exact value. -/
def numInt (x : Int) : Num := .fin (decide (x < 0)) x.natAbs 0

def add32 (a b : Nat) : Nat := to32 (numAdd (num32 a) (num32 b))
def sub32 (a b : Nat) : Nat := to32 (numAdd (num32 a) (numNeg (num32 b)))
def mul32 (a b : Nat) : Nat := to32 (numMul (num32 a) (num32 b))
/-- `a × b + c` with one rounding (03 R105). -/
def fma32 (a b c : Nat) : Nat := to32 (numAdd (numMul (num32 a) (num32 b)) (num32 c))

def isNan32 (x : Nat) : Bool := num32 x == .nan
def isInf32 (x : Nat) : Bool := match num32 x with | .inf _ => true | _ => false
def isFin32 (x : Nat) : Bool := match num32 x with | .fin _ _ _ => true | _ => false
def signOf32 (x : Nat) : Bool := bitAt x 31

/-- The order key of a non-NaN FP32 code: larger value, larger key; +0 above −0 (03 R99). -/
def ordKey32 (x : Nat) : Int := if signOf32 x then -1 - ((x % 2 ^ 31 : Nat) : Int) else ((x % 2 ^ 31 : Nat) : Int)

/-- Maximum of two elements (03 R99). -/
def max32 (a b : Nat) : Nat := if isNan32 a || isNan32 b then nan32 else if ordKey32 a < ordKey32 b then b else a
/-- Minimum of two elements (03 R99). -/
def min32 (a b : Nat) : Nat := if isNan32 a || isNan32 b then nan32 else if ordKey32 b < ordKey32 a then b else a

/-- One level of a balanced tree: neighbours added in FP32. -/
def pairSums : List Nat → List Nat
  | a :: b :: t => add32 a b :: pairSums t
  | l => l

/-- The balanced binary tree of FP32 additions over `2^k` values (03 R92): splitting into halves and adding neighbours
first give the same tree. -/
def treeSum : Nat → List Nat → Nat
  | 0, l => l.headD 0
  | k + 1, l => treeSum k (pairSums l)

/-- Consecutive chunks of `n`, the last one padded with `z`. `fuel` bounds their number. -/
def chunksOf {α : Type} (z : α) (n : Nat) : Nat → List α → List (List α)
  | 0, _ => []
  | fuel + 1, l =>
    if l.isEmpty then [] else (l.take n ++ List.replicate (n - l.length) z) :: chunksOf z n fuel (l.drop n)

/-- A chunk of 64 values summed by the tree. -/
def tree64 (l : List Nat) : Nat := treeSum 6 (padNat 64 l)
where
  /-- Missing elements are +0. -/
  padNat (n : Nat) (l : List Nat) : List Nat := (l ++ List.replicate (n - l.length) 0).take n

/-- Accumulator `k` of the four: starts at chunk value `k` and adds every fourth (03 R98). -/
def accSum (u : List Nat) (k : Nat) : Nat :=
  let mine := (List.range u.length).filter (fun i => i % 4 == k) |>.map (fun i => u.getD i 0)
  match mine with
  | [] => 0
  | x :: t => t.foldl add32 x

/-- The vector unit's sum of a row (03 R98). -/
def sum32 (l : List Nat) : Nat :=
  let u := (chunksOf 0 64 l.length l).map tree64
  add32 (add32 (accSum u 0) (accSum u 1)) (add32 (accSum u 2) (accSum u 3))

/-- The row's maximum (03 R99); −infinity for an empty row. -/
def maxRow (l : List Nat) : Nat := match l with | [] => ninf32 | x :: t => if isNan32 x then nan32 else t.foldl max32 x
/-- The row's minimum (03 R99). -/
def minRow (l : List Nat) : Nat := match l with | [] => pinf32 | x :: t => if isNan32 x then nan32 else t.foldl min32 x

/-! ### Special functions (03 R101-R103) -/

/-- The table polynomial `P(f, q)`, unfused in reproducible mode and fused outside it (03 R102, R105). -/
def sfuP (repro : Bool) (f q : Nat) : Nat :=
  let j := q >>> 26
  let t := to32 (.fin false (rneUnits (q % 2 ^ 26) 0 (quantum fp32 (q % 2 ^ 26) 0)) (quantum fp32 (q % 2 ^ 26) 0 - 32))
  if repro then add32 (sfuCoef f j 0) (mul32 t (add32 (sfuCoef f j 1) (mul32 t (sfuCoef f j 2))))
  else fma32 t (fma32 t (sfuCoef f j 2) (sfuCoef f j 1)) (sfuCoef f j 0)

/-- log2 e to 64 fraction bits (Table 03-6). Its next bits are below a half, so cutting and rounding agree. -/
def log2e64 : Nat := 0x171547652B82FE177

/-- The significand of a non-zero magnitude as `(1 + f) × 2^e` with `f` a fraction of 32 bits: `(f × 2^32, e)`. -/
def normParts (m : Nat) (e : Int) : Nat × Int :=
  let l := log2 m
  ((m - 2 ^ l) * 2 ^ (32 - l), e + l)

/-- `exp(x)` (Table 03-6, Table 03-7). -/
def exp32 (repro : Bool) (x : Nat) : Nat :=
  match num32 x with
  | .nan => nan32
  | .inf n => if n then 0 else pinf32
  | .fin n m e =>
    if m = 0 then one32
    else
      let s : Int := e - 64
      let y : Int := ((m * log2e64 : Nat) : Int) * (if n then -1 else 1)
      let i : Int := if 0 ≤ s then y * ((2 ^ s.toNat : Nat) : Int) else shiftDown y (-s).toNat
      if 128 ≤ i then pinf32
      else if i < -150 then 0
      else
        let q : Nat := if 0 ≤ s then 0 else
          (if 32 ≤ (-s).toNat then shiftDown (y - i * ((2 ^ (-s).toNat : Nat) : Int)) ((-s).toNat - 32)
           else (y - i * ((2 ^ (-s).toNat : Nat) : Int)) * ((2 ^ (32 - (-s).toNat) : Nat) : Int)).toNat
        to32 (numScale i (num32 (sfuP repro 0 q)))

/-- `ln(x)` (Table 03-6, Table 03-7). -/
def ln32 (repro : Bool) (x : Nat) : Nat :=
  match num32 x with
  | .nan => nan32
  | .inf n => if n then nan32 else pinf32
  | .fin n m e =>
    if m = 0 then ninf32
    else if n then nan32
    else
      let (q, e') := normParts m e
      mul32 (to32 (numAdd (numInt e') (num32 (sfuP repro 1 q)))) 0x3F317218

/-- `1 / x` (Table 03-6, Table 03-7). -/
def recip32 (repro : Bool) (x : Nat) : Nat :=
  match num32 x with
  | .nan => nan32
  | .inf n => if n then 0x80000000 else 0
  | .fin n m e =>
    if m = 0 then (if n then ninf32 else pinf32)
    else
      let (q, e') := normParts m e
      let r := numScale (-e') (num32 (sfuP repro 2 q))
      to32 (if n then numNeg r else r)

/-- `1 / √x` (Table 03-6, Table 03-7). -/
def rsqrt32 (repro : Bool) (x : Nat) : Nat :=
  match num32 x with
  | .nan => nan32
  | .inf n => if n then nan32 else 0
  | .fin n m e =>
    if m = 0 then (if n then ninf32 else pinf32)
    else if n then nan32
    else
      let (q, e') := normParts m e
      to32 (numScale (-(shiftDown e' 1)) (num32 (sfuP repro (if e' % 2 = 0 then 3 else 4) q)))

/-- `x × Φ(x)` (Table 03-6, Table 03-7). -/
def gelu32 (repro : Bool) (x : Nat) : Nat :=
  match num32 x with
  | .nan => nan32
  | .inf n => if n then 0x80000000 else pinf32
  | .fin n m e =>
    if m = 0 then x
    else if 8 * 2 ^ 149 ≤ m * 2 ^ (e + 149).toNat then (if n then 0x80000000 else x)
    else
      let q := m * 2 ^ (e + 149).toNat * 2 ^ 29 / 2 ^ 149
      let p := sfuP repro 5 q
      mul32 x (if n then sub32 one32 p else p)

/-- `x × recip(1 + exp(−x))` (Table 03-6, Table 03-7). -/
def silu32 (repro : Bool) (x : Nat) : Nat :=
  match num32 x with
  | .nan => nan32
  | .inf n => if n then 0x80000000 else pinf32
  | .fin _ m _ =>
    if m = 0 then x
    else
      let ex := exp32 repro (x ^^^ 0x80000000)
      if ex = pinf32 then 0x80000000 else mul32 x (recip32 repro (add32 one32 ex))

/-- Special function `k` of Table 04-7: 0-5 of Table 03-6, 6 ABS, 7 NEG. -/
def sfu32 (repro : Bool) (k x : Nat) : Nat :=
  match k with
  | 0 => exp32 repro x
  | 1 => ln32 repro x
  | 2 => recip32 repro x
  | 3 => rsqrt32 repro x
  | 4 => gelu32 repro x
  | 5 => silu32 repro x
  | 6 => if isNan32 x then nan32 else x % 2 ^ 31
  | _ => if isNan32 x then nan32 else x ^^^ 0x80000000

/-- `1 / L` rounded once to FP32 (04 R133): sixty-four quotient bits and a sticky bit decide the one rounding. -/
def recipInt32 (l : Nat) : Nat :=
  let n := 2 ^ 64
  to32 (.fin false (2 * (n / l) + (if n % l = 0 then 0 else 1)) (-65))

/-! ### Online softmax (03 R100) -/

/-- The running maximum and sum after one chunk of at most 64 values. -/
def softStep (repro : Bool) (ms : Nat × Nat) (chunk : List Nat) : Nat × Nat :=
  let mn := max32 ms.1 (maxRow chunk)
  if mn = ninf32 then ms
  else (mn, add32 (mul32 ms.2 (exp32 repro (sub32 ms.1 mn))) (tree64 (chunk.map (fun x => exp32 repro (sub32 x mn)))))

/-- The rows's chunks of 64, the last one unpadded. -/
def rowChunks (l : List Nat) : List (List Nat) :=
  (List.range ((l.length + 63) / 64)).map (fun c => (l.drop (64 * c)).take 64)

/-- The running maximum and sum over a whole row. -/
def softRow (repro : Bool) (ms : Nat × Nat) (l : List Nat) : Nat × Nat := (rowChunks l).foldl (softStep repro) ms

/-- SOFTMAX of a row; a row of −infinity gives +0 everywhere. -/
def softmax32 (repro : Bool) (l : List Nat) : List Nat :=
  let (m, s) := softRow repro (ninf32, 0) l
  if m = ninf32 then l.map (fun _ => 0)
  else l.map (fun x => mul32 (exp32 repro (sub32 x m)) (recip32 repro s))

/-! ### Integer and MX formats (03 R80, R83-R88) -/

/-- The value of an integer code of `w` bits. -/
def numOfInt (w x : Nat) : Num := numInt (toSigned w x)

/-- Conversion to a two's complement integer of `w` bits: overflow to the nearer range end, NaN to 0 (Table 03-3). The
other components say whether it saturated and whether a NaN became 0. -/
def convInt (w : Nat) (rnd : Rnd) (x : Num) : Nat × Bool × Bool :=
  match x with
  | .nan => (0, false, true)
  | .inf n => (if n then 2 ^ (w - 1) else 2 ^ (w - 1) - 1, true, false)
  | .fin n m e =>
    let k := roundUnits rnd m e 0
    if n then (if 2 ^ (w - 1) < k then (2 ^ (w - 1), true, false) else (ofSigned w (-(k : Int)), false, false))
    else (if 2 ^ (w - 1) ≤ k then (2 ^ (w - 1) - 1, true, false) else (k, false, false))

/-- Element bits of a format code of Table 02-1, or of 0xC for FP32 (04 R131). -/
def elemBits (code : Nat) : Nat :=
  if code = 0 ∨ code = 1 then 16 else if code = 8 ∨ code = 9 then 6 else if code = 0xA ∨ code = 0xB then 4
  else if code = 0xC then 32 else 8

/-- Whether a format code is an MX format. -/
def isMx (code : Nat) : Bool := decide (5 ≤ code ∧ code ≤ 0xA)
/-- Whether a format code is INT8 or INT4. -/
def isInt (code : Nat) : Bool := decide (code = 4 ∨ code = 0xB)

/-- The floating-point encoding of a format code, where it has one. -/
def fmtOf (code : Nat) : Option FloatFmt :=
  match code with
  | 0 => some fpBf16 | 1 => some fp16 | 2 => some fpE4m3 | 3 => some fpE5m2 | 5 => some fpE4m3 | 6 => some fpE5m2
  | 8 => some fpE2m3 | 9 => some fpE3m2 | 0xA => some fpE2m1 | 0xC => some fp32
  | _ => none

/-- The exact value of an element code of any format; an MXINT8 element carries its factor 2^-6. -/
def elemNum (code x : Nat) : Num :=
  match fmtOf code with
  | some f => decodeNum f x
  | none => if code = 7 then numScale (-6) (numOfInt 8 x) else if code = 0xB then numOfInt 4 x else numOfInt 8 x

/-- `emax` of an MX element format (03 R87). -/
def mxEmax (code : Nat) : Int :=
  match code with
  | 5 => 8 | 6 => 15 | 8 => 2 | 9 => 4 | 0xA => 2 | _ => 0

/-- The random value of one output element under a conversion mode (Table 03-4). -/
def rndOf (cvt seed idx : Nat) : Rnd := if 2 ≤ cvt then .sr (srBits seed idx) else .rne
/-- The SAT choice of a conversion mode (Table 03-4). -/
def satOf (cvt : Nat) : Bool := cvt % 2 == 1

/-- One block quantised to an MX format: scale code, element codes, whether an element saturated, whether the scale is NaN
(03 R87, R88). `idx` is the output index of the block's first element. -/
def mxQuant (code cvt seed idx : Nat) (xs : List Nat) : Nat × List Nat × Bool × Bool :=
  if xs.any (fun x => !isFin32 x) then (0xFF, xs.map (fun _ => 0), false, true)
  else
    let amax := xs.foldl (fun a x => max a (x % 2 ^ 31)) 0
    if amax = 0 then
      (0, xs.map (fun x => if code = 7 then 0 else bit (signOf32 x) * 2 ^ (elemBits code - 1)), false, false)
    else
      let lg : Int := match num32 amax with | .fin _ m e => (log2 m : Int) + e | _ => 0
      let es : Int := max (-127) (min 127 (lg - mxEmax code))
      let conv := fun (p : Nat × Nat) =>
        let rnd := rndOf cvt seed (idx + p.1)
        match fmtOf code with
        | some f => convFloat f rnd true (numScale (-es) (num32 p.2))
        | none => let r := convInt 8 rnd (numScale (6 - es) (num32 p.2)); (r.1, r.2.1)
      let out := (List.range xs.length).map (fun i => conv (i, xs.getD i 0))
      ((es + 127).toNat, out.map Prod.fst, out.any Prod.snd, false)

/-- One MX element times its block scale, exact; a scale code of 0xFF makes it NaN (03 R83). -/
def mxElem (code scale x : Nat) : Num :=
  if scale = 0xFF then .nan else numScale ((scale : Int) - 127) (elemNum code x)

/-! ### The matrix engine's sum (03 R91-R96) -/

/-- The FP32 representation of one product (03 R91): exact but for a BF16 product, rounded once. -/
def product32 (a b : Num) : Nat := to32 (numMul a b)

/-- The value of a block of a pass: products summed by the tree, or exactly in the integer formats, then scaled in the MX
formats (03 R91-R93). `ps` holds the (weight, activation) codes in kept order, 32 or 16 of them. -/
def blockValue (wf af : Nat) (ws as : Nat) (ps : List (Nat × Nat)) : Nat :=
  let levels := if ps.length ≤ 16 then 4 else 5
  let s : Nat :=
    if isInt wf ∨ wf = 7 then
      let w := if wf = 0xB then 4 else 8
      to32 (numInt (ps.foldl (fun acc p => acc + toSigned w p.1 * toSigned w p.2) 0))
    else treeSum levels (ps.map (fun p => product32 (elemNum wf p.1) (elemNum af p.2)))
  if isMx wf then
    (if ws = 0xFF ∨ as = 0xFF then nan32
     else to32 (numScale ((ws : Int) + as - (if wf = 7 then 266 else 254)) (num32 s)))
  else s

/-- The tree over the block values of a pass, a power of two of them (03 R94). -/
def blockTree (v : List Nat) : Nat := treeSum (log2 v.length) v

/-! ### Conversions of a vector result (03 R85, R97) -/

/-- A conversion outcome: the code, and the flags of `CL.ARITH_FLAGS` it sets (Table 03-9). -/
structure Conv where
  code : Nat
  flags : Nat
deriving DecidableEq, Repr

/-- A value converted to a non-MX destination format under `cvt_mode`. Flags: SAT bit 0, NAN_OUT bit 1, INF_OUT bit 2,
INT_NAN bit 3. -/
def convOut (dst cvt seed idx : Nat) (x : Num) : Conv :=
  let rnd := rndOf cvt seed idx
  match fmtOf dst with
  | some f =>
    let r := convFloat f rnd (dst != 0xC && satOf cvt) x
    let y := decodeNum f r.1
    let fin := match x with | .fin _ _ _ => true | _ => false
    let isInf := match y with | .inf _ => true | _ => false
    ⟨r.1, bit r.2 + 2 * bit (y == .nan && x != .nan) + 4 * bit (isInf && fin)⟩
  | none =>
    let r := convInt (elemBits dst) rnd x
    ⟨r.1, bit r.2.1 + 8 * bit r.2.2⟩

/-- Flags of an operation whose operands were `xs` and whose FP32 result is `y`: NAN_OUT and INF_OUT of Table 03-9. -/
def opFlags (xs : List Nat) (y : Nat) : Nat :=
  2 * bit (isNan32 y && !xs.any isNan32) + 4 * bit (isInf32 y && xs.all isFin32)

end Sys2Proof.Machine
end

