-- ==== Sys2Proof/Machine/State.lean ====
section
/-! DEFINITION. The state of the part as plain data: the register file, the addressed memories, and everything else the spec
gives the machine, chapter by chapter; the reasons a step can stop; and the machine right after reset. -/
namespace Sys2Proof.Machine

/-- Why the machine stops with a fault. -/
inductive Fault where
  /-- Raised by every meaning that is given a unit number or index the part does not have (a cluster above 863, an MSD above
  15, a gallery above 143, a port above 1, …). Safe: the spec gives such a command no effect, and the model stops. -/
  | noSuchUnit
deriving DecidableEq, Repr

/-- Why a command is refused by the model. -/
inductive Refusal where
  /-- Raised by an arm of `exec` whose command has no meaning yet. Safe: the model stops. -/
  | notModelled (mnemonic : String)
deriving DecidableEq, Repr

/-- A memory: the listed bytes; an unlisted byte reads 0 (log 3). -/
abbrev Mem := List (Nat × Byte)

/-- The answer the last access left for its sender: a status of Table 00-4 or of a chapter's own codes, and data words. -/
structure Answer where
  status : Nat
  data : List Nat
deriving DecidableEq, Repr

/-- What the part sends out of itself, or from one of its units to another whose arrival is a command of its own. -/
inductive MsgKind where
  /-- a service stair frame (06 R204) -/
  | stair
  /-- a semaphore signal or its acknowledgement (04 R125) -/
  | signal | signalAck
  /-- a response on the mesh (06) -/
  | meshResp
  /-- a message of Serica Link (12 R344) -/
  | serica
  /-- an EVT message to the companion (12 R354) -/
  | evt
  /-- a fabric packet (13 R380) and a control message (13 R399) -/
  | fabric | control
  /-- bytes written to companion memory (12 R344) -/
  | companionWrite
  /-- an I3C or PMBus answer (18 R514, R515) -/
  | i3c | pmbus
  /-- the ESC_OUT pulse and the ALERT_N pin (18 R516) -/
  | pin
deriving DecidableEq, Repr

/-- One message: its kind, its destination, its fields in the order the sending definition lists them, and its bytes. -/
structure Msg where
  kind : MsgKind
  dst : Nat
  args : List Nat
  data : List Byte
deriving DecidableEq, Repr

/-! ### One physical cluster (02 to 06) -/

/-- The four little-endian words of a command (04 R114). -/
structure Cmd where
  w0 : Word
  w1 : Word
  w2 : Word
  w3 : Word
deriving DecidableEq, Repr

/-- A launched command: its launch number on the cluster, stream, index, words, and beat of launch. -/
structure Launched where
  ord : Nat
  stream : Nat
  idx : Nat
  cmd : Cmd
  beat : Nat
deriving DecidableEq, Repr

/-- What a stream holds beside its CL.STREAM register: its range (04 R112), loop counters (R120), the commands left of a
dynamic block (R121) and an incomplete FENCE.REL (R128). -/
structure Stream where
  first : Nat
  last : Nat
  ctr : List Nat
  block : List Cmd
  fence : Option Launched
deriving DecidableEq, Repr

/-- Where a matrix command stands: waiting for its descriptor, checked, or (a readout) draining. -/
inductive MatPhase where
  | waiting | checked | draining
deriving DecidableEq, Repr

/-- A matrix command from its launch to its end. `tile` holds the weight bytes that have arrived for passes not yet started,
keyed by `(16 s + r) × 4096 + offset` for row r of pass s; `act` the activation bytes, keyed by `(16 s + i) × 512 + offset`,
scales from 256 on; `fed` the lines arrived per feeder queue and `actFed` the activation lines arrived. -/
structure MatJob where
  l : Launched
  phase : MatPhase
  desc : List Byte
  gate : Bool
  fed : List Nat
  tile : List (Nat × Byte)
  actFed : Nat
  act : List (Nat × Byte)
  started : Nat
  stop : Option (Nat × Nat)
  ranges : Nat
  drained : Nat
  nonfinite : Bool
deriving DecidableEq, Repr

/-- The tree results of one activation row on their way to slot `row` (02 R46, R48): one value for each enabled column. -/
structure Flight where
  ord : Nat
  row : Nat
  init : Bool
  vals : List (Nat × BitVec 32)
deriving DecidableEq, Repr

/-- A vector command from its launch to its end: the mode it was launched in (03 R106), `ran` once it is the executing
command and its rows are written, and the ranges it reserves (05 R162). -/
structure VecJob where
  l : Launched
  repro : Bool
  ran : Bool
  ranges : Nat
deriving DecidableEq, Repr

/-- A descriptor in a stream engine context's queue (04 R137): the submit that placed it, its number in the context, whether it
has started, the indices a GATHER or SCATTER took and the cause its list ended with (0 for none), the accesses carried out,
whether all of them are, the writes to other devices not yet acknowledged, the cause it fails with (0 for none), and the
bytes accepted. -/
structure DmaDesc where
  sub : Nat
  num : Nat
  bytes : List Byte
  started : Bool
  idx : List Nat
  idxEnd : Nat
  pos : Nat
  moved : Bool
  out : Nat
  cause : Nat
  done : Nat
deriving DecidableEq, Repr

/-- A DMA.SUBMIT in progress: descriptors left, the cause of its first failure (0 for none), and whether one of its
descriptors was discarded (04 R142). -/
structure Submit where
  l : Launched
  ctx : Nat
  left : Nat
  cause : Nat
  discarded : Bool
deriving DecidableEq, Repr

/-- A write or read of another unit accepted into the router port's ingress buffer (05 R171). -/
structure Ingress where
  req : Nat
  win : Nat
  off : Nat
  size : Nat
  data : Option (List Byte)
deriving DecidableEq, Repr

/-- One physical cluster's state that is no register. -/
structure Cluster where
  /-- command memory by word index, four words a command (04 R112) -/
  cmdMem : List (Nat × Word)
  streams : List (Nat × Stream)
  /-- periods of the schedule by command index (08 R261) -/
  periods : List (Nat × Nat)
  semRemote : Nat
  nLaunch : Nat
  /-- SEM.SIGNALs not yet acknowledged (04 R125) -/
  signals : List Launched
  /-- the matrix engine (02) -/
  mat : List MatJob
  slots : List (Nat × BitVec 32)
  shadow : List (Nat × BitVec 32)
  readMask : Nat
  flights : List Flight
  wAct : List (Nat × Byte)
  ungated : Nat
  /-- the vector unit (04) -/
  vec : List VecJob
  /-- the stream engine (04) -/
  ctx : List (Nat × List DmaDesc)
  nDesc : Nat
  subs : List Submit
  /-- 64-bit words of the scratchpad with an uncorrectable error, and with a corrected one to be written back (05 R156, R157) -/
  badWords : List Nat
  fixWords : List Nat
  /-- last granted requester per bank (05 R150), scrub row per bank (R158), spare lines used per bank (R159) -/
  lastGrant : List (Nat × Nat)
  scrubRow : List (Nat × Nat)
  spareLines : List (Nat × Nat)
  ingress : List Ingress
  /-- the active detour table (06 R190), flit failures in a row per port (R191) -/
  detour : List (Nat × Word)
  retryRun : List (Nat × Nat)

  /-- bit k: range Bk is BUSY on its way up after ON, and not on its way down (05 R160, R164) -/
  rampUp : Nat
deriving DecidableEq, Repr

/-- A stream with no program. -/
def Stream.none : Stream := ⟨0, 0, [0, 0, 0, 0], [], .none⟩

/-- A physical cluster right after a reset: nothing queued, every slot +0, the readout mask all columns (02 R68, R76). -/
def Cluster.reset : Cluster :=
  { cmdMem := [], streams := [], periods := [], semRemote := 0, nLaunch := 0, signals := [], mat := [], slots := [],
    shadow := [], readMask := 2 ^ 256 - 1, flights := [], wAct := [], ungated := 0, vec := [], ctx := [], nDesc := 0,
    subs := [], badWords := [], fixWords := [], lastGrant := [], scrubRow := [], spareLines := [], ingress := [],
    detour := [], retryRun := [], rampUp := 0 }

/-- A leaf counter (09 R282, R283): how far its count lies from the generator's, whether it has loaded a count, the beat of
its last slip, and whether it is reported as a faulty unit. -/
structure Leaf where
  off : Int
  loaded : Bool
  lastSlip : Nat
  faulty : Bool
deriving DecidableEq, Repr

/-- A leaf counter before its first marker. -/
def Leaf.reset : Leaf := ⟨0, false, 0, false⟩

/-- The part of the state that holds leaf counters and late launches (08, 09). -/
structure LeafState where
  /-- leaf counters by leaf index (09 Table 09-1) -/
  leaves : List (Nat × Leaf)
  /-- late launches over every cluster since the last switch beat (09 R287, 08 R274) -/
  lateSince : Nat
deriving DecidableEq, Repr

/-! ### Records, traces and throttling (14 to 16) -/

/-- An error record of the BRU block, by the fields of Table 15-8 that vary (15 R465): `temp` in 1/16 °C, `volt` in 0.1 mV, `freq` in
MHz. -/
structure Record where
  num : Nat
  cls : Nat
  unitKind : Nat
  unit : Nat
  logical : Nat
  cause : Nat
  unitCause : Nat
  action : Nat
  beat : Nat
  op : Nat
  layer : Nat
  seq : Nat
  generation : Nat
  stallUs : Nat
  replays : Nat
  temp : Int
  volt : Nat
  freq : Nat
  detail : List Byte
deriving DecidableEq, Repr

/-- A trace buffer of 2,048 records of 32 bytes by index (16 R477), the queue of records waiting for it (R478), the
records dropped since the last LOST record, and the records written since the last rearm. -/
structure Trace where
  recs : List (Nat × List Byte)
  queue : List (List Byte)
  lost : Nat
  count : Nat
deriving DecidableEq, Repr

/-- An empty trace buffer. -/
def Trace.empty : Trace := ⟨[], [], 0, 0⟩

/-- The part of the state that holds error records, traces and throttling reasons (14, 15, 16). -/
structure RecordState where
  /-- error records, newest first, at most 4,096 (15 R465) -/
  records : List Record
  /-- records made since the start (15 R465) -/
  nRecords : Nat
  /-- the records of class PERMANENT or UNCOVERED and of module trips kept in flash, newest first, at most 1,024 (15 R465) -/
  faultLog : List Record
  /-- trace buffers: physical cluster p at p, MSDn at 1000 + n, fabric die d at 2000 + d (16 R477) -/
  traces : List (Nat × Trace)
  /-- bit r: throttling reason r holds for some unit (14 R427) -/
  reasons : Nat
deriving DecidableEq, Repr

/-- A mailbox call that is running (00 R17): its service code, the requestor that started it, its arguments, the beat of its
start, and what its service keeps until it ends. -/
structure Call where
  code : Nat
  rid : Nat
  args : List Nat
  beat : Nat
  keep : List Nat
deriving DecidableEq, Repr

/-- The part of the state that holds mailbox calls (00 R17). -/
structure CallState where
  /-- mailbox calls running, by the offset of their mailbox page (00 R17) -/
  calls : List (Nat × Call)
deriving DecidableEq, Repr

/-! ### Memory-side dies (07) -/

/-- A line write an MSD has started and not accepted (07 R219): the requester, the line's device address / 64, the new line,
the delta for the parity line, and whether the parity MSD has applied it. -/
structure LineWrite where
  req : Nat
  line : Nat
  new : List Byte
  delta : List Byte
  applied : Bool
deriving DecidableEq, Repr

/-- A read an MSD has accepted and not finished: the address, the size, its requesters in order of arrival, whether it is a
combining entry (07 R229) that is still open, whether its data has been sent, whether it waits for its parity MSD (R220), and
the old line where a later write closed the entry (R230). -/
structure LineRead where
  addr : Nat
  size : Nat
  reqs : List Nat
  combine : Bool
  isOpen : Bool
  sent : Bool
  rebuild : Bool
  old : Option (List Byte)
deriving DecidableEq, Repr

/-- An engine command that a stack engine has started (07 R237): the bytes of its slot, whether its results are written,
whether its slot is still the consumer's, and the MSD count of its start in beats. -/
structure EngCmd where
  bytes : List Byte
  ran : Bool
  queued : Bool
  beat : Nat
deriving DecidableEq, Repr

/-- The part of the state that holds memory-side dies (07). -/
structure StackState where
  /-- line writes and reads in progress at the MSDs, oldest first (07 R219, R229) -/
  lineWrites : List LineWrite
  lineReads : List LineRead
  /-- HBM lines that the on-die ECC reports uncorrected and that are not rebuilt, by (stack × 2^36 + offset) / 64 (07 R247) -/
  hbmBad : List Nat
  /-- bank that each pseudo-channel refreshes next, by 32n + pseudo-channel (07 R210) -/
  refreshBank : List (Nat × Nat)
  /-- DRAM_HOT of each stack (07 R211), and uncorrectable lines by stack and beat of the last second (R221) -/
  dramHot : List Nat
  badLines : List (Nat × Nat)
  /-- MSDs whose packets go to their proxy in every router (07 R222) -/
  proxied : List Nat
  /-- producer of engine queue q of MSDn by 32n + q: a logical cluster, or 1,023 for the CID (07 R234) -/
  producers : List (Nat × Nat)
  /-- running engine command by 32n + q (07 R233) -/
  engines : List (Nat × EngCmd)
  /-- the active slot tables by 8n + i (07 R235) -/
  slotTab : List (Nat × Word)
  /-- the parity mode recorded in flash for the next start-up (07 R217) -/
  parityFlash : Bool
deriving DecidableEq, Repr

/-- A request on the mesh that has had no response yet (06 R192): the sending router, its tag, and the column of its
destination. -/
structure MeshReq where
  src : Nat
  tag : Nat
  dst : Nat
deriving DecidableEq, Repr

/-- A map change that firmware has installed for a beat (06 R185): the number, its new holder (65,535 for none), the beat. -/
structure MapChange where
  logical : Nat
  holder : Nat
  beat : Nat
deriving DecidableEq, Repr

/-- A stair request whose answer waits at its unit (06 R204, R206): tag, unit (node × 64 + quadrant × 16 + unit), status, data. -/
structure StairReq where
  tag : Nat
  unit : Nat
  status : Nat
  value : Nat
deriving DecidableEq, Repr

/-- The part of the state that holds mesh and service stair (06). -/
structure MeshState where
  /-- routers found faulty since the start, in the order of their faults (06 R192, R193) -/
  badRouters : List Nat
  meshReqs : List MeshReq
  mapChanges : List MapChange
  /-- stair links reported failed, and failures in a row by link (06 R204) -/
  stairDown : List Nat
  stairRun : List (Nat × Nat)
  /-- stair requests not yet answered, oldest first (06 R204, R206) -/
  stairReqs : List StairReq
  /-- whether logical numbers have been assigned since the reset (01 Table 01-6, LIVE_LOGICAL) -/
  numbered : Bool
deriving DecidableEq, Repr

/-! ### Calibre images (08) -/

/-- A signed object in HBM that a slot holds: its address and length as LOAD names them (08 R266). -/
structure ImgSlot where
  addr : Nat
  len : Nat
deriving DecidableEq, Repr

/-- A ring (10 R301): its base, n, the requestor named at RING_OPEN, the part's own index (the consumer of a request ring, the
producer of an answer ring), and the other side's index as last read. -/
structure Ring where
  base : Nat
  log2 : Nat
  rid : Nat
  mine : Nat
  other : Nat
deriving DecidableEq, Repr

/-- The part of the state that holds calibre images and rings (08, 10). -/
structure ImageState where
  /-- gen_map_addr of the active image (08 R258) -/
  genMap : Option Nat
  /-- the signed objects of slots 0 active, 1 previous and 2 staging (08 R268) -/
  images : List (Nat × ImgSlot)
  /-- stop beat T and activation start V of the armed switch (08 R270), and whether the outgoing image is drained (R271) -/
  stopBeat : Nat
  actBeat : Nat
  drained : Bool
  /-- whether the armed rollback is an automatic one (08 R275) -/
  autoRoll : Bool
  /-- steps launched since the last activation (13 R400) -/
  steps : Nat
  /-- request rings 0-63 and answer rings 0-255 that are open (10 R301) -/
  reqRings : List (Nat × Ring)
  ansRings : List (Nat × Ring)
  /-- tokeniser table slots 0-3 (10 R308) -/
  tokTables : List (Nat × ImgSlot)
deriving DecidableEq, Repr

/-! ### Serica Link (12) -/

/-- A snoop filter entry (12 R350): the line, whether it is held in E, and the agents that hold it. -/
structure FilterEntry where
  line : Nat
  excl : Bool
  holders : List Nat
deriving DecidableEq, Repr

/-- A request the home agent is serving or keeps in order behind another of its line (12 R351). `op` is the opcode of Table
12-4, or 0x80 and 0x81 for a read and a write by a unit of the part, 0x82 for the eviction of a filter entry or 0x83 for a line snooped out of one agent; `port` is 2 for a
unit whose composite access only needs the snoops and 3 for one that is answered; `pend` are
the agents whose snoop answer is awaited, `evict` those whose eviction is (R352). -/
structure HomeTx where
  port : Nat
  tag : Nat
  op : Nat
  line : Nat
  off : Nat
  data : List Byte
  started : Bool
  share : Bool
  pend : List Nat
  evict : List Nat
  listed : Bool
  victim : Option Nat
deriving DecidableEq, Repr

/-- A line of the companion-line cache (12 R353): companion line, port, state (1 S, 2 E, 3 M), bytes. -/
structure CacheLine where
  line : Nat
  port : Nat
  state : Nat
  data : List Byte
deriving DecidableEq, Repr

/-- A request of the part outstanding on a port (12 R346): opcode, companion line, the unit that issued it, its bytes. -/
structure SerReq where
  port : Nat
  tag : Nat
  op : Nat
  line : Nat
  unit : Nat
  data : List Byte
deriving DecidableEq, Repr

/-- The part of the state that holds Serica Link (12). -/
structure SericaState where
  /-- snoop filter, most recently used first (12 R350), and evictions by SNP_INV since the last FILTER_STATUS (R364) -/
  filter : List FilterEntry
  filterEvicts : Nat
  home : List HomeTx
  /-- companion-line cache, most recently used first (12 R353), and lines read uncached that wait for their unit -/
  cache : List CacheLine
  uncached : List CacheLine
  serReqs : List SerReq
  /-- requests that wait for a free tag, oldest first (12 R346) -/
  serWait : List SerReq
  /-- units whose request was answered with ERR or timed out (12 R346, R355) -/
  serErrs : List Nat
  /-- node identity of each port's companion INIT (12 R341), and ports whose own INIT is sent -/
  serNode : List (Nat × Nat)
  initSent : List Nat
  /-- beat at which the present offer of ownership lapses (12 R361) -/
  offerEnd : Nat
deriving DecidableEq, Repr

/-- The part of the state that holds power, heat and clocks (14). -/
structure PowerState where
  /-- a gallery bank's skip demand (14 R425), forcing demand (R435) and soft thermal demand (R429) by gallery serial -/
  gcSkip : List (Nat × Nat)
  forceSkip : List (Nat × Nat)
  softSkip : List (Nat × Nat)
  /-- Θ forced for module headroom (14 R435) -/
  forceTheta : Nat
  /-- galleries with a hard thermal demand (14 R430) and clusters in the hold of an ALERT (R418) -/
  hardGal : List Nat
  holds : List Nat
  /-- alerts by cluster and beat (14 R419), and the field calibration record: F_max steps taken in the field by cluster -/
  alerts : List (Nat × Nat)
  lowered : List (Nat × Nat)
  /-- beats of the requests of WAITING galleries, and galleries whose ramp is done (14 R435) -/
  galAsked : List (Nat × Nat)
  ramped : List Nat
  /-- beat at which a gallery's crack was found (14 R410), and beats since which a gallery has been at or above 105 °C, or at or
  below 85 °C (R430, R436) -/
  crackSince : List (Nat × Nat)
  hotSince : List (Nat × Nat)
  coolSince : List (Nat × Nat)
  /-- the calibration table in force, and one verified that is not in force yet with its beat (14 R439) -/
  calNow : List Byte
  calNext : Option (Nat × List Byte)
  /-- galleries to which the table in force is applied when they enter ON (14 R437) -/
  calLate : List Nat
  /-- galleries on their way to a heat park (14 R434), and galleries whose clusters run trials when they are ON (R436) -/
  parking : List Nat
  retrial : List Nat
  /-- input energy beyond PWR.ENERGY, in hundredths of 1 mJ (14 Table 14-13) -/
  energyFrac : Nat
  /-- requested frequency by logical number (14 R416) -/
  fsetOf : List (Nat × Nat)
  /-- calls of the module input cut: the part has no power until the next start (14 R432; 18 R509) -/
  inputOpen : Bool
deriving DecidableEq, Repr

/-! ### The fabric (13) -/

/-- A link in force (13 R370-R374): its lane group on this device, its first lane and width, its role (1 side, 2 extra, 3
stair), the device, lane group and lane expected at the far end, its state as FAB.LG codes it, whether it has trained,
and the lanes that have failed. -/
structure FabLink where
  lg : Nat
  lane : Nat
  width : Nat
  role : Nat
  dev : Nat
  peerLg : Nat
  peerLane : Nat
  state : Nat
  up : Bool
  bad : List Nat
deriving DecidableEq, Repr

/-- Which unit waits for a packet's acknowledgement (13 R385). -/
inductive FabIssuer where
  | none
  /-- a SEM.SIGNAL: physical cluster and launch number -/
  | signal (p ord : Nat)
  /-- a descriptor of a stream engine: physical cluster, context, index of the descriptor since the context's start -/
  | dma (p c n : Nat)
  /-- a collective on queue q -/
  | coll (q : Nat)
deriving DecidableEq, Repr

/-- A packet in the end-to-end retry buffer (13 R384). -/
structure FabPkt where
  head : FabHead
  issuer : FabIssuer
  data : List Byte
deriving DecidableEq, Repr

/-- A COLL packet held for its collective (13 R392): coll_id, stage (0 a contribution, 1 and 9 the first and second 4 KiB of a
group's result, 2 a result for its owner to pass on, 3 bytes to write at dst), packet index, source device, check and bytes. -/
structure CollPart where
  coll : Nat
  stage : Nat
  packet : Nat
  dev : Nat
  check : Nat
  data : List Byte
deriving DecidableEq, Repr

/-- A collective running on a queue (13 R391, R393): its descriptor, the packets reduced here, the parts of dst written,
whether the RELEASE of a BARRIER has come, whether it became late (R397), and the beat at which it started. -/
structure Coll where
  bytes : List Byte
  reduced : List Nat
  done : List Nat
  released : Bool
  late : Bool
  beat : Nat
deriving DecidableEq, Repr

/-- A digest report a manager holds (13 R400): slot, replica set, generation, step, digest, and the beat it arrived. -/
structure Digest where
  slot : Nat
  set : Nat
  gen : Nat
  step : Nat
  value : List Byte
  beat : Nat
deriving DecidableEq, Repr

/-- The part of the state that holds fabric, collectives and groups (13). -/
structure FabricState where
  links : List FabLink
  /-- next number to send by 4 × device + channel, expected number by 4 × device + channel (13 R384), and packets not
  acknowledged, oldest first -/
  txSeq : List (Nat × Nat)
  rxSeq : List (Nat × Nat)
  unacked : List FabPkt
  /-- sources and channels owed an ACK (13 R384) -/
  ackDue : List (Nat × Nat)
  /-- failures in a row of one flit by lane group (13 R395) -/
  flitRun : List (Nat × Nat)
  /-- relay device by peer device (13 R396) -/
  relays : List (Nat × Nat)
  /-- beat of the last HEARTBEAT by slot, devices declared lost (13 R398), and the beat from which silence counts -/
  heard : List (Nat × Nat)
  lost : List Nat
  /-- slices of the active image: first and last logical cluster (13 R373) -/
  slices : List (Nat × Nat)
  /-- HELLOs judged: peers that AGREE by link, whether MEMBERS and GROUPS have been received or sent (13 R377, R378) -/
  membersSeen : Option Nat
  groupsSeen : Option Nat
  /-- running collectives by queue, parts awaited by their owner, and BARRIER arrivals by coll_id and device (13 R386-R393) -/
  colls : List (Nat × Coll)
  collParts : List CollPart
  barriers : List (Nat × Nat)
  /-- producer of collective queue q by q: a logical cluster, or 1,023 for the CID (13 R373) -/
  collProd : List (Nat × Nat)
  /-- where the collective rings and the routing area of the active image lie (13 R373) -/
  collBase : Option Nat
  routeBase : Nat
  routeBytes : Nat
  /-- DIGEST reports a manager holds, slots waiting to rejoin, generation of the last group switch (13 R399-R403) -/
  digests : List Digest
  rejoining : List Nat
  groupGen : Nat
  /-- slots that have answered the group switch in progress, and those that refused (13 R403) -/
  swAnswered : List Nat
  swRefused : List Nat
  /-- producer index of each slot's ring for routed requests (13 R399) -/
  routeProd : List (Nat × Nat)
deriving DecidableEq, Repr

/-! ### Identity and measurement (17) -/

/-- An entry of the measurement log (17 R500). -/
structure Meas where
  reg : Nat
  type : Nat
  svn : Nat
  beat : Nat
  d : List Byte
deriving DecidableEq, Repr

/-- The part of the state that holds flash, running firmware and measurements (17). -/
structure SecureState where
  /-- signed objects in flash by type (17 R489): 0x03 and 0x43 hold the two banks of CID firmware; what is not listed is as
  the part was shipped -/
  flash : List (Nat × List Byte)
  /-- the header of the firmware each kind of unit runs, by object type (17 R494, R496) -/
  running : List (Nat × List Byte)
  /-- the measurement log, newest entry first, at most 16,384 (17 R500) -/
  measLog : List Meas
deriving DecidableEq, Repr

/-! ### Services (10) -/

/-- A descriptor that intake has read and copied, with its parameter block, query block and input (10 R303); a block that
could not be read is empty. -/
structure Taken where
  ring : Nat
  desc : List Byte
  params : List Byte
  query : List Byte
  input : List Byte
  beat : Nat
deriving DecidableEq, Repr

/-- A request from its submission to its END record (10 R300-R325). Tokens are those of the prompt, after retrieval, and those
committed; `due` says that the step in progress samples a token for it; `pend` holds the committed tokens that no record
covers yet, each with its text still to be streamed, and `hold` a partial UTF-8 sequence (R310). `sets` are its page sets
in order, the first `shared` of them taken from the prefix cache; `phase` is as REQ_STATUS codes it. -/
structure Req where
  ring : Nat
  id : Nat
  flags : Nat
  cls : Nat
  ans : Nat
  grammar : Nat
  maxNew : Nat
  seed : Nat
  params : List Byte
  query : List Byte
  beat : Nat
  retr : Bool
  passages : Nat
  prompt : List Nat
  gen : List Nat
  prefilled : Nat
  phase : Nat
  due : Bool
  order : Nat
  sets : List Nat
  shared : Nat
  ptab : Nat
  gram : Nat
  cancel : Bool
  ended : Nat
  endBeat : Nat
  isOver : Bool
  streamed : Nat
  pend : List (Nat × List Byte)
  hold : List Byte
  first : Option Nat
  full : Option Nat
  swap : Option Nat
deriving DecidableEq, Repr

/-- A cached prefix set: its key, its 64 token IDs and its page set (10 R315). -/
structure Prefix where
  key : List Byte
  tokens : List Nat
  set : Nat
deriving DecidableEq, Repr

/-- A request that a manager has routed (13 R399): its descriptor's ring and bytes, the blocks copied, the slot it runs on
(16 while it waits to be routed again), and the position after the last one streamed. -/
structure Routed where
  taken : Taken
  slot : Nat
  streamed : Nat
deriving DecidableEq, Repr

/-- The part of the state that holds requests and answers (10). -/
structure ServiceState where
  /-- descriptors read and not yet submitted, oldest first (10 R303) -/
  intake : List Taken
  /-- requests, oldest first, and the number of admissions so far (10 R311) -/
  reqs : List Req
  nAdmit : Nat
  /-- deficit of each class, and the class admitted from last (10 R312) -/
  deficits : List (Nat × Nat)
  lastCls : Nat
  /-- cached prefix sets, most recently used first (10 R315) -/
  prefixes : List Prefix
  /-- the record written to an answer ring whose index is not written yet, by ring (10 R323; 12 R354) -/
  ansPend : List (Nat × List Byte)
  /-- requests that this device, as a manager, has routed and whose END it has not written (13 R399) -/
  routed : List Routed
deriving DecidableEq, Repr

/-! ### Observation (16) -/

/-- A counter snapshot being written (16 R474-R476): its number, its beat, the generation of the active image, and the bank
records whose frames have not arrived, by their offset in the area. -/
structure Snap where
  id : Nat
  beat : Nat
  gen : Nat
  banks : List (Nat × List Byte)
deriving DecidableEq, Repr

/-- The part of the state that holds counters, snapshots and scans (16). -/
structure ObserveState where
  /-- beats of armed THAWs and CLEARs (16 R472, R473), the beat of an armed SNAP_NOW (R474) -/
  thaws : List Nat
  clears : List Nat
  snapAt : Option Nat
  /-- snapshots being written, oldest first, and snapshots taken since the start (16 R474-R476) -/
  snaps : List Snap
  nSnaps : Nat
  /-- beat of the last automatic scan (16 R485) -/
  lastScan : Option Nat
deriving DecidableEq, Repr

/-! ### Alignment (09) -/

/-- The part of the state that holds triggers and alignment (09). -/
structure EscState where
  /-- round trips (t1, t2, t3, t4) of the exchange in progress (09 R293) -/
  trips : List (Nat × Nat × Nat × Nat)
  /-- beats of completed exchanges, newest first, at most 16, and whether the present silence has been reported (09 R294) -/
  exchanges : List Nat
  alignOut : Bool
deriving DecidableEq, Repr

/-! ### Moves, replays and trials (15) -/

/-- The part of the state that holds moves and replay (15). -/
structure RecoverState where
  /-- a step replay in progress: the beat of its stop and its replay beat (15 R454) -/
  replay : Option (Nat × Nat)
  /-- beat of the last restart of a replay, and numbers of the records whose faults wait for one (15 R454, R455) -/
  relaunched : Nat
  stalled : List Nat
  /-- clusters that an abort of the step in flight has named (15 R460), and polls in a row that a controller has not answered
  (R451) -/
  aborted : List Nat
  silent : List (Nat × Nat)
  /-- clusters that run the firmware being rolled out, and the beat of the last round (15 R463) -/
  fwNew : List Nat
  fwRound : Option Nat
  /-- clusters that have failed a trial or been fenced since the last READY (15 R444) -/
  suspects : List Nat
deriving DecidableEq, Repr

/-! ### Bring-up and the module (15, 18) -/

/-- The part of the state that holds the module (15, 18). -/
structure ModuleState where
  /-- flash holds the training record of a READY (15 R441) -/
  trainRecord : Bool
  /-- the beat at which the bring-up stage in progress began (15 R442) -/
  stageAt : Nat
  /-- the module time in µs since which PRSNT_N has read low, while its debounce runs (18 R506) -/
  presentAt : Option Nat
  /-- the cause of a module trip kept in flash until the next start reports it (14 R432) -/
  tripCause : Option Nat
  /-- records up to this number have been acknowledged, and read, over I3C (18 R514), and whether ALERT_N is asserted -/
  recAcked : Nat
  recRead : Nat
  alertN : Bool
  /-- REFCLK was lost: the CID is lost as a whole and the part waits for RST_N (18 R513) -/
  cidLost : Bool
  /-- bits of the PMBus STATUS_WORD that are set (18 R515) -/
  pmFaults : Nat
  /-- instruction registers of the CID, FIDW and FIDE test ports, the boundary registers' update stages, and whether the
  boundary pins are driven from them or floating (18 R517): 0 by the part, 1 by the register, 2 floating -/
  jtagIr : List Nat
  boundary : List (List Bool)
  pinDrive : List Nat
deriving DecidableEq, Repr

set_option maxRecDepth 4096 in
/-- The whole machine. -/
structure State extends LeafState, RecordState, CallState, StackState, MeshState, ImageState, SericaState, PowerState, FabricState, SecureState, ServiceState, ObserveState, EscState, RecoverState, ModuleState where
  /-- commands waiting, the next one first (the model's own field) -/
  pending : List Instr
  /-- counter of free values taken (the model's own field) -/
  free : Nat
  /-- the escapement generator's count, in beats (09 R280) -/
  beat : Nat
  answer : Answer
  /-- messages sent, newest first (the model's own field) -/
  sent : List Msg
  /-- the register file, by canonical control-space offset -/
  regs : List (Nat × Word)
  /-- scratchpads: byte `o` of physical cluster p at p × 2^25 + o (05 R146) -/
  spm : Mem
  /-- HBM: stack offset o of stack s at s × 2^36 + o (07 R213) -/
  hbm : Mem
  /-- MSD buffers: offset o of MSDn at n × 2^26 + o (07 R216) -/
  buf : Mem
  /-- the routers' map: logical number to physical serial; 65,535 for a vacant one (01 R26, 06 R185) -/
  lmap : List (Nat × Nat)
  /-- clusters by physical serial -/
  cl : List (Nat × Cluster)
deriving DecidableEq, Repr

/-- The part right after reset: registers at their reset values, memories empty, nothing waiting, bring-up stage 0x01
(01 R44). -/
def State.reset : State :=
  { pending := [], free := 0, beat := 0, answer := ⟨0, []⟩, sent := [], regs := [], spm := [], hbm := [], buf := [],
    lmap := [], cl := [],
    leaves := [], lateSince := 0,
    records := [], nRecords := 0, faultLog := [], traces := [], reasons := 0,
    calls := [],
    lineWrites := [], lineReads := [], hbmBad := [], refreshBank := [], dramHot := [], badLines := [], proxied := [], producers := [], engines := [], slotTab := [], parityFlash := true,
    badRouters := [], meshReqs := [], mapChanges := [], stairDown := [], stairRun := [], stairReqs := [], numbered := false,
    genMap := none, images := [], stopBeat := 0, actBeat := 0, drained := false, autoRoll := false, steps := 0, reqRings := [], ansRings := [], tokTables := [],
    filter := [], filterEvicts := 0, home := [], cache := [], uncached := [], serReqs := [], serWait := [], serErrs := [], serNode := [], initSent := [], offerEnd := 0,
    gcSkip := [], forceSkip := [], softSkip := [], forceTheta := 0, hardGal := [], holds := [], alerts := [], lowered := [], galAsked := [], ramped := [], crackSince := [], hotSince := [], coolSince := [], calNow := [], calNext := none, calLate := [], parking := [], retrial := [], energyFrac := 0, fsetOf := [], inputOpen := false,
    links := [], txSeq := [], rxSeq := [], unacked := [], ackDue := [], flitRun := [], relays := [], heard := [], lost := [], slices := [], membersSeen := none, groupsSeen := none, colls := [], collParts := [], barriers := [], collProd := [], collBase := none, routeBase := 0, routeBytes := 0, digests := [], rejoining := [], groupGen := 0, swAnswered := [], swRefused := [], routeProd := [],
    flash := [], running := [], measLog := [],
    intake := [], reqs := [], nAdmit := 0, deficits := [], lastCls := 7, prefixes := [], ansPend := [], routed := [],
    thaws := [], clears := [], snapAt := none, snaps := [], nSnaps := 0, lastScan := none,
    trips := [], exchanges := [], alignOut := false,
    replay := none, relaunched := 0, stalled := [], aborted := [], silent := [], fwNew := [], fwRound := none, suspects := [],
    trainRecord := false, stageAt := 0, presentAt := none, tripCause := none, recAcked := 0, recRead := 0, alertN := false, cidLost := false, pmFaults := 0, jtagIr := [1, 1, 1], boundary := [[], [], []], pinDrive := [0, 0, 0]     }

end Sys2Proof.Machine
end

