-- ==== Sys2Proof/Machine/Tab.lean ====
section
/-! DEFINITION. Sparse tables: entries in strictly rising key order, none of them equal to what an unlisted key reads as,
so that equal tables are equal data. Memories are tables of bytes, the register file is a table of words. -/
namespace Sys2Proof.Machine

/-- The entry of a key; `d` says what an unlisted key reads as. -/
def tabGet {α : Type} (d : Nat → α) : List (Nat × α) → Nat → α
  | [], k => d k
  | (j, v) :: t, k => if j = k then v else tabGet d t k

/-- A table without any entry of a key. -/
def tabDel {α : Type} (k : Nat) (l : List (Nat × α)) : List (Nat × α) := l.filter (fun e => e.1 != k)

/-- A table with an entry put in its place. -/
def tabPut {α : Type} (k : Nat) (x : α) : List (Nat × α) → List (Nat × α)
  | [] => [(k, x)]
  | (j, v) :: t =>
    if k < j then (k, x) :: (j, v) :: t
    else if k = j then (k, x) :: t
    else (j, v) :: tabPut k x t

/-- A write of one key: a value equal to the key's default leaves no entry. -/
def tabSet {α : Type} [DecidableEq α] (d : Nat → α) (l : List (Nat × α)) (k : Nat) (x : α) : List (Nat × α) :=
  if x = d k then tabDel k l else tabPut k x l

/-- Keys strictly rising. -/
def keysRise {α : Type} : List (Nat × α) → Bool
  | [] => true
  | [_] => true
  | (j, _) :: (k, w) :: t => decide (j < k) && keysRise ((k, w) :: t)

/-- The canonical form: keys strictly rising and no entry equal to its key's default. -/
def tabWf {α : Type} [DecidableEq α] (d : Nat → α) (l : List (Nat × α)) : Bool :=
  keysRise l && l.all (fun e => decide (e.2 ≠ d e.1))

end Sys2Proof.Machine
end

