-- ==== Sys2Proof/Machine/Ops.lean ====
section
/-! DEFINITION. The named operations over registers, memories and units that every meaning is written with: register fields,
flags and their event counters, clusters, bytes of memory, time, counter events, trace records, error records. -/
namespace Sys2Proof.Machine

/-! ### The two shapes of a meaning -/

/-- A command that acts on unit `n` of `count`: the unit must be the part's. -/
def onUnit (n count : Nat) (s : State) (f : State → State) : Host.Outcome State Fault Refusal :=
  if n < count then .next (f s) else .fault .noSuchUnit

/-- A command that acts on two units. -/
def onUnits (n count m count' : Nat) (s : State) (f : State → State) : Host.Outcome State Fault Refusal :=
  if n < count ∧ m < count' then .next (f s) else .fault .noSuchUnit

/-- The effect `f` where `c` holds, and nothing where it does not: an event whose condition does not hold (log 4). -/
def whenS (c : Bool) (f : State → State) (s : State) : State := if c then f s else s

/-! ### Registers -/

/-- The value a register holds. -/
def rd (s : State) (k : Nat) : Word := tabGet regReset s.regs k

/-- A register written by the hardware. -/
def wr (k : Nat) (v : Word) (s : State) : State := { s with regs := tabSet regReset s.regs k v }

/-- A field of a register. -/
def fld (s : State) (k : Nat) (f : Field) : Nat := fget f (rd s k)

/-- A field of a register written by the hardware. -/
def setFld (k : Nat) (f : Field) (x : Nat) (s : State) : State := wr k (fset f (rd s k) x) s

/-- Several fields of one register written by the hardware. -/
def setFlds (k : Nat) (l : List (Field × Nat)) (s : State) : State :=
  wr k (l.foldl (fun v e => fset e.1 v e.2) (rd s k)) s

/-- A register as a number. -/
def rdN (s : State) (k : Nat) : Nat := (rd s k).toNat

/-- One hardware setting of W1C flag `b` of register `k`: the flag is set and its event counter counts, saturating at
0xFFFF_FFFF (00 R10, R11). -/
def raise (k b cnt : Nat) (s : State) : State :=
  let s := wr k (rd s k ||| (1#64 <<< b)) s
  wr cnt (BitVec.ofNat 64 (min 0xFFFFFFFF (rdN s cnt % 2 ^ 32 + 1))) s

/-! ### Units -/

/-- Clusters, galleries and memory-side dies of the part (00 Table 00-5). -/
def nClusters : Nat := 864
def nLogical : Nat := 800
def nMsd : Nat := 16
def nGal : Nat := 144
/-- What a logical number maps to while it is vacant. -/
def noPhys : Nat := 65535

/-- The physical cluster that holds a logical number, by the routers' map (01 R26). -/
def physOf (s : State) (l : Nat) : Nat := tabGet (fun _ => noPhys) s.lmap l

/-- Whether a logical number is held. -/
def held (s : State) (l : Nat) : Bool := decide (l < nLogical ∧ physOf s l < nClusters)

/-- The logical number a physical cluster holds, or 0xFFFF. -/
def logicalOf (s : State) (p : Nat) : Nat :=
  match s.lmap.find? (fun e => e.2 == p) with
  | some e => e.1
  | none => 0xFFFF

/-- The state of a physical cluster that is no register. -/
def cluster (s : State) (p : Nat) : Cluster := tabGet (fun _ => Cluster.reset) s.cl p

/-- A physical cluster's state replaced. -/
def setCluster (p : Nat) (c : Cluster) (s : State) : State :=
  { s with cl := tabSet (fun _ => Cluster.reset) s.cl p c }

/-- A physical cluster's state changed. -/
def modCluster (p : Nat) (f : Cluster → Cluster) (s : State) : State := setCluster p (f (cluster s p)) s

/-- Gallery of a physical cluster (00 Table 00-5): two columns by three rows, four to a hall. -/
def galleryOf (p : Nat) : Nat :=
  let x := p % 24
  let y := p / 24
  4 * (6 * (y / 6) + x / 4) + (2 * (y % 6 / 3) + x % 4 / 2)

/-- The six clusters of a gallery, in serial order. -/
def clustersOf (g : Nat) : List Nat :=
  let h := g / 4
  let q := g % 4
  let x := 4 * (h % 6) + 2 * (q % 2)
  let y := 6 * (h / 6) + 3 * (q / 2)
  [24 * y + x, 24 * y + x + 1, 24 * (y + 1) + x, 24 * (y + 1) + x + 1, 24 * (y + 2) + x, 24 * (y + 2) + x + 1]

/-- Physical cluster states of Table 15-5. -/
def csBad : Nat := 0
def csStandby : Nat := 1
def csServing : Nat := 2
def csSuspect : Nat := 3
def csFenced : Nat := 4
def csMovingIn : Nat := 5

/-- The state of a physical cluster (Table 15-5). -/
def clState (s : State) (p : Nat) : Nat := fld s (rBruCl p) fBruClState

/-- The state of a gallery's power (Table 14-16). -/
def galState (s : State) (g : Nat) : Nat := fld s (rPwrGal g) fPwrGalState

/-- Whether a cluster's clock runs: it serves, is under observation or takes a number over, in a powered gallery. -/
def inService (s : State) (p : Nat) : Bool :=
  (clState s p == csServing || clState s p == csSuspect || clState s p == csMovingIn) && galState s (galleryOf p) ≤ 1

/-! ### Bytes -/

/-- One byte of a memory; an unlisted byte reads 0. -/
def memByte (m : Mem) (a : Nat) : Byte := tabGet (fun _ => 0) m a

/-- `n` bytes of a memory. -/
def memRead (m : Mem) (a : Nat) : Nat → List Byte
  | 0 => []
  | n + 1 => memByte m a :: memRead m (a + 1) n

/-- Bytes written to a memory from an address up. -/
def memWrite (m : Mem) (a : Nat) : List Byte → Mem
  | [] => m
  | b :: t => memWrite (tabSet (fun _ => 0) m a b) (a + 1) t

/-- The memory's canonical form: addresses strictly rising, no listed byte 0. -/
def Memory.wf (m : Mem) : Bool := tabWf (fun _ => (0 : Byte)) m

/-- Every byte from `a` to `a + n - 1` made 0. -/
def memZero (m : Mem) (a n : Nat) : Mem := m.filter (fun e => e.1 < a || a + n ≤ e.1)

/-- The populated bytes of a scratchpad (05 R146). -/
def spmSize : Nat := 0x1800000

/-- Bytes of a physical cluster's scratchpad. -/
def spmRead (s : State) (p o n : Nat) : List Byte := memRead s.spm (p * 2 ^ 25 + o) n

/-- Bytes written to a physical cluster's scratchpad. -/
def spmWrite (p o : Nat) (l : List Byte) (s : State) : State := { s with spm := memWrite s.spm (p * 2 ^ 25 + o) l }

/-! ### Free values -/

/-- The next free value, below `2^w`, and the state in which it is taken (log 5). -/
def takeFree (w : Nat) (s : State) : Nat × State := ((Config.freeValue s.free).toNat % 2 ^ w, { s with free := s.free + 1 })

/-! ### Leaf counters (09 R281) -/

/-- The count of leaf `i`. -/
def leafCount (s : State) (i : Nat) : Nat :=
  (((s.beat : Int) + (tabGet (fun _ => Leaf.reset) s.leaves i).off) % (2 ^ 64 : Nat)).toNat

/-- The leaf of physical cluster `p`, of MSDn, of the CID and of fabric die `d` (Table 09-1). -/
def leafCl (p : Nat) : Nat := 36 + p
def leafMsd (n : Nat) : Nat := 900 + n
def leafCid : Nat := 916
def leafFab (d : Nat) : Nat := 917 + d

/-! ### Messages and answers -/

/-- A message sent. -/
def send (kind : MsgKind) (dst : Nat) (args : List Nat) (data : List Byte) (s : State) : State :=
  { s with sent := ⟨kind, dst, args, data⟩ :: s.sent }

/-- The answer left for the sender of the last access. -/
def answerWith (status : Nat) (data : List Nat) (s : State) : State := { s with answer := ⟨status, data⟩ }

/-- Status codes of Table 00-4. -/
def stOk : Nat := 0
def stUnmapped : Nat := 1
def stAlign : Nat := 2
def stNotOwner : Nat := 3
def stExpertOff : Nat := 4
def stBusy : Nat := 5
def stBadService : Nat := 6
def stBadArg : Nat := 7

/-! ### Counter events (16 R467-R471) -/

/-- The identity of a command that events are attributed to: op_id, layer_id and seq (04 R115). -/
structure Ids where
  op : Nat
  layer : Nat
  seq : Nat
deriving DecidableEq, Repr

/-- No command. -/
def noIds : Ids := ⟨0, 0, 0⟩

/-- Whether the counter filter in a configuration admits a command (16 R469). -/
def cntMatch (cfg : Word) (i : Ids) : Bool :=
  let f := fget fClCntCfgFilter cfg
  (f == 0) || ((f != 2 && fget fClCntCfgOp cfg == i.op || f == 2) && (f == 1 || fget fClCntCfgLayer cfg == i.layer))

/-- Counter `i` of a bank counts `n`; on wrap it sets OVF (16 R467). In mode 1 events of an earlier command go to CNT_DONE
(R470). `cfg`, `cnt` and `done` are the three registers. -/
def countOne (cfg cnt done : Nat) (ids : Ids) (n : Nat) (s : State) : State :=
  let c := rd s cnt
  if fld s cfg fClCntCfgMode = 1 ∧ fget fClCntSeq c ≠ ids.seq then
    (if fld s done fClCntDoneSeq = ids.seq then
      setFld done fClCntDoneValue (fld s done fClCntDoneValue + n) s else s)
  else
    let v := fget fClCntValue c + n
    let s := wr cnt (fset fClCntValue c (v % 2 ^ 48)) s
    if 2 ^ 48 ≤ v then setFld cfg fClCntCfgOvf 1 s else s

/-- The counters of a bank whose configuration lies at `cfg`, `n` of them, that count event `ev` of command `ids`. Only
configured counters have a listed configuration register. -/
def bankOf (s : State) (cfg n ev : Nat) (ids : Ids) : List Nat :=
  (s.regs.filter (fun e => cfg ≤ e.1 && e.1 < cfg + 8 * n && fget fClCntCfgEvent e.2 == ev && cntMatch e.2 ids)).map
    (fun e => (e.1 - cfg) / 8)

/-- Whether every counter of every bank is stopped (16 R472). -/
def frozen (s : State) : Bool := fld s rObsStatus fObsStatusFrozen == 1

/-- `n` occurrences of event `ev` in a cluster's bank. -/
def countCl (p ev : Nat) (ids : Ids) (n : Nat) (s : State) : State :=
  if frozen s || n == 0 then s
  else (bankOf s (rClCntCfg p 0) 64 ev ids).foldl
    (fun s i => countOne (rClCntCfg p i) (rClCnt p i) (rClCntDone p i) ids n s) s

/-- `n` occurrences of event `ev` in a 32-counter bank at block base `b` (MSD or fabric die). -/
def countBlk (b ev : Nat) (ids : Ids) (n : Nat) (s : State) : State :=
  if frozen s || n == 0 then s
  else (bankOf s (b + 0x1000) 32 ev ids).foldl
    (fun s i => countOne (b + 0x1000 + 8 * i) (b + 0x1100 + 8 * i) (b + 0x1100 + 8 * i) ids n s) s

/-- `n` occurrences of event `ev` in an MSD's bank. -/
def countMsd (n ev : Nat) (ids : Ids) (k : Nat) (s : State) : State := countBlk (msdBase n) ev ids k s

/-- `k` occurrences of event `ev` in a gallery's bank. -/
def countGal (g ev k : Nat) (s : State) : State :=
  if frozen s || k == 0 then s
  else (bankOf s (rObsGalCntCfg (8 * g)) 8 ev noIds).foldl
    (fun s i => countOne (rObsGalCntCfg (8 * g + i)) (rObsGalCnt (8 * g + i)) (rObsGalCnt (8 * g + i)) noIds k s) s

/-- The unit's counters of mode 1 at the launch of a command (16 R470): the value moves to CNT_DONE and CNT starts again for
the new command. `evs` are the unit's events. -/
def countLaunch (p : Nat) (evs : List Nat) (ids : Ids) (s : State) : State :=
  if frozen s then s
  else
    let mine := s.regs.filter (fun e => rClCntCfg p 0 ≤ e.1 && e.1 < rClCntCfg p 64 && fget fClCntCfgMode e.2 == 1 &&
      evs.contains (fget fClCntCfgEvent e.2) && cntMatch e.2 ids)
    mine.foldl (fun s e =>
      let i := (e.1 - rClCntCfg p 0) / 8
      let c := rd s (rClCnt p i)
      let s := wr (rClCntDone p i) (fset fClCntDoneSeq (fset fClCntDoneValue 0 (fget fClCntValue c)) (fget fClCntSeq c)) s
      wr (rClCnt p i) (fset fClCntSeq 0 ids.seq) s) s

/-- CNT_DONE.COMPLETE at the completion of a command that counters of mode 1 have moved on from (16 R470). -/
def countDone (p : Nat) (ids : Ids) (s : State) : State :=
  (s.regs.filter (fun e => rClCntDone p 0 ≤ e.1 && e.1 < rClCntDone p 64 && fget fClCntDoneSeq e.2 == ids.seq)).foldl
    (fun s e => setFld e.1 fClCntDoneComplete 1 s) s

/-- Events of the matrix engine and of the vector unit (16 R470). -/
def matEvents : List Nat := rangeFrom 0x10 8
def vecEvents : List Nat := rangeFrom 0x20 9

/-! ### Time -/

/-- `n` beats pass: the durations kept in beats grow (09 R291, 14 R427), and so do the counters of beats (16 R468). -/
def elapse (n : Nat) (s : State) : State :=
  if n = 0 then s
  else
    let s := { s with beat := (s.beat + n) % 2 ^ 64 }
    let s := (bitsOf 6 s.reasons).foldl (fun s r =>
      wr (rPwrThrDur r) (BitVec.ofNat 64 (rdN s (rPwrThrDur r) + n)) s) s
    if frozen s then s
    else (s.regs.filter (fun e => 0x30000000 ≤ e.1 && e.1 % 0x10000 / 0x200 == 0x40 && fget fClCntCfgEvent e.2 == 2)).foldl
      (fun s e => countOne e.1 (e.1 + 0x200) (e.1 + 0x400) noIds n s) s

/-- What the part does with no command waiting: one beat of 1 ns passes; a part that is down counts none. -/
def idle (s : State) : State := if s.inputOpen || s.cidLost then s else elapse 1 s

/-- Time moves on to beat `b`; a beat already past leaves it (log 2). -/
def advanceTo (b : Nat) (s : State) : State := elapse (b - s.beat) s

/-! ### Traces (16 R477, R478) -/

/-- The trace registers of a trace unit: TRC_CTL; TRC_PTR lies 8 above it. -/
def trcCtl (u : Nat) : Nat :=
  if u < 1000 then rClTrcCtl u else if u < 2000 then rMsdTrcCtl (u - 1000) else rFabTrcCtl (u - 2000)

/-- The trace buffer of a unit. -/
def trace (s : State) (u : Nat) : Trace := tabGet (fun _ => Trace.empty) s.traces u

/-- A unit's trace buffer replaced. -/
def setTrace (u : Nat) (t : Trace) (s : State) : State :=
  { s with traces := tabSet (fun _ => Trace.empty) s.traces u t }

/-- The 32 bytes of a trace record (Table 16-4). -/
def traceBytes (type source : Nat) (ids : Ids) (beat : Nat) (payload : List Byte) : List Byte :=
  natLe 1 type ++ natLe 1 source ++ natLe 2 ids.seq ++ natLe 4 (ids.op % 2 ^ 20 + ids.layer % 2 ^ 12 * 2 ^ 20) ++
    natLe 8 beat ++ padTo 16 payload

/-- Whether a unit's buffer takes a record now: enabled, and not stopped at its 2,048th record (16 R477). -/
def traceRoom (s : State) (u : Nat) : Bool :=
  let c := rd s (trcCtl u)
  bitAt c.toNat 0 && (!bitAt c.toNat 1 || (trace s u).count < 2048)

/-- A record written at the buffer's write index. -/
def traceWrite (u : Nat) (r : List Byte) (s : State) : State :=
  let t := trace s u
  let ptr := trcCtl u + 8
  let w := fld s ptr fClTrcPtrWr
  let s := setTrace u { t with recs := tabPut w r t.recs, count := t.count + 1 } s
  setFlds ptr [(fClTrcPtrWr, (w + 1) % 2048), (fClTrcPtrWraps, fld s ptr fClTrcPtrWraps + (w + 1) / 2048)] s

/-- A dropped record counted (16 R478). -/
def traceDrop (u : Nat) (s : State) : State :=
  let ptr := trcCtl u + 8
  let t := trace s u
  setFld ptr fClTrcPtrDropped (min 0xFFFFFFFF (fld s ptr fClTrcPtrDropped + 1)) (setTrace u { t with lost := t.lost + 1 } s)

/-- A record for a unit's buffer: written, queued behind a stopped buffer, or dropped (16 R477, R478). While ENABLE is 0,
LATE and FAIL records count as dropped and others leave nothing (Table 16-11). -/
def traceRec (u type source : Nat) (ids : Ids) (payload : List Byte) (s : State) : State :=
  let r := traceBytes type source ids s.beat payload
  let t := trace s u
  if bitAt (rdN s (trcCtl u)) 0 = false then (if type = 3 ∨ type = 4 then traceDrop u s else s)
  else if traceRoom s u && t.queue.isEmpty then traceWrite u r s
  else if t.queue.length < 8 then setTrace u { t with queue := t.queue ++ [r] } s
  else traceDrop u s

/-! ### Error records (15 R465) -/

/-- The generation of the active image; 0 with none (08 Table 08-12). -/
def activeGen (s : State) : Nat :=
  if fld s (rCalSlot 0) fCalSlotState = 0 then 0 else fld s (rCalSlot 0) fCalSlotGen

/-- An EVT message on every port that is UP and asks for it (12 R354). -/
def faultEvt (code data : Nat) (s : State) : State :=
  [0, 1].foldl (fun s p =>
    if fld s (rSerPort p) fSerPortState = 3 ∧ fld s (rSerPortCtl p) fSerPortCtlEvtFault = 1 then send .evt p [code, data] [] s
    else s) s

/-- T_g of a gallery in 1/16 °C: the highest of its four sensors (14 R428). -/
def galTemp (s : State) (g : Nat) : Int :=
  let v := rdN s (rThmGalTemp g)
  (List.range 4).foldl (fun m j => max m (toSigned 16 (bitsAt (16 * j) 16 v))) (-32768)

/-- A die's temperature in 1/16 °C. -/
def dieTemp (s : State) (k : Nat) : Int := toSigned 16 (fld s (rThmDieTemp k) fThmDieTempTemp)

/-- The gallery of a unit of Table 15-8's kinds 0 to 3. -/
def recordGal (kind unit : Nat) : Option Nat :=
  if kind < 2 then some (galleryOf unit) else if kind < 4 then some unit else none

/-- What a record says of its unit's surroundings (Table 15-8): the junction temperature, the gallery's sense voltage, which no
register shows and is a free value (log 5), and a cluster's set frequency. -/
def recordPlace (r : Record) (s : State) : Record × State :=
  match recordGal r.unitKind r.unit with
  | some g =>
    let (v, s) := takeFree 16 s
    ({ r with temp := galTemp s g, volt := v,
              freq := if r.unitKind = 0 then fld s (rClkFset r.unit) fClkFsetFnow else 0 }, s)
  | none =>
    ({ r with temp := if r.unitKind = 4 then dieTemp s r.unit else if r.unitKind = 9 then dieTemp s 16 else 0 }, s)

/-- Whether the part answers nobody: it has no power (18 R506), or its CID is lost (18 R513). -/
def partDown (s : State) : Bool := s.inputOpen || s.cidLost

/-- One error record: numbered, kept among the last 4,096, kept in the fault log of flash where its class is PERMANENT or
UNCOVERED, and shown in BRU.FAULT and BRU.LOG (15 R465, Table 15-11); its cause goes
out as EVT 0x02 (12 R354), and one of those two classes asserts ALERT_N with an in-band interrupt (18 R514). -/
def addRecord (r : Record) (s : State) : State :=
  let s := if !s.alertN && (r.cls == 3 || r.cls == 5) then send .i3c 0 [] [] s else s
  let (r, s) := recordPlace r s
  let r := { r with num := s.nRecords + 1, beat := s.beat, generation := activeGen s }
  let s := { s with records := (r :: s.records).take 4096, nRecords := r.num,
                    alertN := s.alertN || r.cls == 3 || r.cls == 5,
                    faultLog := if r.cls = 3 ∨ r.cls = 5 then (r :: s.faultLog).take 1024 else s.faultLog }
  let s := setFld rBruFault fBruFaultLastCause r.cause s
  let s := raise rBruFault 0 rBruFaultCnt s
  let s := wr rBruLog (BitVec.ofNat 64 (s.nRecords % 2 ^ 32 + (s.nRecords + 1 - s.records.length) % 2 ^ 32 * 2 ^ 32)) s
  faultEvt 2 r.cause s

/-- A record's fields with the rest at 0; the unit holds no logical number. -/
def mkRecord (cls unitKind unit cause unitCause : Nat) : Record :=
  ⟨0, cls, unitKind, unit, 0xFFFF, cause, unitCause, 0, 0, 0, 0, 0, 0, 0, 0, 0, 0, 0, []⟩

end Sys2Proof.Machine
end

