-- ==== Sys2Proof/Machine/Operands.lean ====
section
/-! DEFINITION. Every operand form the spec gives a command: the fields of the 32-byte command word and its checks (04 R113-R116),
the geometry of the scratchpad and its ranges (05 R146-R161), the operand shapes of the matrix engine (02 Table 02-2), and
the fields of run, readout, vector and stream engine descriptors. -/
namespace Sys2Proof.Machine

/-! ### The command word (04 Table 04-1) -/

def cOpcode (c : Cmd) : Nat := bitsAt 0 8 c.w0.toNat
def cLaunch (c : Cmd) : Nat := bitsAt 8 2 c.w0.toNat
def cErrCont (c : Cmd) : Bool := bitAt c.w0.toNat 12
def cTrace (c : Cmd) : Bool := bitAt c.w0.toNat 13
def cIds (c : Cmd) : Ids := ⟨bitsAt 16 20 c.w0.toNat, bitsAt 36 12 c.w0.toNat, bitsAt 48 16 c.w0.toNat⟩
def cBeat (c : Cmd) : Nat := c.w1.toNat
def cWaitSem (c : Cmd) : Nat := bitsAt 0 6 c.w1.toNat
def cWaitValue (c : Cmd) : Nat := bitsAt 32 32 c.w1.toNat
def cSlack (c : Cmd) : Nat := bitsAt 0 16 c.w2.toNat
def cDoneSem (c : Cmd) : Nat := bitsAt 16 6 c.w2.toNat
def cDoneAdd (c : Cmd) : Nat := bitsAt 24 8 c.w2.toNat
def cOpA (c : Cmd) : Nat := bitsAt 32 32 c.w2.toNat
def cOpB (c : Cmd) : Nat := bitsAt 0 32 c.w3.toNat
def cOpC (c : Cmd) : Nat := bitsAt 32 32 c.w3.toNat

/-- Command causes of Table 04-5 and Table 02-7. -/
def ccBadFormat : Nat := 1
def ccBadSparse : Nat := 2
def ccBadDesc : Nat := 3
def ccAlign : Nat := 4
def ccRange : Nat := 5
def ccBadMeta : Nat := 6
def ccAccInvalid : Nat := 7
def ccAccParity : Nat := 8
def ccEcc : Nat := 9
def ccBadOpcode : Nat := 0x10
def ccBadSem : Nat := 0x11
def ccBadCtx : Nat := 0x12
def ccBadJump : Nat := 0x13
def ccExecDenied : Nat := 0x14
def ccTargetRefused : Nat := 0x15
def ccBadFunc : Nat := 0x16
def ccWindowClosed : Nat := 0x18
def ccUnmapped : Nat := 0x19
def ccAccess : Nat := 0x1A
def ccRemoteErr : Nat := 0x1B
def ccCtxError : Nat := 0x1C

/-- Opcodes of Table 04-2. -/
def opNop : Nat := 0
def opMark : Nat := 1
def opJump : Nat := 2
def opLoopSet : Nat := 3
def opLoop : Nat := 4
def opExec : Nat := 5
def opHalt : Nat := 6
def opSemSet : Nat := 0x10
def opSemAdd : Nat := 0x11
def opSemSignal : Nat := 0x12
def opFenceRel : Nat := 0x14
def opFenceAcq : Nat := 0x15
def opMatRun : Nat := 0x20
def opMatReadout : Nat := 0x21
def opMatClear : Nat := 0x22
def opVecEw : Nat := 0x30
def opVecSfu : Nat := 0x31
def opVecRed : Nat := 0x32
def opVecSmax : Nat := 0x33
def opVecNorm : Nat := 0x34
def opVecCvt : Nat := 0x35
def opVecMove : Nat := 0x36
def opDmaSubmit : Nat := 0x40

/-- Whether an opcode is in Table 04-2. -/
def isOpcode (o : Nat) : Bool :=
  decide (o ≤ 6 ∨ (0x10 ≤ o ∧ o ≤ 0x12) ∨ o = 0x14 ∨ o = 0x15 ∨ (0x20 ≤ o ∧ o ≤ 0x22) ∨ (0x30 ≤ o ∧ o ≤ 0x36) ∨ o = 0x40)

/-- Whether an opcode may stand in a dynamic block (Table 04-2). -/
def dynamicOk (o : Nat) : Bool := isOpcode o && !(decide (2 ≤ o ∧ o ≤ 6))

/-- The unit a command runs on, as UNIT of CL.CMD_ERR: 0 controller, 1 matrix engine, 2 vector unit, 3 stream engine. -/
def cUnit (c : Cmd) : Nat :=
  let o := cOpcode c
  if o < 0x20 then 0 else if o < 0x30 then 1 else if o < 0x40 then 2 else 3

/-- R114: reserved fields 0 and a launch field below 3. -/
def fieldsOk (c : Cmd) : Bool :=
  bitsAt 10 2 c.w0.toNat == 0 && bitsAt 14 2 c.w0.toNat == 0 && cLaunch c != 3 &&
  (cLaunch c != 0 || c.w1 == 0) && (cLaunch c != 2 || bitsAt 6 26 c.w1.toNat == 0) && bitsAt 22 2 c.w2.toNat == 0

/-- R116: operands that the opcode does not name are 0 and the others are in range; the cause, 0 where it holds. Jump targets
are judged apart. -/
def operandCause (c : Cmd) : Nat :=
  let a := cOpA c
  let b := cOpB c
  let d := cOpC c
  let bad (x : Bool) : Nat := if x then 0 else ccBadDesc
  match cOpcode c with
  | 0x00 | 0x06 | 0x15 | 0x22 => bad (a == 0 && b == 0 && d == 0)
  | 0x01 | 0x02 | 0x20 | 0x21 => bad (b == 0 && d == 0)
  | 0x03 | 0x04 => bad (a < 4 && d == 0)
  | 0x05 => bad (a % 32 == 0 && 1 ≤ b && b ≤ 256 && d == 0)
  | 0x10 | 0x11 => if d ≠ 0 then ccBadDesc else if 64 ≤ a then ccBadSem else 0
  | 0x12 =>
    if bitsAt 17 15 a ≠ 0 ∨ 800 ≤ bitsAt 0 10 a ∨ (if bitAt a 16 then 256 ≤ d else d ≠ 0) then ccBadDesc
    else if 56 ≤ bitsAt 10 6 a then ccBadSem else 0
  | 0x14 => bad (a < 2 && b == 0 && d == 0)
  | 0x40 => bad (a < 64 && 1 ≤ d && d ≤ 16)
  | _ => bad (d == 0)

/-- R113: the cause for a command of streams 0-27 that names a reserved semaphore or context, 0 where it names none. -/
def reservedCause (c : Cmd) : Nat :=
  let o := cOpcode c
  if (o = 0x10 ∨ o = 0x11) ∧ 56 ≤ cOpA c then ccBadSem
  else if cLaunch c = 2 ∧ 56 ≤ cWaitSem c then ccBadSem
  else if cDoneAdd c ≠ 0 ∧ 56 ≤ cDoneSem c then ccBadSem
  else if o = 0x40 ∧ 60 ≤ cOpA c then ccBadCtx
  else 0

/-- R120: a jump or loop target inside the stream's range `[first, last)`. -/
def jumpOk (c : Cmd) (first last : Nat) : Bool :=
  let o := cOpcode c
  let t := if o = 0x02 then cOpA c else cOpB c
  !(o == 0x02 || o == 0x04) || (decide (first ≤ t ∧ t < last))

/-- The controller's checks of a command as soon as condition 1 of R117 holds: its cause, 0 where it passes. The order of the
checks among themselves is the model's (log 21). -/
def checkCause (c : Cmd) (stream first last : Nat) : Nat :=
  if !isOpcode (cOpcode c) then ccBadOpcode
  else if !fieldsOk c then ccBadDesc
  else if operandCause c ≠ 0 then operandCause c
  else if stream < 28 ∧ reservedCause c ≠ 0 then reservedCause c
  else if !jumpOk c first last then ccBadJump
  else 0

/-- A command of a dynamic block checked against R114, R116 and the Dynamic column (04 R121). -/
def blockCmdOk (c : Cmd) : Bool := dynamicOk (cOpcode c) && fieldsOk c && operandCause c == 0

/-- A command from its 32 bytes. -/
def cmdOfBytes (l : List Byte) : Cmd :=
  ⟨BitVec.ofNat 64 (leAt 0 8 l), BitVec.ofNat 64 (leAt 8 8 l), BitVec.ofNat 64 (leAt 16 8 l), BitVec.ofNat 64 (leAt 24 8 l)⟩

/-- The command at an index of a cluster's command memory (04 R112, R114). -/
def cmdAt (c : Cluster) (i : Nat) : Cmd :=
  let w (j : Nat) : Word := tabGet (fun _ => 0) c.cmdMem (4 * i + j)
  ⟨w 0, w 1, w 2, w 3⟩

/-! ### The scratchpad (05) -/

/-- The bank of an offset (05 R147). -/
def bankOfOff (o : Nat) : Nat :=
  let l := o / 64
  l % 4 + 4 * ((l / 4 % 32) ^^^ (l / 128 % 32))

/-- The row of an offset. -/
def rowOfOff (o : Nat) : Nat := o / 64 / 128

/-- The offset of a row's line in a bank: the mapping of R147 read backwards. -/
def offOf (bank row : Nat) : Nat := ((128 * row) + (bank % 4 + 4 * ((bank / 4) ^^^ (row % 32)))) * 64

/-- The quarter a requester sits in (Table 05-1). -/
def quarterOf (q : Nat) : Nat :=
  if q < 16 then q % 4 else if q = 16 then 0 else if q ≤ 20 then q - 17 else if q = 21 then 0 else if q = 22 then 3 else 2

/-- The scratchpad latency from a requester to a bank (Table 05-2). -/
def spmLatency (q bank : Nat) : Nat :=
  let d := quarterOf q ^^^ (bank / 32)
  if d = 0 then 4 else if d = 3 then 9 else 6

/-- Range states of Table 05-4. -/
def rsOpen : Nat := 0
def rsClosed : Nat := 1
def rsOff : Nat := 2
def rsBusy : Nat := 3

/-- The state of bank range Bk of a cluster (05 Table 05-7). -/
def rangeState (s : State) (p k : Nat) : Nat := bitsAt (2 * k) 2 (rdN s (rClSpmRange p))

/-- A range's state replaced. -/
def setRange (p k st : Nat) (s : State) : State := setFld (rClSpmRange p) ⟨2 * k, 2⟩ st s

/-- The ranges bytes `o` to `o + n - 1` lie in, as a mask; bit 12 stands for bytes past the populated scratchpad. -/
def rangesOf (o n : Nat) : Nat :=
  if n = 0 then 0 else
    maskOf ((List.range 12).filter (fun k => decide (o < (k + 1) * 0x200000 ∧ k * 0x200000 < o + n))) +
      (if spmSize < o + n then 4096 else 0)

/-- Whether every range of a mask is OPEN. -/
def rangesOpen (s : State) (p mask : Nat) : Bool := (bitsOf 13 mask).all (fun k => k < 12 && rangeState s p k == rsOpen)

/-- Whether bytes `o` to `o + n - 1` are populated and in OPEN ranges (05 R161). -/
def spmOpen (s : State) (p o n : Nat) : Bool := rangesOpen s p (rangesOf o n)

/-- Whether a 64-bit word among bytes `o` to `o + n - 1` has an uncorrectable error (05 R157). -/
def spmBad (s : State) (p o n : Nat) : Bool :=
  (cluster s p).badWords.any (fun w => w * 8 < o + n && o < w * 8 + 8)

/-- Whether a write of `n` bytes at `o` covers only part of a word with an uncorrectable error (05 R157). -/
def spmPartBad (s : State) (p o n : Nat) : Bool :=
  (cluster s p).badWords.any (fun w => w * 8 < o + n && o < w * 8 + 8 && !(o ≤ w * 8 && w * 8 + 8 ≤ o + n))

/-- Bytes written by a unit of the cluster or through a window: words wholly covered get fresh check bits (05 R157). -/
def spmStore (p o : Nat) (l : List Byte) (s : State) : State :=
  let s := spmWrite p o l s
  let whole (w : Nat) : Bool := o ≤ w * 8 && w * 8 + 8 ≤ o + l.length
  let c := cluster s p
  if (c.badWords ++ c.fixWords).any whole then
    setCluster p { c with badWords := c.badWords.filter (!whole ·), fixWords := c.fixWords.filter (!whole ·) } s
  else s

/-- Whether an access has the form of R154: 4, 8, 16, 32 or 64 bytes aligned to its size. -/
def accessForm (o n : Nat) : Bool := (n == 4 || n == 8 || n == 16 || n == 32 || n == 64) && o % n == 0

/-! ### Matrix operand shapes (02 Tables 02-1, 02-2) -/

/-- Logical K of a pass. -/
def mLogicalK (wf : Nat) (sp : Bool) : Nat :=
  let k := if wf ≤ 1 then 64 else if wf ≤ 9 then 128 else 256
  if sp then 2 * k else k
/-- Kept elements per dot unit. -/
def mKept (wf : Nat) : Nat := if wf ≤ 1 then 64 else if wf ≤ 9 then 128 else 256
/-- Weight bytes per dot unit. -/
def mWb (wf : Nat) : Nat := if wf = 8 ∨ wf = 9 then 96 else 128
/-- Scale bytes per dot unit, and per activation row: one for 32 logical elements in the MX formats. -/
def mSb (wf : Nat) (sp : Bool) : Nat := if isMx wf then mLogicalK wf sp / 32 else 0
/-- Metadata bytes per dot unit: two bits a kept element. -/
def mMb (wf : Nat) (sp : Bool) : Nat := if sp then mKept wf / 4 else 0
/-- Bytes of a row segment, a multiple of 64 (02 R55). -/
def mSeg (wf : Nat) (sp : Bool) : Nat := (16 * (mWb wf + mSb wf sp + mMb wf sp) + 63) / 64 * 64
/-- Lines of a row segment. -/
def mLw (wf : Nat) (sp : Bool) : Nat := mSeg wf sp / 64
/-- Element bytes of an activation row. -/
def mAb (wf af : Nat) (sp : Bool) : Nat := mLogicalK wf sp * elemBits af / 8
/-- Blocks of 32 logical elements in a pass. -/
def mBlocks (wf : Nat) (sp : Bool) : Nat := mLogicalK wf sp / 32

/-- The pairing classes of Table 02-1. -/
def pairClass (f : Nat) : Nat :=
  match f with
  | 0 => 0 | 1 => 1 | 2 => 2 | 3 => 2 | 4 => 3 | 5 => 4 | 6 => 4 | 7 => 5 | 8 => 6 | 9 => 6 | 0xA => 7 | 0xB => 8 | _ => 99
/-- Whether a format allows 2:4 sparsity (Table 02-1). -/
def sparseOk (f : Nat) : Bool := !(f == 0 || f == 1 || f == 8 || f == 9)

/-- Element `k` of a packed vector (02 R56). -/
def packedElem (code k : Nat) (l : List Byte) : Nat :=
  let w := elemBits code
  bitsAt (k * w % 8) w (leAt (k * w / 8) 5 l)

/-! ### Descriptors: fields at byte offsets -/

/-- A run descriptor's fields (02 Table 02-3). -/
def rdNMask (d : List Byte) : Nat := leAt 0 32 d
def rdWBase (d : List Byte) : Nat := leAt 0x20 4 d
def rdWStride (d : List Byte) : Nat := leAt 0x24 4 d
def rdABase (d : List Byte) : Nat := leAt 0x28 4 d
def rdAStride (d : List Byte) : Nat := leAt 0x2C 4 d
def rdASBase (d : List Byte) : Nat := leAt 0x30 4 d
def rdASStride (d : List Byte) : Nat := leAt 0x34 2 d
def rdPasses (d : List Byte) : Nat := leAt 0x36 2 d
def rdKMask (d : List Byte) : Nat := leAt 0x38 2 d
def rdMCount (d : List Byte) : Nat := leAt 0x3A 1 d
def rdWFmt (d : List Byte) : Nat := leAt 0x3B 1 d % 16
def rdAFmt (d : List Byte) : Nat := leAt 0x3B 1 d / 16
def rdFlags (d : List Byte) : Nat := leAt 0x3C 1 d
def rdSparse (d : List Byte) : Bool := bitAt (rdFlags d) 0
def rdInit (d : List Byte) : Bool := bitAt (rdFlags d) 1

/-- A readout descriptor's fields (02 Table 02-4). -/
def roDst (d : List Byte) : Nat := leAt 0 4 d
def roStride (d : List Byte) : Nat := leAt 4 4 d
def roScale (d : List Byte) : Nat := leAt 8 4 d
def roFmt (d : List Byte) : Nat := leAt 0xC 1 d
def roFlags (d : List Byte) : Nat := leAt 0xD 1 d
def roScaleEn (d : List Byte) : Bool := bitAt (roFlags d) 0
def roKeep (d : List Byte) : Bool := bitAt (roFlags d) 1
def roMCount (d : List Byte) : Nat := leAt 0xE 1 d
/-- Bytes of one output element. -/
def roElem (d : List Byte) : Nat := if roFmt d = 0 then 4 else 2

/-- A vector descriptor's fields (04 Table 04-6). -/
def vSrc0 (d : List Byte) : Nat := leAt 0 4 d
def vSrc1 (d : List Byte) : Nat := leAt 4 4 d
def vDst (d : List Byte) : Nat := leAt 8 4 d
def vAux (d : List Byte) : Nat := leAt 0xC 4 d
def vSt0 (d : List Byte) : Nat := leAt 0x10 4 d
def vSt1 (d : List Byte) : Nat := leAt 0x14 4 d
def vStD (d : List Byte) : Nat := leAt 0x18 4 d
def vLen (d : List Byte) : Nat := leAt 0x1C 2 d
def vRows (d : List Byte) : Nat := leAt 0x1E 2 d
def vImm0 (d : List Byte) : Nat := leAt 0x20 4 d
def vImm1 (d : List Byte) : Nat := leAt 0x24 4 d
def vSeed (d : List Byte) : Nat := leAt 0x28 8 d
def vSf (d : List Byte) : Nat := leAt 0x30 1 d % 16
def vDf (d : List Byte) : Nat := leAt 0x30 1 d / 16
def vMode (d : List Byte) : Nat := leAt 0x31 1 d
def vCvt (d : List Byte) : Nat := vMode d % 4
def vRow1 (d : List Byte) : Bool := bitAt (vMode d) 2
def vImmS (d : List Byte) : Bool := bitAt (vMode d) 3
def vAux2 (d : List Byte) : Nat := leAt 0x34 4 d

/-- A stream engine descriptor's fields (04 Table 04-8). -/
def xKind (d : List Byte) : Nat := leAt 0 1 d
def xFlags (d : List Byte) : Nat := leAt 1 1 d
def xDevice (d : List Byte) : Nat := leAt 2 1 d
def xSrc (d : List Byte) : Nat := leAt 8 8 d
def xDst (d : List Byte) : Nat := leAt 0x10 8 d
def xSize0 (d : List Byte) : Nat := leAt 0x18 4 d
def xCount1 (d : List Byte) : Nat := leAt 0x1C 4 d
def xCount2 (d : List Byte) : Nat := leAt 0x20 4 d
def xSs1 (d : List Byte) : Nat := leAt 0x24 4 d
def xSs2 (d : List Byte) : Nat := leAt 0x28 4 d
def xDs1 (d : List Byte) : Nat := leAt 0x2C 4 d
def xDs2 (d : List Byte) : Nat := leAt 0x30 4 d
def xIdxBase (d : List Byte) : Nat := leAt 0x34 4 d
def xIdxCount (d : List Byte) : Nat := leAt 0x38 4 d

/-- A window address's fields, as in the WINDOW descriptor (04 Table 04-8). -/
def waOff (w : Nat) : Nat := bitsAt 0 32 w
def waCluster (w : Nat) : Nat := bitsAt 32 10 w
def waWin (w : Nat) : Nat := bitsAt 42 6 w
def waGen (w : Nat) : Nat := bitsAt 48 8 w

end Sys2Proof.Machine
end

