-- ==== Sys2Proof/Machine/Flags.lean ====
section
/-! DEFINITION. Flag computations: the arithmetic flags and their counters (03 R108, R109), the matrix error record (02 R77), and
the scratchpad's error flags (05 R156). -/
namespace Sys2Proof.Machine

/-- The arithmetic flags of a mask set, each once for the command, with their counters and counter events (03 R108, R109). -/
def raiseArith (p mask : Nat) (ids : Ids) (s : State) : State :=
  (bitsOf 6 mask).foldl (fun s i => countCl p (0x23 + i) ids 1 (raise (rClArithFlags p) i (rClArithFlagsCnt p i) s)) s

/-- The word of an error recorded, and CORR or UNCORR set (05 R156, Table 05-9). -/
def eccNote (p word : Nat) (uncorr : Bool) (s : State) : State :=
  let s := setFlds (rClSpmEcc p) [(fClSpmEccLastWord, word), (fClSpmEccLastUncorr, bit uncorr)] s
  let s := raise (rClSpmEcc p) (bit uncorr) (rClSpmEccCnt p (bit uncorr)) s
  if uncorr then s else countCl p 0x42 noIds 1 s

/-- The first word with an uncorrectable error that a read of bytes `o` to `o + n - 1` meets. -/
def firstBad (s : State) (p o n : Nat) : Option Nat :=
  (cluster s p).badWords.find? (fun w => w * 8 < o + n && o < w * 8 + 8)

/-- A read of bytes that may hold an uncorrectable word: the word is recorded (05 R156). -/
def eccRead (p o n : Nat) (s : State) : State :=
  match firstBad s p o n with
  | some w => eccNote p w true s
  | none => s

/-- CL.MAT_ERR's record of a failing matrix command (02 R74, R77). -/
def matErr (p : Nat) (i : Ids) (cause : Nat) (s : State) : State :=
  let s := setFlds (rClMatErr p) [(fClMatErrOpId, i.op), (fClMatErrLayerId, i.layer), (fClMatErrSeq, i.seq),
    (fClMatErrCause, cause)] s
  raise (rClMatErr p) 0 (rClMatErrCnt p) s

end Sys2Proof.Machine
end

