-- ==== Sys2Proof/Machine/Mailbox.lean ====
section
/-! DEFINITION. Ownership of control space (00 R14; 12 R360, R363) and the mailbox protocol of every block (00 R15-R18): how a
service call starts, runs, and ends. -/
namespace Sys2Proof.Machine

/-- An entry of a keyed list that has no default. -/
def look {α : Type} (l : List (Nat × α)) (k : Nat) : Option α := (l.find? (fun e => e.1 == k)).map (·.2)

/-! ### Who may write (00 R14, 12 R363) -/

/-- Block bits of SER.GRANT (12). The SER block has none: its writes stay with the owner. -/
def gbMod : Nat := 0
def gbSec : Nat := 1
def gbFab : Nat := 2
def gbCal : Nat := 3
def gbEsc : Nat := 4
def gbPwr : Nat := 5
def gbThm : Nat := 6
def gbClk : Nat := 7
def gbBru : Nat := 8
def gbObs : Nat := 9
def gbSvc : Nat := 10
def gbMsd : Nat := 11
def gbCl : Nat := 12
def gbSer : Nat := 13

/-- Ownership states of SER.OWNER. -/
def osNone : Nat := 0
def osElecting : Nat := 1
def osOwned : Nat := 2
def osOffered : Nat := 3

/-- Whether the lease of an owner has not ended (12 R362). -/
def leaseLive (s : State) : Bool := 2 ≤ fld s rSerOwner fSerOwnerState && s.beat < rdN s rSerLeaseEnd

/-- Whether a requestor owns the part: a write that comes after the lease end is no owner's (12 R362). -/
def isOwner (s : State) (rid : Nat) : Bool := leaseLive s && fld s rSerOwner fSerOwnerRid == rid

/-- Whether a requestor holds a grant for a block (12 R363); at the end of a lease the grants are void. -/
def granted (s : State) (rid blk : Nat) : Bool :=
  blk < 13 && (leaseLive s || fld s rSerOwner fSerOwnerState < 2) && (List.range 16).any (fun g =>
    let v := rd s (rSerGrant g)
    fget fSerGrantValid v == 1 && fget fSerGrantRid v == rid && bitAt (fget fSerGrantBlocks v) blk)

/-- Whether a requestor may write a block: the owner, or a requestor the owner has granted the block (00 R14, 12 R363). -/
def mayWrite (s : State) (rid blk : Nat) : Bool := isOwner s rid || granted s rid blk

/-! ### The mailbox page (00 Table 00-6) -/

def mbxCmd (b : Nat) : Nat := b
def mbxStatus (b : Nat) : Nat := b + 8
def mbxStatusCnt (b : Nat) : Nat := b + 0x10
def mbxArg (b i : Nat) : Nat := b + 0x100 + 8 * i
def mbxRes (b i : Nat) : Nat := b + 0x200 + 8 * i
def mbxExpertEn (b : Nat) : Nat := b + 0xFF8

/-- The mailbox pages of the blocks of Table 01-4. -/
def mbMod : Nat := 0xFF000
def mbSec : Nat := 0x1FF000
def mbSer : Nat := 0x3FF000
def mbFab (d : Nat) : Nat := 0x4FF000 + d * 0x100000
def mbCal : Nat := 0x6FF000
def mbEsc : Nat := 0x7FF000
def mbPwr : Nat := 0x8FF000
def mbThm : Nat := 0x9FF000
def mbClk : Nat := 0xAFF000
def mbBru : Nat := 0xBFF000
def mbObs : Nat := 0xCFF000
def mbSvc : Nat := 0xDFF000
def mbMsd (n : Nat) : Nat := 0x10FF000 + n * 0x100000
def mbCl (l : Nat) : Nat := 0x1007F000 + l * 0x80000

/-- The block bit of a mailbox page, and the logical cluster of a CL page. -/
def mbxBlock (b : Nat) : Nat :=
  if 0x10000000 ≤ b then gbCl else if 0x1000000 ≤ b then gbMsd
  else match b / 0x100000 with
    | 0 => gbMod | 1 => gbSec | 2 => gbSer | 3 => gbSer | 4 => gbFab | 5 => gbFab | 6 => gbCal | 7 => gbEsc | 8 => gbPwr
    | 9 => gbThm | 10 => gbClk | 11 => gbBru | 12 => gbObs | _ => gbSvc

/-- Whether a logical number's control-space accesses are held at the stair root: its holder is fenced and its move has not
installed the new map yet (15 R453). -/
def moving (s : State) (l : Nat) : Bool :=
  held s l && (clState s (physOf s l) == csFenced || clState s (physOf s l) == csBad || clState s (physOf s l) == csStandby)

/-- What a service body answers: done with a completion status and results, or still running with what it keeps. -/
inductive Reply where
  | done (status : Nat) (res : List Nat)
  | runs (keep : List Nat)
deriving DecidableEq, Repr

/-- A call that is done. -/
def ok (res : List Nat) : Reply := .done stOk res

/-- The end of a call (00 R17): every MBX_RES register is written, the completion status, BUSY clears and DONE is set. -/
def endCall (b status : Nat) (res : List Nat) (s : State) : State :=
  let s := (List.range 16).foldl (fun s i => wr (mbxRes b i) (BitVec.ofNat 64 (res.getD i 0)) s) s
  let s := wr (mbxStatus b) (BitVec.ofNat 64 (status % 256 * 256 + rdN s (mbxStatus b) % 256 / 2 * 2)) s
  let s := raise (mbxStatus b) 1 (mbxStatusCnt b) s
  let s := wr (mbxCmd b) (BitVec.ofNat 64 (rdN s (mbxCmd b) % 2 ^ 63)) s
  { s with calls := tabDel b s.calls }

/-- The start of a call: GO and BUSY read 1, and the body runs (00 R17). -/
def startCall (b code rid : Nat) (args : List Nat) (body : State → Reply × State) (s : State) : State :=
  let s := wr (mbxCmd b) (BitVec.ofNat 64 (code % 2 ^ 16 + 2 ^ 63)) s
  let s := wr (mbxStatus b) (rd s (mbxStatus b) ||| 1) s
  match body s with
  | (.done st res, s) => answerWith stOk (st :: res) (endCall b st res s)
  | (.runs keep, s) => answerWith stOk [] { s with calls := tabPut b ⟨code, rid, args, s.beat, keep⟩ s.calls }

/-- A service call by a requestor: its arguments are written and GO is set. The call is refused with UNMAPPED where the block
is a vacant number's, NOT_OWNER from a requestor that may not write the block (00 R14), and BUSY while a call runs (R17); a
call for a number on the move waits at the stair root (15 R453). A part without power does not answer. -/
def service (b code rid : Nat) (args : List Nat) (body : State → Reply × State) (s : State) : State :=
  let l := (b - 0x10000000) / 0x80000
  if partDown s then s
  else if mbxBlock b = gbCl ∧ held s l = false then answerWith stUnmapped [] s
  else if mbxBlock b = gbCl ∧ moving s l = true then s
  else if !mayWrite s rid (mbxBlock b) then answerWith stNotOwner [] s
  else if (look s.calls b).isSome then answerWith stBusy [] s
  else
    let s := (args.zip (List.range 16)).foldl (fun s e => wr (mbxArg b e.2) (BitVec.ofNat 64 e.1) s) s
    startCall b code rid args body s

/-- A service that only reads: its results. -/
def serviceRead (b code rid : Nat) (args : List Nat) (res : State → List Nat) (s : State) : State :=
  service b code rid args (fun s => (ok (res s), s)) s

end Sys2Proof.Machine
end

