-- ==== Sys2Proof/Machine/Hbm.lean ====
section
/-! DEFINITION. Memory stacks as storage: the spread of addresses (07 R213), stripes and parity (R217-R220), a line read with
reconstruction (R220, R247), a line write with its parity (R219, R223), and the MSD buffers (R216, R222, R234). -/
namespace Sys2Proof.Machine

/-! ### Addresses (00 Table 00-2; 07 R213) -/

/-- Whether HBM stack parity is on (01 Table 01-6). -/
def parityOn (s : State) : Bool := fld s rModStatus fModStatusParityOn == 1

/-- The first device address past addressable HBM (00 Table 00-2). -/
def hbmTop (s : State) : Nat := if parityOn s then 0x8700000000 else 0x9000000000

/-- The status an HBM access of `n` bytes at `a` is refused with, 0 where it is accepted (00 R5; 07 R215). -/
def hbmCheck (s : State) (a n : Nat) : Nat :=
  if hbmTop s < a + n then ccUnmapped else if accessForm a n then 0 else ccAlign

/-- The stack of an HBM address, its stack offset, and the canonical key of a stack byte. -/
def stackOf (a : Nat) : Nat := a / 2 ^ 16 % 16
def stackOff (a : Nat) : Nat := a / 2 ^ 20 * 2 ^ 16 + a % 2 ^ 16
def hkey (st o : Nat) : Nat := st * 2 ^ 36 + o
/-- The device address of a stack offset. -/
def devAddr (st o : Nat) : Nat := (o / 2 ^ 16 * 16 + st) * 2 ^ 16 + o % 2 ^ 16

/-- Where a stack's parity region begins (07 R213). -/
def parityBase : Nat := 0x870000000

/-- A stripe: its number r, its parity stack i, and the byte offset within its units (07 R218). -/
structure Stripe where
  r : Nat
  i : Nat
  b : Nat
deriving DecidableEq, Repr

/-- The stripe of a byte of a stack, in the data or the parity region. -/
def stripeOf (st o : Nat) : Stripe :=
  if o < parityBase then
    let k := o / 4096
    ⟨k / 15, (st + 31 - k % 15) % 16, o % 4096⟩
  else ⟨(o - parityBase) / 4096, st, o % 4096⟩

/-- The stack and offset of a stripe's parity byte, and of its 15 data bytes. -/
def parityAt (z : Stripe) : Nat × Nat := (z.i, parityBase + 4096 * z.r + z.b)
def dataAt (z : Stripe) : List (Nat × Nat) :=
  (List.range 15).map (fun j => ((z.i + j + 1) % 16, 4096 * (15 * z.r + j) + z.b))

/-! ### The MSDs' states (07 Table 07-10) -/

def msTraining : Nat := 0
def msServing : Nat := 1
def msOffline : Nat := 2
def msRebuilding : Nat := 3
def msFailed : Nat := 4

/-- MSD.STATUS.STATE. -/
def msdState (s : State) (n : Nat) : Nat := fld s (rMsdStatus n) fMsdStatusState
/-- Whether a stack's own lines cannot be taken from it: OFFLINE, REBUILDING or FAILED. -/
def msdDown (s : State) (n : Nat) : Bool := 2 ≤ msdState s n
/-- The proxy of an MSD (07 R222). -/
def proxyOf (n : Nat) : Nat := (n + 1) % 16

/-! ### Lines -/

/-- Bytes XORed. -/
def xorBytes : List Byte → List Byte → List Byte
  | a :: x, b :: y => (a ^^^ b) :: xorBytes x y
  | _, _ => []

/-- A line as a stack stores it. -/
def rawLine (s : State) (st o : Nat) : List Byte := memRead s.hbm (hkey st o) 64

/-- Whether a stack can give a line itself. -/
def lineUp (s : State) (st o : Nat) : Bool := !msdDown s st && !s.hbmBad.contains (hkey st o / 64)

/-- A line rebuilt from the 15 other lines of its stripe, where every one of them is up (07 R220). -/
def rebuilt (s : State) (st o : Nat) : Option (List Byte) :=
  let z := stripeOf st o
  let rest := (parityAt z :: dataAt z).filter (fun e => e.1 != st)
  if parityOn s && rest.all (fun e => lineUp s e.1 e.2) then
    some (rest.foldl (fun x e => xorBytes x (rawLine s e.1 e.2)) (List.replicate 64 0))
  else none

/-- A line's value: its stack's, or the rebuilt one; none where it is lost (07 R227, R247). -/
def lineVal (s : State) (st o : Nat) : Option (List Byte) :=
  if lineUp s st o then some (rawLine s st o) else rebuilt s st o

/-- A line stored in its stack with fresh check bits. -/
def putLine (st o : Nat) (l : List Byte) (s : State) : State :=
  { s with hbm := memWrite s.hbm (hkey st o) l, hbmBad := s.hbmBad.filter (· != hkey st o / 64) }

/-- MSD flags of Table 07-11. -/
def meErr : Nat := 0
def meRepaired : Nat := 1
def meLost : Nat := 2
def raiseMsd (n b : Nat) (s : State) : State := raise (rMsdErr n) b (rMsdErrCnt n b) s

/-- A line repaired from parity: written back, REPAIRED set, and the line recorded (07 R247). -/
def repairLine (st o : Nat) (l : List Byte) (s : State) : State :=
  let s := raiseMsd st meRepaired (putLine st o l s)
  addRecord { mkRecord 1 4 st 0x1B 0 with detail := natLe 8 o } s

/-- A line that cannot be rebuilt: DATA_LOST (07 R247), raised by the MSD that serves the stack. -/
def loseLine (st : Nat) (s : State) : State :=
  raiseMsd (if msdDown s st then proxyOf st else st) meLost s

/-- One line read by an MSD: as stored, rebuilt under R220 and written back where its stack is up, or lost. -/
def readLine (st o : Nat) (s : State) : Option (List Byte) × State :=
  let s := if msdDown s st then s else countMsd st 0x80 noIds 1 s
  if lineUp s st o then (some (rawLine s st o), s)
  else match rebuilt s st o with
    | some l =>
      let s := countMsd (parityAt (stripeOf st o)).1 0x87 noIds 1 s
      (some l, if msdDown s st then s else repairLine st o l s)
    | none => (none, loseLine st s)

/-- A unit of an OFFLINE or REBUILDING stack that was written while it is out: logged in its proxy's rebuild log, or the log
overflows (07 R226). A unit is logged once. -/
def logUnit (st o : Nat) (s : State) : State :=
  if !(msdState s st == msOffline || msdState s st == msRebuilding) then s
  else
    let n := fld s (rMsdStatus st) fMsdStatusRebuildLeft
    let base := proxyOf st * 2 ^ 26 + 0x3E00000
    if fld s (rMsdStatus st) fMsdStatusFullRebuild = 1 then s
    else if (List.range n).any (fun i => leNat (memRead s.buf (base + 4 * i) 4) == o / 4096) then s
    else if 65536 ≤ n then setFld (rMsdStatus st) fMsdStatusFullRebuild 1 s
    else setFld (rMsdStatus st) fMsdStatusRebuildLeft (n + 1)
      { s with buf := memWrite s.buf (base + 4 * n) (natLe 4 (o / 4096)) }

/-- The parity line of a stripe changed by a delta (07 R219 step 3). -/
def applyDelta (z : Stripe) (delta : List Byte) (s : State) : State :=
  let p := parityAt z
  let s := countMsd p.1 0x86 noIds 1 (countMsd p.1 0x81 noIds 1 (countMsd p.1 0x80 noIds 1 s))
  putLine p.1 p.2 (xorBytes (rawLine s p.1 p.2) delta) s

/-- A line write carried through all its steps (07 R219, R223, R227); the status is 0, or REMOTE_ERR where the line is lost and
nothing is stored. -/
def writeLine (st o : Nat) (new : List Byte) (s : State) : Nat × State :=
  let z := stripeOf st o
  let p := parityAt z
  let wrCnt (s : State) : State := countMsd st 0x81 noIds 1 s
  if !parityOn s then
    if msdDown s st then (ccRemoteErr, s) else (0, wrCnt (putLine st o new s))
  else if msdDown s st then
    match lineVal s st o with
    | none => (ccRemoteErr, s)
    | some old => (0, logUnit st o (applyDelta z (xorBytes old new) s))
  else if msdDown s p.1 then (0, logUnit p.1 p.2 (wrCnt (putLine st o new s)))
  else
    match readLine st o s with
    | (none, s) => (ccRemoteErr, s)
    | (some old, s) => match readLine p.1 p.2 s with
      | (none, s) => (ccRemoteErr, s)
      | (some _, s) => (0, wrCnt (putLine st o new (applyDelta z (xorBytes old new) s)))

/-! ### Writes and reads in progress (07 R219, R229-R231) -/

/-- A pending line write carried to its acceptance: its delta applied if it was not, its line stored. -/
def finishWrite (w : LineWrite) (s : State) : State :=
  let a := w.line * 64
  let st := stackOf a
  let o := stackOff a
  let s := if w.applied then s else applyDelta (stripeOf st o) w.delta s
  send .meshResp w.req [stOk, a] [] (countMsd st 0x81 noIds 1 (putLine st o w.new s))

/-- The writes of a line that are in progress, carried out in the order they arrived: accesses to one line apply in that order
(07 R231). -/
def drainLine (a : Nat) (s : State) : State :=
  let ws := s.lineWrites.filter (fun w => w.line == a / 64)
  ws.foldl (fun s w => finishWrite w s) { s with lineWrites := s.lineWrites.filter (fun w => w.line != a / 64) }

/-- A write to a line closes its open combining entry; reads that had joined keep the old line (07 R230). -/
def closeReads (a : Nat) (old : List Byte) (s : State) : State :=
  { s with lineReads := s.lineReads.map (fun r =>
      if r.addr / 64 == a / 64 && r.old.isNone then { r with isOpen := false, old := some old } else r) }

/-- `l` put over a line at byte `o`. -/
def patch (line : List Byte) (o : Nat) (l : List Byte) : List Byte := line.take o ++ l ++ line.drop (o + l.length)

/-- At most one line's bytes written at device address `a`: a read-modify-write of its line where they are fewer than 64
(07 R215). -/
def hbmWriteLine (a : Nat) (l : List Byte) (s : State) : Nat × State :=
  let s := drainLine a s
  let st := stackOf a
  let o := stackOff (a / 64 * 64)
  let s := closeReads a (rawLine s st o) s
  if l.length = 64 then writeLine st o l s
  else match readLine st o s with
    | (none, s) => (ccRemoteErr, s)
    | (some old, s) => writeLine st o (patch old (a % 64) l) s

/-- The pieces of a run of `n` bytes at `a` that lie in one line each. -/
def linePieces : Nat → Nat → Nat → List (Nat × Nat)
  | 0, _, _ => []
  | fuel + 1, a, n =>
    if n = 0 then []
    else
      let k := min n (64 - a % 64)
      (a, k) :: linePieces fuel (a + k) (n - k)

/-- A run's pieces. -/
def pieces (a n : Nat) : List (Nat × Nat) := linePieces (n / 64 + 2) a n

/-- Bytes read from HBM in one composite access: every line in turn; none where one of them is lost. -/
def hbmRead (a n : Nat) (s : State) : Option (List Byte) × State :=
  (pieces a n).foldl (fun (acc : Option (List Byte) × State) e =>
    let s := drainLine e.1 acc.2
    match readLine (stackOf e.1) (stackOff (e.1 / 64 * 64)) s with
    | (some l, s) => (acc.1.map (· ++ slice (e.1 % 64) e.2 l), s)
    | (none, s) => (none, s)) (some [], s)

/-- Bytes written to HBM in one composite access: the status is that of the first line refused; lines before it stay. -/
def hbmWrite (a : Nat) (l : List Byte) (s : State) : Nat × State :=
  (pieces a l.length).foldl (fun (acc : Nat × State) e =>
    if acc.1 ≠ 0 then acc else hbmWriteLine e.1 (slice (e.1 - a) e.2 l) acc.2) (0, s)

/-- Bytes of HBM that firmware reads for its own use; a lost line reads as zeros to it. -/
def hbmPeek (s : State) (a n : Nat) : List Byte :=
  ((pieces a n).map (fun e =>
    slice (e.1 % 64) e.2 ((lineVal s (stackOf e.1) (stackOff (e.1 / 64 * 64))).getD []))).flatten

/-! ### The buffers (07 R216, R222, R234) -/

/-- Where a buffer access lands: the MSD and offset, or the status it is refused with. -/
inductive BufPlace where
  | at_ (n o : Nat)
  | no (status : Nat)
deriving DecidableEq, Repr

/-- The place of offset `o` of MSDn's buffer: its own, or the proxy reserve of its proxy (07 R222); every access is answered
with an error where the proxy is failed as well (R227), and nothing answers while no proxy is installed. -/
def bufPlace (s : State) (n o : Nat) : BufPlace :=
  if s.proxied.contains n then
    if msdState s (proxyOf n) = msFailed then .no ccRemoteErr
    else if o < 0x400000 then .at_ (proxyOf n) (0x400000 + o)
    else if 0x3800000 ≤ o then .at_ (proxyOf n) (0x800000 + (o - 0x3800000))
    else .no ccUnmapped
  else if msdState s n = msFailed then .no ccRemoteErr
  else .at_ n o

/-- The engine queue whose control line's consumer index (bytes 4-7) an offset lies in. -/
def consumerByte (o : Nat) : Bool := o < 0x400000 && 0x1FFC4 ≤ o % 0x20000 && o % 0x20000 < 0x1FFC8

/-- One byte of a buffer; the consumer indices are views of MSD.QUEUE (07 R234). -/
def bufByte (s : State) (n o : Nat) : Byte :=
  match bufPlace s n o with
  | .at_ m x =>
    if consumerByte o then (natLe 4 (fld s (rMsdQueue n (o / 0x20000)) fMsdQueueConsumer)).getD (o % 4) 0
    else memByte s.buf (m * 2 ^ 26 + x)
  | .no _ => 0

/-- Bytes of a buffer. -/
def bufRead (s : State) (n o : Nat) : Nat → List Byte
  | 0 => []
  | k + 1 => bufByte s n o :: bufRead s n (o + 1) k

/-- Bytes stored in a buffer; the consumer indices are read-only. -/
def bufStore (n o : Nat) : List Byte → State → State
  | [], s => s
  | b :: t, s =>
    let s := match bufPlace s n o with
      | .at_ m x => if consumerByte o then s else { s with buf := memWrite s.buf (m * 2 ^ 26 + x) [b] }
      | .no _ => s
    bufStore n (o + 1) t s

/-! ### The window generation map (05 R173, R177; 08 R258; 15 R452) -/

/-- A window's generation: the register, the mirror in the BRU block, and byte 64L + w of the generation map of the active
image. -/
def setWinGen (p w g : Nat) (s : State) : State :=
  let s := setFld (rClWinA p w) fClWinAGen g s
  let l := logicalOf s p
  if nLogical ≤ l then s
  else
    let k := rBruGenMirror ((64 * l + w) / 8)
    let s := setFld k ⟨8 * (w % 8), 8⟩ g s
    match s.genMap with
    | some a => (hbmWrite (a + 64 * l + w) (natLe 1 g) s).2
    | none => s

end Sys2Proof.Machine
end

