-- ==== Sys2Proof/Machine/FabCore.lean ====
section
/-! DEFINITION. The fabric's transport at the sending side (13 R371, R372, R384, R385): the device's place, the link a packet
takes, end-to-end numbers, and the retry buffer. -/
namespace Sys2Proof.Machine

/-! ### Place (13 R369) -/

/-- This device's number, group, slot, and role (0 worker, 1 manager, 2 principal). -/
def ownDev (s : State) : Nat := fld s (rFabStatus 0) fFabStatusDevice
def ownGroup (s : State) : Nat := ownDev s / 16
def ownSlot (s : State) : Nat := ownDev s % 16
def ownRole (s : State) : Nat := fld s (rFabStatus 0) fFabStatusRole
/-- Members of a group and groups of the system. -/
def groupSize (s : State) : Nat := fld s (rFabStatus 0) fFabStatusGroupSize + 1
def groupCount (s : State) : Nat := fld s (rFabStatus 0) fFabStatusGroupCount + 1

/-- A field of FAB.STATUS on both dies. -/
def setFabStatus (f : Field) (x : Nat) (s : State) : State := setFld (rFabStatus 1) f x (setFld (rFabStatus 0) f x s)

/-- The FAB.LG register of lane group `k`, and its die. -/
def lgDie (k : Nat) : Nat := k / 9
def lgReg (k : Nat) : Nat := rFabLg (k / 9) (k % 9)

/-- Link states of Table 13-9. -/
def lsAbsent : Nat := 0
def lsTraining : Nat := 1
def lsUp : Nat := 2
def lsHalf : Nat := 3
def lsFailed : Nat := 4
def lsMiswired : Nat := 5

/-- Packet types of Table 13-2, and channels of Table 13-3. -/
def ptWrite : Nat := 1
def ptSignal : Nat := 2
def ptAck : Nat := 3
def ptNak : Nat := 4
def ptColl : Nat := 5
def ptBarrier : Nat := 6
def ptRelease : Nat := 7
def ptCtrl : Nat := 8
def ptHello : Nat := 9
def ptTime : Nat := 0xA
def ptAnswer : Nat := 0xB
def vcBulk : Nat := 0
def vcColl : Nat := 1
def vcCtrl : Nat := 2

/-! ### Links (13 R371, R372, R396) -/

/-- Links that are UP or HALF toward a device. -/
def linksTo (s : State) (dev : Nat) : List FabLink :=
  s.links.filter (fun l => l.dev == dev && (l.state == lsUp || l.state == lsHalf))

/-- The next device on the way to `dst`: a member of the own group directly or by its relay, another group through the two
managers, or the principal where they share no stair link (13 R372, R396). -/
def nextDev (s : State) (dst : Nat) : Nat :=
  let via (d : Nat) : Nat := if (linksTo s d).isEmpty then tabGet (fun k => k) s.relays d else d
  if dst / 16 = ownGroup s then via dst
  else if ownRole s = 0 then via (16 * ownGroup s)
  else if (linksTo s (16 * (dst / 16))).isEmpty then via 0 else 16 * (dst / 16)

/-- The link of a slice toward a device: link number j mod L of its L links, in increasing lane group (13 R371). -/
def linkOf (s : State) (dst slice : Nat) : Option FabLink :=
  let ls := linksTo s (nextDev s dst)
  ls[slice % max 1 ls.length]?

/-- The slice of a logical cluster's traffic; everything else is slice 0 (13 R373). -/
def sliceOf (s : State) (l : Nat) : Nat :=
  ((List.range s.slices.length).find? (fun j => match s.slices[j]? with
    | some e => e.1 ≤ l && l ≤ e.2
    | none => false)).getD 0

/-! ### Sending (13 R384) -/

/-- The fields of a message in the order of Table 13-2. -/
def headArgs (h : FabHead) : List Nat :=
  [h.type, h.vc, h.src, h.slice, h.status, h.beat, h.seq, h.ack, h.addr, h.coll, h.packet, h.ids, h.cmdSeq, h.check, h.lg]

/-- Whether a die samples a packet's number (16 R481). -/
def sampled (s : State) (d seq : Nat) : Bool := seq % 2 ^ fld s (rFabTrcCtl d) fFabTrcCtlSample == 0

/-- The attribution of a packet. -/
def headIds (h : FabHead) : Ids := ⟨h.ids % 2 ^ 20, h.ids / 2 ^ 20, h.cmdSeq⟩

/-- Data flits of a packet. -/
def flitsOf (data : List Byte) : Nat := (data.length + 63) / 64

/-- Whether packets of a type are numbered. -/
def numbered? (type : Nat) : Bool := !(type == ptAck || type == ptNak || type == ptHello || type == ptTime)

/-- One packet put on its link, stamped with the die's leaf count; counted and, where sampled, recorded (13 R380, 16 R481). With
no link toward its device it stays in the retry buffer. -/
def transmit (h : FabHead) (data : List Byte) (s : State) : State :=
  match linkOf s h.dst h.slice with
  | none => s
  | some l =>
    let d := lgDie l.lg
    let h := { h with beat := leafCount s (leafFab d), lg := l.lg }
    let s := countBlk (fabBase d) (0xC0 + h.vc) (headIds h) (1 + flitsOf data) s
    let s := if numbered? h.type && sampled s d h.seq then
        traceRec (2000 + d) 0x20 l.lg (headIds h) (natLe 1 h.dst ++ natLe 1 h.vc ++ natLe 1 h.type ++ natLe 1 0 ++ natLe 4 h.seq) s
      else s
    send (if h.type = ptCtrl then .control else .fabric) h.dst (headArgs h) data s

/-- A head flit with the fields most packets leave at 0. -/
def headTo (s : State) (type vc dst slice : Nat) : FabHead :=
  ⟨type, vc, ownDev s, dst, slice, 0, 0, 0, 0, 0, 0, 0, 0, 0, 0, 0⟩

/-- Unacknowledged packets toward a destination and channel. -/
def unackedTo (s : State) (dst vc : Nat) : List FabPkt := s.unacked.filter (fun p => p.head.dst == dst && p.head.vc == vc)

/-- Whether a source may send something new: at most 262,144 packets to a destination and channel are unacknowledged, and a
die's retry buffer holds 262,144 flits (13 R384). -/
def fabRoom (s : State) (dst vc : Nat) : Bool := (unackedTo s dst vc).length < 262144

/-- A numbered packet sent: it takes the next number of its destination and channel and stays in the retry buffer until it is
acknowledged. -/
def fabSend (h : FabHead) (issuer : FabIssuer) (data : List Byte) (s : State) : State :=
  let k := 4 * h.dst + h.vc
  let q := tabGet (fun _ => 0) s.txSeq k
  let h := { h with seq := q }
  transmit h data { s with txSeq := tabSet (fun _ => 0) s.txSeq k ((q + 1) % 2 ^ 32), unacked := s.unacked ++ [⟨h, issuer, data⟩] }

/-- A control message (13 Table 13-2): its code and data in the ctrl bytes and data flits. -/
def ctrlSend (dst code : Nat) (data : List Byte) (s : State) : State :=
  fabSend (headTo s ptCtrl vcCtrl dst 0) .none (natLe 1 code ++ data) s

/-- Members of the own group by a mask of slots. -/
def slotDev (s : State) (t : Nat) : Nat := 16 * ownGroup s + t

end Sys2Proof.Machine
end

