-- ==== Sys2Proof/Machine/Stream.lean ====
section
/-! DEFINITION. Command streams: how a command of a stream launches, completes and fails (04 R117-R119, R143), late launches
(09 R287), and the controller's own commands: control flow, semaphores, signals and fences (04 R120-R129). -/
namespace Sys2Proof.Machine

/-! ### Streams -/

/-- Stream states of Table 04-11. -/
def ssIdle : Nat := 0
def ssRunning : Nat := 1
def ssWaiting : Nat := 2
def ssHalted : Nat := 3
def ssError : Nat := 4
def ssFirmware : Nat := 5

/-- What a stream holds beside its register. -/
def streamOf (s : State) (p st : Nat) : Stream := tabGet (fun _ => Stream.none) (cluster s p).streams st

/-- A stream changed. -/
def modStream (p st : Nat) (f : Stream → Stream) (s : State) : State :=
  let z := f (streamOf s p st)
  modCluster p (fun c => { c with streams := tabSet (fun _ => Stream.none) c.streams st z }) s

/-- CL.STREAM[s].STATE. -/
def streamState (s : State) (p st : Nat) : Nat := fld s (rClStream p st) fClStreamState

/-- CL.STREAM[s].PC. -/
def streamPc (s : State) (p st : Nat) : Nat := fld s (rClStream p st) fClStreamPc

/-- A stream in a state, with no wait shown. -/
def setStreamState (p st x : Nat) (s : State) : State :=
  setFlds (rClStream p st) [(fClStreamState, x), (fClStreamWaitKind, 0), (fClStreamWaitObj, 0), (fClStreamWaitValue, 0)] s

/-- CL.STREAM[s].PC moved. -/
def setPc (p st x : Nat) (s : State) : State := setFld (rClStream p st) fClStreamPc x s

/-- A stream waiting, with what for (Table 04-11); CL.STREAM_SINCE takes the beat at which it entered this wait (16 R482). -/
def setWait (p st kind obj val : Nat) (s : State) : State :=
  let r := rClStream p st
  let s1 := setFlds r [(fClStreamState, ssWaiting), (fClStreamWaitKind, kind), (fClStreamWaitObj, obj),
    (fClStreamWaitValue, val)] s
  if rd s1 r = rd s r then s else wr (rClStreamSince p st) (BitVec.ofNat 64 (leafCount s (leafCl p))) s1

/-- The next command of a stream: its words, its index, and whether it stands in a dynamic block (04 R121). -/
structure Head where
  cmd : Cmd
  idx : Nat
  inBlock : Bool
deriving DecidableEq, Repr

/-- The command at a stream's head, if its range has one left. -/
def headOf (s : State) (p st : Nat) : Option Head :=
  let z := streamOf s p st
  let pc := streamPc s p st
  match z.block with
  | c :: _ => some ⟨c, pc, true⟩
  | [] => if z.first ≤ pc ∧ pc < z.last then some ⟨cmdAt (cluster s p) pc, pc, false⟩ else none

/-- A stream past its head command: within a dynamic block the index stays at the CTL.EXEC; past its last command the stream
is HALTED (04 R112, R121). -/
def leaveHead (p st : Nat) (h : Head) (s : State) : State :=
  let s := if h.inBlock then modStream p st (fun z => { z with block := z.block.tail }) s else s
  if !(streamOf s p st).block.isEmpty then setStreamState p st ssRunning s
  else
    let s := setPc p st (h.idx + 1) s
    setStreamState p st (if h.idx + 1 < (streamOf s p st).last then ssRunning else ssHalted) s

/-! ### Semaphores (04 R123, R124) -/

/-- Semaphore `i` of a cluster. -/
def semOf (s : State) (p i : Nat) : Nat := fld s (rClSem p i) fClSemValue

/-- A semaphore set. -/
def semSet (p i v : Nat) (s : State) : State := setFld (rClSem p i) fClSemValue v s

/-- A semaphore added to, modulo 2^32. -/
def semAdd (p i n : Nat) (s : State) : State := semSet p i ((semOf s p i + n) % 2 ^ 32) s

/-- Whether semaphore value `v` has reached `w` (04 R123). -/
def semReached (v w : Nat) : Bool := decide (subMod 32 v w < 2 ^ 31)

/-! ### Completion and failure -/

/-- A command completes: done_add is applied, and with TRACE set the completion record is written (04 R119). The cluster
cycles the record carries are a free value (log 5). -/
def complete (p : Nat) (l : Launched) (s : State) : State :=
  let s := if cDoneAdd l.cmd = 0 then s else semAdd p (cDoneSem l.cmd) (cDoneAdd l.cmd) s
  let s := countDone p (cIds l.cmd) s
  if cTrace l.cmd then
    let (cyc, s) := takeFree 32 s
    traceRec p 2 l.stream (cIds l.cmd) (natLe 4 cyc ++ natLe 1 (cUnit l.cmd)) s
  else s

/-- Whether a command cause is attributed to hardware (15 R455). -/
def hwCause (cause : Nat) : Bool := cause == ccEcc || cause == ccAccParity || cause == ccRemoteErr

/-- A command fails: CL.CMD_ERR, its counter, the fault report to the BRU block and the FAIL record; the stream becomes ERROR
unless ERR_CONT is set, and then done_add is still applied (04 R119, R143). -/
def cmdFail (p : Nat) (l : Launched) (unit cause : Nat) (s : State) : State :=
  let i := cIds l.cmd
  let s := setFlds (rClCmdErr p) [(fClCmdErrOpId, i.op), (fClCmdErrLayerId, i.layer), (fClCmdErrSeq, i.seq),
    (fClCmdErrCause, cause), (fClCmdErrStream, l.stream), (fClCmdErrUnit, unit)] s
  let s := raise (rClCmdErr p) 0 (rClCmdErrCnt p) s
  let s := countCl p 0x06 i 1 s
  let s := traceRec p 3 l.stream i (natLe 1 cause ++ natLe 1 unit) s
  let s := addRecord { mkRecord (if hwCause cause then 2 else 6) 0 p 0x17 cause with
    logical := logicalOf s p, op := i.op, layer := i.layer, seq := i.seq } s
  if cErrCont l.cmd then (if cDoneAdd l.cmd = 0 then s else semAdd p (cDoneSem l.cmd) (cDoneAdd l.cmd) s)
  else setStreamState p l.stream ssError s

/-! ### Launch (04 R117; 09 R285-R288) -/

/-- A late launch recorded (09 R287). -/
def lateLaunch (p : Nat) (l : Launched) (by_ : Nat) (s : State) : State :=
  let i := cIds l.cmd
  let s := setFlds (rClEscLate p) [(fClEscLateOpId, i.op), (fClEscLateLayerId, i.layer), (fClEscLateSeq, i.seq),
    (fClEscLateStream, l.stream)] s
  let s := raise (rClEscLate p) 0 (rClEscLateCnt p) s
  let s := wr (rClEscLateBy p) (BitVec.ofNat 64 by_) s
  let s := if rdN s (rClEscLateMax p) < by_ then wr (rClEscLateMax p) (BitVec.ofNat 64 by_) s else s
  let s := countCl p 0x04 i 1 s
  let s := traceRec p 4 l.stream i (natLe 8 by_) s
  { s with lateSince := s.lateSince + 1 }

/-- The stored launch_beat of a periodic command of command memory grows by its period at each launch (08 R261). -/
def addPeriod (p : Nat) (h : Head) (s : State) : State :=
  let c := cluster s p
  let per := tabGet (fun _ => 0) c.periods h.idx
  if h.inBlock ∨ per = 0 ∨ cLaunch h.cmd ≠ 1 then s
  else setCluster p { c with cmdMem := tabSet (fun _ => 0) c.cmdMem (4 * h.idx + 1) (h.cmd.w1 + BitVec.ofNat 64 per) } s

/-- The launch of a stream's head command, if it is one of the opcodes named: the checks of R117 first, then its conditions in
order; a condition that does not hold leaves the stream waiting. `room` answers the wait kind and object of a unit without
room. `act` is what the launched command does. -/
def launch (p st : Nat) (op : Nat → Bool) (room : State → Cmd → Option (Nat × Nat)) (act : Launched → State → State)
    (s : State) : State :=
  match headOf s p st with
  | none => s
  | some h =>
    let z := streamOf s p st
    let stt := streamState s p st
    let c := h.cmd
    if !(inService s p && (stt == ssRunning || stt == ssWaiting) && op (cOpcode c)) then s
    else if z.fence.isSome then setWait p st 4 0 0 s
    else
      let leaf := leafCount s (leafCl p)
      let l : Launched := ⟨(cluster s p).nLaunch, st, h.idx, c, leaf⟩
      let cause := checkCause c st z.first z.last
      if cause ≠ 0 then cmdFail p l 0 cause (leaveHead p st h s)
      else if cLaunch c = 1 ∧ leaf < cBeat c then setWait p st 1 0 (cBeat c % 2 ^ 32) s
      else if cLaunch c = 2 ∧ semReached (semOf s p (cWaitSem c)) (cWaitValue c) = false then
        setWait p st 2 (cWaitSem c) (cWaitValue c) s
      else match room s c with
        | some (k, o) => setWait p st k o 0 s
        | none =>
          let by_ := if cLaunch c ≠ 1 ∨ fld s (rClStream p st) fClStreamWaitKind = 1 then 0 else leaf - cBeat c
          let s := modCluster p (fun k => { k with nLaunch := k.nLaunch + 1 }) s
          let s := addPeriod p h (leaveHead p st h s)
          let s := countCl p 0x03 (cIds c) 1 s
          let s := if cUnit c = 1 then countLaunch p matEvents (cIds c) s
            else if cUnit c = 2 then countLaunch p vecEvents (cIds c) s else s
          let s := if cTrace c then traceRec p 1 st (cIds c)
            (natLe 4 (min by_ 0xFFFFFFFF) ++ natLe 1 (cUnit c) ++ natLe 1 (cLaunch c) ++ natLe 2 h.idx) s else s
          let s := if cLaunch c = 1 ∧ cSlack c < by_ then lateLaunch p l by_ s else s
          act l s

/-- A unit that always has room. -/
def anyRoom (_ : State) (_ : Cmd) : Option (Nat × Nat) := none

/-- The launch of a controller command with opcode `o`. -/
def launchCtl (p st b o : Nat) (act : Launched → State → State) (s : State) : State :=
  launch p st (· == o) anyRoom act (advanceTo b s)

/-! ### Controller commands (04 R120-R129) -/

/-- CTL.NOP. -/
def execCtlNop (p st b : Nat) (s : State) : Host.Outcome State Fault Refusal :=
  onUnits p nClusters st 32 s (launchCtl p st b opNop (complete p))

/-- CTL.MARK: the 32-bit tag goes to the trace (16 R477). -/
def execCtlMark (p st b : Nat) (s : State) : Host.Outcome State Fault Refusal :=
  onUnits p nClusters st 32 s (launchCtl p st b opMark (fun l s =>
    complete p l (traceRec p 5 st (cIds l.cmd) (natLe 4 (cOpA l.cmd)) s)))

/-- A stream's next command index set; the stream runs on. -/
def jumpTo (p st i : Nat) (s : State) : State := setStreamState p st ssRunning (setPc p st i s)

/-- CTL.JUMP. -/
def execCtlJump (p st b : Nat) (s : State) : Host.Outcome State Fault Refusal :=
  onUnits p nClusters st 32 s (launchCtl p st b opJump (fun l s => complete p l (jumpTo p st (cOpA l.cmd) s)))

/-- CTL.LOOP_SET. -/
def execCtlLoopSet (p st b : Nat) (s : State) : Host.Outcome State Fault Refusal :=
  onUnits p nClusters st 32 s (launchCtl p st b opLoopSet (fun l s =>
    complete p l (modStream p st (fun z => { z with ctr := listSet z.ctr (cOpA l.cmd) (cOpB l.cmd) }) s)))

/-- CTL.LOOP: a counter at 0 stays there and does not jump. -/
def execCtlLoop (p st b : Nat) (s : State) : Host.Outcome State Fault Refusal :=
  onUnits p nClusters st 32 s (launchCtl p st b opLoop (fun l s =>
    let v := (streamOf s p st).ctr.getD (cOpA l.cmd) 0
    let s := modStream p st (fun z => { z with ctr := listSet z.ctr (cOpA l.cmd) (v - 1) }) s
    complete p l (if v - 1 = 0 then s else jumpTo p st (cOpB l.cmd) s)))

/-- The commands of a dynamic block read from the scratchpad. -/
def readBlock (s : State) (p o n : Nat) : List Cmd :=
  (List.range n).map (fun i => cmdOfBytes (spmRead s p (o + 32 * i) 32))

/-- CTL.EXEC: the whole block is read and checked before any of it runs (04 R121); while it runs the stream's PC holds the
index of the CTL.EXEC. -/
def execCtlExec (p st b : Nat) (s : State) : Host.Outcome State Fault Refusal :=
  onUnits p nClusters st 32 s (launchCtl p st b opExec (fun l s =>
    let o := cOpA l.cmd
    let n := cOpB l.cmd
    let blk := readBlock s p o n
    if !spmOpen s p o (32 * n) then cmdFail p l 0 ccUnmapped s
    else if spmBad s p o (32 * n) then cmdFail p l 0 ccEcc s
    else if !blk.all blockCmdOk then cmdFail p l 0 ccExecDenied s
    else complete p l (jumpTo p st l.idx (modStream p st (fun z => { z with block := blk }) s))))

/-- CTL.HALT. -/
def execCtlHalt (p st b : Nat) (s : State) : Host.Outcome State Fault Refusal :=
  onUnits p nClusters st 32 s (launchCtl p st b opHalt (fun l s => complete p l (setStreamState p st ssHalted s)))

/-- SEM.SET. -/
def execSemSet (p st b : Nat) (s : State) : Host.Outcome State Fault Refusal :=
  onUnits p nClusters st 32 s (launchCtl p st b opSemSet (fun l s =>
    complete p l (semSet p (cOpA l.cmd) (cOpB l.cmd) s)))

/-- SEM.ADD. -/
def execSemAdd (p st b : Nat) (s : State) : Host.Outcome State Fault Refusal :=
  onUnits p nClusters st 32 s (launchCtl p st b opSemAdd (fun l s =>
    complete p l (semAdd p (cOpA l.cmd) (cOpB l.cmd) s)))

/-- SEM.SIGNAL: the signal travels as one request and the command completes with its acknowledgement (04 R125). A signal within
the device to a vacant number is refused by the source router (06 R185). -/
def execSemSignal (p st b : Nat) (s : State) : Host.Outcome State Fault Refusal :=
  onUnits p nClusters st 32 s (launchCtl p st b opSemSignal (fun l s =>
    let a := cOpA l.cmd
    let t := bitsAt 0 10 a
    if bitAt a 16 = false ∧ held s t = false then cmdFail p l 0 ccUnmapped s
    else
      let dev := cOpC l.cmd
      if bitAt a 16 && s.lost.contains dev then cmdFail p l 0 ccRemoteErr s
      else
        let s := modCluster p (fun c => { c with signals := c.signals ++ [l] }) s
        if bitAt a 16 then
          let i := cIds l.cmd
          let h := headTo s ptSignal vcBulk dev (sliceOf s (logicalOf s p))
          fabSend { h with addr := a + cOpB l.cmd * 2 ^ 32, ids := i.op + i.layer * 2 ^ 20, cmdSeq := i.seq }
            (.signal p l.ord) [] s
        else send .signal 0xFFFF [t, bitsAt 10 6 a, cOpB l.cmd, p, l.ord] [] s))

/-- A semaphore increment applied at its target, or refused: the semaphore must be in the target's sem_remote_mask and the
cluster in service (04 R125). The status: 0, UNMAPPED, or 0x15 TARGET_REFUSED. -/
def signalApply (t sem n : Nat) (s : State) : Nat × State :=
  if held s t = false then (stUnmapped, s)
  else
    let p := physOf s t
    if inService s p && bitAt (cluster s p).semRemote sem then (stOk, semAdd p sem n s) else (ccTargetRefused, s)

/-- SEM_SIGNAL_ARRIVE: the target applies or refuses the increment and acknowledges it to the sending cluster `src` of device
`dev` with its tag. -/
def execSemSignalArrive (t sem n dev src tag : Nat) (s : State) : Host.Outcome State Fault Refusal :=
  onUnits t nLogical sem 64 s (fun s =>
    let (st, s) := signalApply t sem n s
    answerWith st [] (send .signalAck dev [src, tag, st] [] s))

/-- The acknowledgement of a signal: the sending command completes, or fails (04 R125). -/
def signalDone (p tag status : Nat) (s : State) : State :=
  match (cluster s p).signals.find? (fun l => l.ord == tag) with
  | none => s
  | some l =>
    let s := modCluster p (fun c => { c with signals := c.signals.filter (fun x => x.ord != tag) }) s
    if status = stOk then complete p l s
    else cmdFail p l 0 (if status = stUnmapped ∨ status = ccUnmapped then ccUnmapped
      else if status = ccRemoteErr then ccRemoteErr else ccTargetRefused) s

/-- SIGNAL_ACK: the sending command completes, or fails with UNMAPPED or TARGET_REFUSED (04 R125). -/
def execSignalAck (p tag status : Nat) (s : State) : Host.Outcome State Fault Refusal :=
  onUnit p nClusters s (signalDone p tag status)

/-- Whether a FENCE.REL of launch number `n` covers a launched command: scope 0 its own stream, scope 1 every stream
(04 R128). -/
def covered (f l : Launched) : Bool := l.ord < f.ord && (cOpA f.cmd % 2 == 1 || l.stream == f.stream)

/-- Whether a command that can write memory and that the fence covers is still under way (04 R128). -/
def fenceWaits (c : Cluster) (f : Launched) : Bool :=
  c.mat.any (fun j => cOpcode j.l.cmd == opMatReadout && covered f j.l) || c.vec.any (fun j => covered f j.l) ||
    c.subs.any (fun u => covered f u.l)

/-- FENCE.REL: the stream holds until the fence completes. -/
def execFenceRel (p st b : Nat) (s : State) : Host.Outcome State Fault Refusal :=
  onUnits p nClusters st 32 s (launchCtl p st b opFenceRel (fun l s =>
    modStream p st (fun z => { z with fence := some l }) s))

/-- FENCE_REL_COMPLETE: every covered write has been accepted or refused. -/
def execFenceRelComplete (p st : Nat) (s : State) : Host.Outcome State Fault Refusal :=
  onUnits p nClusters st 32 s (fun s =>
    match (streamOf s p st).fence with
    | none => s
    | some f =>
      if fenceWaits (cluster s p) f then s
      else
        let s := modStream p st (fun z => { z with fence := none }) s
        let s := if fld s (rClStream p st) fClStreamWaitKind = 4 then setStreamState p st ssRunning s else s
        complete p f s)

/-- FENCE.ACQ: it completes in the next cycle, before any later command of its stream launches (04 R129). -/
def execFenceAcq (p st b : Nat) (s : State) : Host.Outcome State Fault Refusal :=
  onUnits p nClusters st 32 s (launchCtl p st b opFenceAcq (complete p))

/-- BAD_OPCODE_COMMAND: the head command's opcode is not in Table 04-2; it fails without launching (04 R116, R117). -/
def execBadOpcodeCommand (p st b : Nat) (s : State) : Host.Outcome State Fault Refusal :=
  onUnits p nClusters st 32 s (fun s => launch p st (fun o => !isOpcode o) anyRoom (fun _ s => s) (advanceTo b s))

/-! ### Stream control and semaphores from outside (04 Tables 04-12, 04-13, 04-16) -/

/-- Status codes the CL block adds (04 R145, 05 R178). -/
def stStreamActive : Nat := 0x20
def stFwReserved : Nat := 0x21
def stWindowOpen : Nat := 0x22
def stRangeOpen : Nat := 0x23
def stRangeOff : Nat := 0x24
def stBadWindow : Nat := 0x25

/-- RESUME: a HALTED or ERROR stream goes on from an index of its range; a dynamic block is left behind (04 R121, R143). -/
def streamResume (p st pc : Nat) (s : State) : Nat × State :=
  let z := streamOf s p st
  let x := streamState s p st
  if x ≠ ssHalted ∧ x ≠ ssError then (stStreamActive, s)
  else if pc < z.first ∨ z.last ≤ pc then (stBadArg, s)
  else (stOk, jumpTo p st pc (modStream p st (fun z => { z with block := [] }) s))

/-- STOP: the stream launches nothing more and becomes HALTED; an IDLE stream stays IDLE (Table 04-12). -/
def streamStop (p st : Nat) (s : State) : State :=
  if streamState s p st = ssIdle then s
  else setStreamState p st ssHalted s

/-- A write of CL.STREAM_CTL[s] (Table 04-12). -/
def streamCtlWrite (p st v : Nat) (s : State) : Nat × State :=
  if bitAt v 63 && bitAt v 62 then (stBadArg, s)
  else if bitAt v 63 then streamResume p st (bitsAt 0 13 v) s
  else if bitAt v 62 then (stOk, streamStop p st s)
  else (stOk, s)

/-- A write of CL.SEM[i] (Table 04-13). -/
def semWrite (p i v : Nat) (s : State) : Nat × State :=
  if 56 ≤ i then (stFwReserved, s) else (stOk, semSet p i (v % 2 ^ 32) s)

end Sys2Proof.Machine
end

