-- ==== Sys2Proof/Machine/Units.lean ====
section
/-! DEFINITION. What happens to units when they leave or enter service: module status (01 Table 01-6), the loss of a cluster's
state (02 R76, 04 R126, 05 R166, R177), cluster states and the map (15 R450-R452), gallery states (14 R413, R433). -/
namespace Sys2Proof.Machine

/-- Bring-up stage in progress (01 Table 01-7). -/
def stageNow (s : State) : Nat := fld s rModStatus fModStatusStage

/-- Gallery states of Table 14-16. -/
def gsOn : Nat := 0
def gsCapped : Nat := 1
def gsParked : Nat := 2
def gsWaiting : Nat := 3
def gsWaking : Nat := 4
def gsDark : Nat := 5

/-- Vacant logical numbers. -/
def vacancies (s : State) : Nat := ((List.range nLogical).filter (fun l => !held s l)).length

/-- Spare clusters (01 Table 01-6). -/
def sparesLeft (s : State) : Nat := ((List.range nClusters).filter (fun p => clState s p == csStandby)).length

/-- Whether MOD.STATUS.DEGRADED holds (01 Table 01-6). A gallery that is DARK only because it has not been powered yet has no
cause and does not count. -/
def degradedNow (s : State) : Bool :=
  (List.range nMsd).any (fun n => msdDown s n) || (s.numbered && 0 < vacancies s) ||
    (List.range nGal).any (fun g => galState s g == gsCapped || (galState s g == gsDark && fld s (rPwrGal g) fPwrGalCause != 0)) ||
    fld s rBruFault fBruFaultRouteUncovered == 1

/-- MOD.STATUS's derived fields brought up to date. -/
def updStatus (s : State) : State :=
  setFlds rModStatus [(fModStatusDegraded, bit (degradedNow s)),
    (fModStatusLiveLogical, if s.numbered then nLogical - vacancies s else 0),
    (fModStatusSparesLeft, if s.numbered then min 64 (sparesLeft s) else 0)] s

/-! ### A cluster stops (02 R76, 04 R126, 05 R166, R177, 06 R195) -/

/-- Every window of a cluster closed at once: an OPEN one's generation grows; accepted accesses are discarded (05 R177). -/
def closeWindows (p : Nat) (s : State) : State :=
  let s := (List.range 64).foldl (fun s w =>
    let v := rd s (rClWinA p w)
    let s := if fget fClWinAState v = 1 then setWinGen p w ((fget fClWinAGen v + 1) % 256) s else s
    setFld (rClWinA p w) fClWinAState 0 s) s
  modCluster p (fun c => { c with ingress := [] }) s

/-- Every bank range OFF, without draining, and every byte lost (05 R166). -/
def dropScratchpad (p : Nat) (s : State) : State :=
  let s := { s with spm := memZero s.spm (p * 2 ^ 25) (2 ^ 25) }
  let s := wr (rClSpmRange p) 0xAAAAAA s
  modCluster p (fun c => { c with badWords := [], fixWords := [], rampUp := 0 }) s

/-- The controller's and the engines' contents lost: every slot invalid, queues and buffers empty, semaphores, loop counters,
streams and contexts cleared (02 R76, 04 R126). -/
def dropEngines (p : Nat) (s : State) : State :=
  let s := modCluster p (fun c => { Cluster.reset with
    semRemote := c.semRemote, nLaunch := c.nLaunch, badWords := c.badWords, fixWords := c.fixWords, lastGrant := c.lastGrant,
    scrubRow := c.scrubRow, spareLines := c.spareLines, ingress := c.ingress, detour := c.detour, retryRun := c.retryRun,
    rampUp := c.rampUp }) s
  let s := setFlds (rClMatStatus p) [(fClMatStatusAccValid, 0), (fClMatStatusBusy, 0), (fClMatStatusShadowBusy, 0)] s
  let s := (List.range 64).foldl (fun s i => wr (rClSem p i) 0 s) s
  let s := (List.range 64).foldl (fun s i => wr (rClDmaCtx p i) 0 s) s
  (List.range 32).foldl (fun s i => wr (rClStream p i) 0 s) s

/-- A cluster's clock stops: its state is lost, its windows close, and the refusal responder serves its LOCAL port. -/
def stopCluster (p : Nat) (s : State) : State :=
  let s := dropScratchpad p (closeWindows p (dropEngines p s))
  setFld (rClRtrStatus p) fClRtrStatusResponder 1 s

/-- A cluster's counters and trace buffer cleared (16 R468). -/
def clearWatch (p : Nat) (s : State) : State :=
  let s := (List.range 64).foldl (fun s i => wr (rClCntDone p i) 0 (wr (rClCnt p i) 0 s)) s
  let s := setTrace p Trace.empty s
  setFlds (rClTrcPtr p) [(fClTrcPtrWr, 0), (fClTrcPtrWraps, 0), (fClTrcPtrDropped, 0)] s

/-- A cluster in a state of Table 15-5; entering MOVING_IN or SERVING from any other state clears its counters and trace (16
R468) and, with its clock running, the refusal responder stands back. -/
def setClState (p x : Nat) (s : State) : State :=
  let old := clState s p
  let s := setFld (rBruCl p) fBruClState x s
  let s := if (x = csServing ∨ x = csMovingIn) ∧ old ≠ x then clearWatch p s else s
  if x = csServing ∨ x = csSuspect ∨ x = csMovingIn then setFld (rClRtrStatus p) fClRtrStatusResponder 0 s else s

/-- A cluster fenced (15 R450, R452): its state is lost and a FENCE_EVT record is left. -/
def fenceCluster (p : Nat) (s : State) : State :=
  let s := setClState p csFenced (stopCluster p s)
  traceRec p 6 0 noIds [] s

/-! ### The map of logical numbers (01 R26, 06 R185, 15 R449) -/

/-- A number held by a cluster in every router's map, and in BRU.CL. -/
def assign (l p : Nat) (s : State) : State :=
  let s := { s with lmap := tabSet (fun _ => noPhys) s.lmap l p }
  setFld (rBruCl p) fBruClLogical l s

/-- A cluster that holds no number. -/
def unassign (p : Nat) (s : State) : State :=
  let s := { s with lmap := s.lmap.filter (fun e => e.2 != p) }
  setFld (rBruCl p) fBruClLogical 0xFFFF s

/-- The position of a physical cluster in hall order (15 R449). -/
def positionOf (p : Nat) : Nat :=
  let x := p % 24
  let y := p / 24
  24 * (6 * (y / 6) + x / 4) + 4 * (y % 6) + x % 4

/-! ### Galleries (14 R413, R433) -/

/-- A gallery in a state of Table 14-16 with a cause; its six clusters' clocks stop unless it is ON or CAPPED. -/
def setGal (g st cause : Nat) (s : State) : State :=
  let s := setFlds (rPwrGal g) [(fPwrGalState, st), (fPwrGalCause, cause)] s
  updStatus s

/-- Logical numbers whose holder has failed and waits for a move: fenced clusters still in the map. -/
def toMove (s : State) : List Nat := (List.range nLogical).filter (fun l => held s l && moving s l)

/-- A gallery's six clusters declared failed: in service ones are fenced (14 R413). -/
def failGallery (g : Nat) (s : State) : State :=
  (clustersOf g).foldl (fun s p =>
    if clState s p = csBad then s else if clState s p = csStandby then setClState p csFenced (stopCluster p s)
    else fenceCluster p s) s

/-- A gallery goes DARK for a cause: GAL_DARK is set, a record is made, and its clusters have failed (14 R413). -/
def darken (g cause : Nat) (s : State) : State :=
  let s := failGallery g (setGal g gsDark cause s)
  let s := setFld rPwrFault fPwrFaultLastGal g s
  let s := raise rPwrFault 2 (rPwrFaultCnt 2) s
  let s := setFlds (rPwrGal g) [(fPwrGalILim, 0), (fPwrGalIOut, 0)] s
  addRecord (mkRecord 3 2 g 6 cause) s

/-- BRU faults that stop admission (10 Table 10-8; 07 R227, 06 R193, 08 R276). -/
def admissionStopped (s : State) : Bool :=
  fld s rBruFault fBruFaultStackLost == 1 || fld s rBruFault fBruFaultRouteUncovered == 1 ||
    fld s rBruFault fBruFaultRollbackBlocked == 1

end Sys2Proof.Machine
end

