-- ==== Sys2Proof/Machine/Spm.lean ====
section
/-! DEFINITION. The scratchpad: arbitration and accesses (05 R147-R155), error correction and scrubbing (R156-R158), bank ranges
(R160-R165), windows (R167-R177), and the mailbox services of Table 05-17. -/
namespace Sys2Proof.Machine

/-! ### Accesses (05 R149-R157) -/

/-- A requester that lost a cycle: SPM_STALL grows (05 R150). -/
def stall (p q n : Nat) (s : State) : State :=
  setFld (rClSpmStall p q) fClSpmStallCycles (fld s (rClSpmStall p q) fClSpmStallCycles + n) s

/-- An error found in a word: 1 corrected, and to be written back; 2 uncorrectable, and the word keeps failing (05 R156, R157). -/
def eccFound (p word sev : Nat) (s : State) : State :=
  if sev = 0 then s
  else
    let s := eccNote p word (sev == 2) s
    modCluster p (fun c =>
      if sev = 1 then { c with fixWords := if c.fixWords.contains word then c.fixWords else c.fixWords ++ [word] }
      else { c with badWords := if c.badWords.contains word then c.badWords else c.badWords ++ [word] }) s

/-- The requester a bank grants: the first in round-robin order after the one it granted last (05 R150); the first search
starts at requester 0 (log 26). -/
def winner (c : Cluster) (bank : Nat) (qs : List Nat) : Option Nat :=
  let last := tabGet (fun _ => 23) c.lastGrant bank
  (List.range 24).find? (fun i => qs.contains ((last + 1 + i) % 24)) |>.map (fun i => (last + 1 + i) % 24)

/-- Whether a requester may reach a range now: OPEN, or reserved by a matrix or vector command that is still running (05 R161,
R162). -/
def mayReach (s : State) (p q o n : Nat) : Bool :=
  spmOpen s p o n || (q ≤ 16 && (o + n ≤ spmSize) &&
    ((cluster s p).mat.any (fun j => rangesOf o n &&& j.ranges == rangesOf o n && j.ranges != 0) ||
     (cluster s p).vec.any (fun j => rangesOf o n &&& j.ranges == rangesOf o n && j.ranges != 0)))

/-- One access to a bank carried out (05 R154-R157): its status as a command cause, its bytes, and the state. -/
def spmDo (p q o n : Nat) (write : Bool) (data : List Byte) (s : State) : Nat × List Byte × State :=
  if !accessForm o n then (ccAlign, [], s)
  else if !mayReach s p q o n then (ccUnmapped, [], s)
  else if write then
    if spmPartBad s p o n then (ccEcc, [], s) else (0, [], spmStore p o (padTo n data) s)
  else if spmBad s p o n then (ccEcc, [], eccRead p o n s) else (0, spmRead s p o n, s)

/-- SPM_ACCESS: the requesters present their accesses to one bank; the winner's access is carried out and every other one loses
the cycle, and one more behind a read-modify-write (05 R150, R155). A router port's access is the oldest one of its ingress
buffer for that bank (R171). The answer is the winner, the latency of Table 05-2, the status and the bytes read. -/
def execSpmAccess (p : Nat) (reqs : List SpmReq) (ecc ew : Nat) (s : State) : Host.Outcome State Fault Refusal :=
  onUnit p nClusters s (fun s =>
    match reqs with
    | [] => s
    | r0 :: _ =>
      let bank := bankOfOff r0.off
      let mine := reqs.filter (fun r => bankOfOff r.off == bank && r.q < 24)
      match winner (cluster s p) bank (mine.map (·.q)) with
      | none => s
      | some q =>
        let r := (mine.find? (fun r => r.q == q)).getD r0
        let rmw := r.write && r.size == 4
        let s := modCluster p (fun c => { c with lastGrant := tabSet (fun _ => 23) c.lastGrant bank q }) s
        let losers := (List.range 24).filter (fun x => x != q && mine.any (fun r => r.q == x))
        let s := losers.foldl (fun s x => stall p x (if rmw then 2 else 1) s) s
        let s := countCl p 0x40 noIds 1 s
        let s := if losers.isEmpty then s else countCl p 0x41 noIds (if rmw then 2 else 1) s
        let s := if r.write then s else eccFound p ew ecc s
        let lat := spmLatency q bank + bit rmw
        match (cluster s p).ingress.find? (fun e => bankOfOff e.off == bank) with
        | some e =>
          if q = 23 then
            let s := modCluster p (fun c => { c with ingress := c.ingress.erase e }) s
            let (st, l, s) := spmDo p q e.off e.size e.data.isSome (e.data.getD []) s
            let st := if st = ccEcc then ccRemoteErr else st
            answerWith st [q, lat] (send .meshResp e.req [st] l s)
          else
            let (st, l, s) := spmDo p q r.off r.size r.write r.data s
            answerWith st ([q, lat] ++ l.map (·.toNat)) s
        | none =>
          if q = 23 then s
          else
            let (st, l, s) := spmDo p q r.off r.size r.write r.data s
            answerWith st ([q, lat] ++ l.map (·.toNat)) s)

/-- ECC_WRITEBACK: a corrected word is written back (05 R156). -/
def execEccWriteback (p word : Nat) (s : State) : Host.Outcome State Fault Refusal :=
  onUnit p nClusters s (modCluster p (fun c => { c with fixWords := c.fixWords.filter (· != word) }))

/-- The row a bank's scrubber reads next: the first in row order whose range is OPEN or CLOSED (05 R158). -/
def scrubNext (s : State) (p row : Nat) : Option Nat :=
  (List.range 12).map (fun i => if i = 0 then row else ((row / 256 + i) % 12) * 256) |>.find?
    (fun r => rangeState s p (r / 256) ≤ rsClosed)

/-- SCRUB_READ: one line read and checked; requesters it displaces lose the cycle; an uncorrectable word is reported through the
fault path (05 R158). -/
def execScrubRead (p bank ecc ew : Nat) (displaced : List Nat) (s : State) : Host.Outcome State Fault Refusal :=
  onUnits p nClusters bank 128 s (fun s =>
    match scrubNext s p (tabGet (fun _ => 0) (cluster s p).scrubRow bank) with
    | none => s
    | some row =>
      let word := offOf bank row / 8 + ew % 8
      let s := modCluster p (fun c => { c with scrubRow := tabSet (fun _ => 0) c.scrubRow bank ((row + 1) % 3072) }) s
      let s := (displaced.filter (· < 24)).foldl (fun s q => stall p q 1 s) s
      let s := eccFound p word ecc s
      if ecc = 2 then addRecord { mkRecord 2 0 p 0x1A 0 with logical := logicalOf s p, detail := natLe 8 (word * 8) } s else s)

/-! ### Bank ranges (05 R160-R165) -/

/-- The window's byte range: base and length in bytes. -/
def winBase (a : Word) : Nat := fget fClWinABase a * 64
def winLen (a : Word) : Nat := fget fClWinALen a * 64

/-- Window states of Table 05-12. -/
def wsClosed : Nat := 0
def wsOpen : Nat := 1
def wsClosing : Nat := 2

/-- Whether an OPEN or CLOSING window overlaps a bank range (Table 05-4). -/
def windowOver (s : State) (p k : Nat) : Bool :=
  (List.range 64).any (fun w =>
    let a := rd s (rClWinA p w)
    fget fClWinAState a != 0 && winBase a < (k + 1) * 0x200000 && k * 0x200000 < winBase a + winLen a)

/-- The outcome of a request for one range (Table 05-4): its status. -/
def rangeReq (s : State) (p op k : Nat) : Nat :=
  let st := rangeState s p k
  match op with
  | 1 => if st = rsOpen then (if windowOver s p k then stWindowOpen else stOk) else if st = rsClosed then stOk else stRangeOff
  | 2 => if st = rsOpen ∨ st = rsClosed then stOk else stRangeOff
  | 3 => if st = rsClosed ∨ st = rsOff then stOk else if st = rsOpen then stRangeOpen else stRangeOff
  | 4 => if st = rsOff then stOk else if st = rsBusy then stRangeOff else stBadArg
  | _ => stBadArg

/-- A range moved by an accepted request (Table 05-4). -/
def rangeMove (p op k : Nat) (s : State) : State :=
  let st := rangeState s p k
  match op with
  | 1 => setRange p k rsClosed s
  | 2 => setRange p k rsOpen s
  | 3 => if st = rsClosed then setRange p k rsBusy s else s
  | _ => if st = rsOff then
      modCluster p (fun c => { c with rampUp := c.rampUp ||| (1 <<< k) }) (setRange p k rsBusy s) else s

/-- A request naming ranges: refused as a whole with the status of the lowest one that refuses (05 R160; log 27), or done. -/
def rangeCtl (p op mask : Nat) (s : State) : Nat × State :=
  if op = 0 ∨ 4 < op then (stBadArg, s)
  else
    let ks := bitsOf 12 mask
    match ks.find? (fun k => rangeReq s p op k != stOk) with
    | some k => (rangeReq s p op k, s)
    | none => (stOk, ks.foldl (fun s k => rangeMove p op k s) s)

/-- Bytes of a range and the error marks on them cleared. -/
def zeroRange (p k : Nat) (s : State) : State :=
  let s := { s with spm := memZero s.spm (p * 2 ^ 25 + k * 0x200000) 0x200000 }
  let out (w : Nat) : Bool := w * 8 < k * 0x200000 || (k + 1) * 0x200000 ≤ w * 8
  modCluster p (fun c => { c with badWords := c.badWords.filter out, fixWords := c.fixWords.filter out,
                                  rampUp := c.rampUp &&& (4095 - (1 <<< k)) }) s

/-- Whether a running command reserves a range (05 R162). -/
def reserved (s : State) (p k : Nat) : Bool :=
  (cluster s p).mat.any (fun j => bitAt j.ranges k) || (cluster s p).vec.any (fun j => bitAt j.ranges k)

/-- RANGE_POWER_DOWN: a BUSY range on its way down with no access in flight and no reservation goes OFF; its bytes are lost. -/
def execRangePowerDown (p k : Nat) (s : State) : Host.Outcome State Fault Refusal :=
  onUnits p nClusters k 12 s (fun s =>
    whenS (rangeState s p k == rsBusy && !bitAt (cluster s p).rampUp k && !reserved s p k)
      (fun s => zeroRange p k (setRange p k rsOff s)) s)

/-- RANGE_ON_COMPLETE: the ramp and the zeroing end; the range is CLOSED and every byte reads 0 (05 R160, R164). -/
def execRangeOnComplete (p k : Nat) (s : State) : Host.Outcome State Fault Refusal :=
  onUnits p nClusters k 12 s (fun s =>
    whenS (rangeState s p k == rsBusy && bitAt (cluster s p).rampUp k)
      (fun s => zeroRange p k (setRange p k rsClosed s)) s)

/-! ### Windows (05 R167-R176) -/

/-- Whether a source passes a window's class bits and filter (05 R168, Table 05-5). -/
def sourceOk (a b : Word) (src : Source) : Bool :=
  bitAt (fget fClWinASrcClass a) src.cls &&
  match src.cls with
  | 0 => fget fClWinBSrcLo b ≤ src.id && src.id ≤ fget fClWinBSrcHi b
  | 1 => bitAt (fget fClWinBSrcMsd b) src.id
  | 2 => true
  | _ => (fget fClWinBDevAny b == 1 || fget fClWinBSrcDev b == src.dev) &&
      (!src.isCluster || (fget fClWinBSrcLo b ≤ src.id && src.id ≤ fget fClWinBSrcHi b))

/-- Checks 1 to 5 of R169 for an access at `off` within window `w`; `gen` is none for an access by device address (R176). The
status as a command cause, 0 where it is accepted. -/
def windowCheck (s : State) (p w : Nat) (gen : Option Nat) (src : Source) (off size : Nat) (write : Bool) : Nat :=
  let a := rd s (rClWinA p w)
  let b := rd s (rClWinB p w)
  if fget fClWinAState a ≠ wsOpen ∨ gen.any (· != fget fClWinAGen a) = true then ccWindowClosed
  else if !sourceOk a b src then ccAccess
  else if (if write then fget fClWinAWrite a else fget fClWinARead a) = 0 then ccAccess
  else if winLen a < off + size then ccAccess
  else if !accessForm (winBase a + off) size || !accessForm off size then ccAlign
  else 0

/-- A refusal recorded and counted (05 R170, Table 05-16). -/
def winNack (p : Nat) (src : Source) (w gen cause : Nat) (byAddr : Bool) (s : State) : State :=
  let s := setFlds (rClWinNack p) [(fClWinNackSrcId, if src.cls = 2 then 0 else src.id), (fClWinNackSrcClass, src.cls),
    (fClWinNackSrcDev, if src.cls = 3 then src.dev else 0), (fClWinNackWin, if byAddr then 0 else w),
    (fClWinNackGenSeen, if byAddr then 0 else gen), (fClWinNackByAddr, bit byAddr), (fClWinNackCause, cause)] s
  countCl p 0x53 noIds 1 (raise (rClWinNack p) 0 (rClWinNackCnt p) s)

/-- The ingress buffer's accepted accesses carried out in order, as they always are (05 R171). -/
def drainIngress (p : Nat) (s : State) : State :=
  let es := (cluster s p).ingress
  es.foldl (fun s e =>
    let (st, l, s) := spmDo p 23 e.off e.size e.data.isSome (e.data.getD []) s
    send .meshResp e.req [if st = ccEcc then ccRemoteErr else st] l s)
    (modCluster p (fun c => { c with ingress := [] }) s)

/-- A window access carried through at once, for the composite transfers of the part's own engines: checked under R169 and
landed behind every access accepted before it. Its status, bytes, and the state. -/
def windowDo (src : Source) (l w gen off size : Nat) (write : Bool) (data : List Byte) (s : State) :
    Nat × List Byte × State :=
  if !held s l then (ccUnmapped, [], s)
  else
    let p := physOf s l
    let c := windowCheck s p w (some gen) src off size write
    if c ≠ 0 then (c, [], winNack p src w gen c false s)
    else
      let (st, bytes, s) := spmDo p 23 (winBase (rd s (rClWinA p w)) + off) size write data (drainIngress p s)
      (if st = ccEcc then ccRemoteErr else st, bytes, s)

/-- WINDOW_ACCESS: an access arrives at the router port of the holder of `l` and is refused, or accepted into the ingress
buffer of 32 (05 R169-R171, R174). With the buffer full the access waits (06 R182). -/
def execWindowAccess (src : Source) (tag l w gen off size : Nat) (write : Bool) (data : List Byte) (s : State) :
    Host.Outcome State Fault Refusal :=
  onUnits l nLogical w 64 s (fun s =>
    if !held s l then answerWith ccUnmapped [] (send .meshResp tag [ccUnmapped] [] s)
    else
      let p := physOf s l
      let c := windowCheck s p w (some gen) src off size write
      if c ≠ 0 then answerWith c [] (send .meshResp tag [c] [] (winNack p src w gen c false s))
      else if 32 ≤ (cluster s p).ingress.length then s
      else
        let e : Ingress := ⟨tag, w, winBase (rd s (rClWinA p w)) + off, size, if write then some (padTo size data) else none⟩
        answerWith stOk [] (modCluster p (fun k => { k with ingress := k.ingress ++ [e] }) s))

/-- The first window that admits an access by device address (05 R176), and the cause where none does: ALIGN where only the
access's form keeps it out, else ACCESS. -/
def addrWindow (s : State) (p : Nat) (src : Source) (o size : Nat) (write : Bool) : Option Nat × Nat :=
  let chk (w : Nat) : Nat :=
    let b := winBase (rd s (rClWinA p w))
    if o < b then ccAccess else windowCheck s p w none src (o - b) size write
  match (List.range 64).find? (fun w => chk w == 0) with
  | some w => (some w, 0)
  | none => (none, if (List.range 64).any (fun w => chk w == ccAlign) then ccAlign else ccAccess)

/-- An access by device address to a scratchpad, checked (05 R176, 06 R195, 00 R5): its cause, or the window it goes through. -/
def addrCheck (s : State) (src : Source) (l o size : Nat) (write : Bool) : Option Nat × Nat :=
  if !held s l ∨ spmSize < o + size then (none, ccUnmapped)
  else
    let p := physOf s l
    if !inService s p then (none, ccAccess)
    else if !spmOpen s p o size then (none, ccUnmapped)
    else if src.cls ≠ 2 then (none, ccAccess)
    else addrWindow s p src o size write

/-- SPM_ADDR_ACCESS. -/
def execSpmAddrAccess (src : Source) (tag l off size : Nat) (write : Bool) (data : List Byte) (s : State) :
    Host.Outcome State Fault Refusal :=
  onUnit l nLogical s (fun s =>
    if moving s l then s
    else
      let p := physOf s l
      match addrCheck s src l off size write with
      | (none, c) =>
        let s := if c = ccUnmapped then s else winNack p src 0 0 c true s
        answerWith c [] (send .meshResp tag [c] [] s)
      | (some w, _) =>
        if 32 ≤ (cluster s p).ingress.length then s
        else answerWith stOk [] (modCluster p (fun k => { k with
          ingress := k.ingress ++ [⟨tag, w, off, size, if write then some (padTo size data) else none⟩] }) s))

/-- An access by device address carried through at once. -/
def addrDo (src : Source) (l o size : Nat) (write : Bool) (data : List Byte) (s : State) : Nat × List Byte × State :=
  match addrCheck s src l o size write with
  | (none, c) => (c, [], if c = ccUnmapped then s else winNack (physOf s l) src 0 0 c true s)
  | (some _, _) =>
    let p := physOf s l
    let (st, bytes, s) := spmDo p 23 o size write data (drainIngress p s)
    (if st = ccEcc then ccRemoteErr else st, bytes, s)

/-- The checks of opening a window with given registers (05 R172). -/
def windowFits (s : State) (p : Nat) (a b : Word) : Bool :=
  let base := fget fClWinABase a
  let len := fget fClWinALen a
  1 ≤ len && base + len ≤ 393216 && fget fClWinBSrcLo b ≤ fget fClWinBSrcHi b && spmOpen s p (64 * base) (64 * len)

/-- The status for which a window cannot open now, 0 where it can. -/
def openStatus (s : State) (p w : Nat) : Nat :=
  if fld s (rClWinA p w) fClWinAState ≠ wsClosed then stWindowOpen
  else if !windowFits s p (rd s (rClWinA p w)) (rd s (rClWinB p w)) then stBadWindow else stOk

/-- A write of CL.WIN_OPEN: all the windows named open, or none with the status of the lowest that fails (Table 05-14). -/
def winOpenWrite (p mask : Nat) (s : State) : Nat × State :=
  let ws := bitsOf 64 mask
  match ws.find? (fun w => openStatus s p w != stOk) with
  | some w => (openStatus s p w, s)
  | none => (stOk, ws.foldl (fun s w => setFld (rClWinA p w) fClWinAState wsOpen s) s)

/-- A window closed (05 R173): its generation grows and it is CLOSING. -/
def closeWindow (p w : Nat) (s : State) : State :=
  if fld s (rClWinA p w) fClWinAState ≠ wsOpen then s
  else
    let s := setWinGen p w ((fld s (rClWinA p w) fClWinAGen + 1) % 256) s
    setFld (rClWinA p w) fClWinAState wsClosing s

/-- A write of CL.WIN_CLOSE (Table 05-15). -/
def winCloseWrite (p mask : Nat) (s : State) : Nat × State :=
  (stOk, (bitsOf 64 mask).foldl (fun s w => closeWindow p w s) s)

/-- WINDOW_DRAINED: the last accepted access of a CLOSING window has completed (05 R173). -/
def execWindowDrained (p w : Nat) (s : State) : Host.Outcome State Fault Refusal :=
  onUnits p nClusters w 64 s (fun s =>
    whenS (fld s (rClWinA p w) fClWinAState == wsClosing && !(cluster s p).ingress.any (fun e => e.win == w))
      (setFld (rClWinA p w) fClWinAState wsClosed) s)

/-! ### Services (05 Table 05-17) -/

/-- The writable fields of CL.WIN_A and CL.WIN_B. -/
def winARw : Word := 0x003F003FFFFFFFFF
def winBRw : Word := 0xFFFFFF8003FF03FF

/-- WIN_OPEN. -/
def winOpenService (p w a1 a2 : Nat) (s : State) : Reply × State :=
  if 64 ≤ w then (.done stBadArg [], s)
  else
    let a := (rd s (rClWinA p w) &&& ~~~winARw) ||| (BitVec.ofNat 64 a1 &&& winARw)
    let b := BitVec.ofNat 64 a2 &&& winBRw
    if fld s (rClWinA p w) fClWinAState ≠ wsClosed then (.done stWindowOpen [], s)
    else if !windowFits s p a b then (.done stBadWindow [], s)
    else (ok [fget fClWinAGen a], wr (rClWinA p w) (fset fClWinAState a wsOpen) (wr (rClWinB p w) b s))

def execWinOpen (rid l a0 a1 a2 : Nat) (s : State) : Host.Outcome State Fault Refusal :=
  onUnit l nLogical s (fun s => service (mbCl l) 0x0501 rid [a0, a1, a2] (winOpenService (physOf s l) a0 a1 a2) s)

/-- Where a WIN_CLOSE call stands: done once the window is CLOSED (05 R178, R179). -/
def winClosePoll (p w : Nat) (s : State) : Option (Nat × List Nat) :=
  if fld s (rClWinA p w) fClWinAState = wsClosed then some (stOk, [fld s (rClWinA p w) fClWinAGen]) else none

/-- WIN_CLOSE. -/
def execWinClose (rid l a0 : Nat) (s : State) : Host.Outcome State Fault Refusal :=
  onUnit l nLogical s (fun s =>
    let p := physOf s l
    service (mbCl l) 0x0502 rid [a0] (fun s =>
      if 64 ≤ a0 then (.done stBadArg [], s)
      else
        let s := closeWindow p a0 s
        match winClosePoll p a0 s with
        | some (st, r) => (.done st r, s)
        | none => (.runs [], s)) s)

/-- WIN_STATUS. -/
def execWinStatus (rid l a0 : Nat) (s : State) : Host.Outcome State Fault Refusal :=
  onUnit l nLogical s (fun s =>
    let p := physOf s l
    service (mbCl l) 0x0503 rid [a0] (fun s =>
      if 64 ≤ a0 then (.done stBadArg [], s) else (ok [rdN s (rClWinA p a0), rdN s (rClWinB p a0)], s)) s)

/-- Where a RANGE_SET call stands: done when no named range is BUSY. -/
def rangeSetPoll (p mask : Nat) (s : State) : Option (Nat × List Nat) :=
  if (bitsOf 12 mask).any (fun k => rangeState s p k == rsBusy) then none else some (stOk, [rdN s (rClSpmRange p)])

/-- RANGE_SET. -/
def execRangeSet (rid l a0 a1 : Nat) (s : State) : Host.Outcome State Fault Refusal :=
  onUnit l nLogical s (fun s =>
    let p := physOf s l
    service (mbCl l) 0x0504 rid [a0, a1] (fun s =>
      if 4096 ≤ a1 then (.done stBadArg [], s)
      else
        let (st, s) := rangeCtl p a0 a1 s
        if st ≠ stOk then (.done st [], s)
        else match rangeSetPoll p a1 s with
          | some (st, r) => (.done st r, s)
          | none => (.runs [], s)) s)

/-- ECC_READ. -/
def execEccRead (rid l : Nat) (s : State) : Host.Outcome State Fault Refusal :=
  onUnit l nLogical s (fun s =>
    let p := physOf s l
    serviceRead (mbCl l) 0x0505 rid [] (fun s => [rdN s (rClSpmEcc p), rdN s (rClSpmEccCnt p 0), rdN s (rClSpmEccCnt p 1)]) s)

end Sys2Proof.Machine
end

