-- ==== Sys2Proof/Machine/Mesh.lean ====
section
/-! DEFINITION. The mesh: routes and detours (06 R185-R190), link retry and failure (R191), requests without a response (R192),
the refusal responder (R195), landings (R198), map changes (R185), and the distance table (R200-R202). -/
namespace Sys2Proof.Machine

/-! ### Routes (06 R185-R188) -/

/-- Column and row of a physical serial. -/
def xOf (p : Nat) : Nat := p % 24
def yOf (p : Nat) : Nat := p / 24

/-- `v` held within `a` and `b`. -/
def clampN (v a b : Nat) : Nat := if v < a then a else if b < v then b else v

/-- The router that a destination column of Table 06-5 is reached through: a logical cluster's own, or the outward port of
Table 06-3. -/
def portRouter (s : State) (p d : Nat) : Nat :=
  let x := xOf p
  let y := yOf p
  let at_ (x y : Nat) : Nat := 24 * y + x
  if d < 800 then physOf s d
  else
    let n := d - 800
    if n < 4 then at_ (clampN x (6 * n) (6 * n + 5)) 0
    else if n < 8 then at_ 23 (clampN y (9 * (n - 4)) (9 * (n - 4) + 8))
    else if n < 12 then at_ (clampN x (6 * (n - 8)) (6 * (n - 8) + 5)) 35
    else if n < 16 then at_ 0 (clampN y (9 * (n - 12)) (9 * (n - 12) + 8))
    else if n = 16 then at_ 0 (clampN y 18 35)
    else if n = 17 then at_ 0 (clampN y 0 17)
    else at_ 23 (clampN y 9 26)

/-- Whether a router has a port (Table 06-1). -/
def portPresent (p port : Nat) : Bool :=
  match port with
  | 0 => yOf p != 0 | 1 => xOf p != 23 | 2 => yOf p != 35 | 3 => xOf p != 0 | 4 => true
  | 5 => yOf p == 0 || yOf p == 35 | 6 => xOf p == 0 || xOf p == 23 | _ => false

/-- The router at the other end of ports N, E, S and W. -/
def neighbour (p port : Nat) : Nat :=
  match port with
  | 0 => p - 24 | 1 => p + 1 | 2 => p + 24 | _ => p - 1

/-- The hall of a physical serial. -/
def hallOf (p : Nat) : Nat := galleryOf p / 4

/-- The output port of the first detour entry that matches a destination router (06 R188). -/
def detourPort (s : State) (p q vc : Nat) : Option Nat :=
  ((cluster s p).detour.find? (fun e =>
    let v := e.2
    fget fClRtrDetourValid v == 1 && bitAt (fget fClRtrDetourVcMask v) vc &&
    fget fClRtrDetourXLo v ≤ xOf q && xOf q ≤ fget fClRtrDetourXHi v &&
    fget fClRtrDetourYLo v ≤ yOf q && yOf q ≤ fget fClRtrDetourYHi v)).map (fun e => fget fClRtrDetourOutPort e.2)

/-- The port of dimension order: along x, then along y (06 R186). -/
def orderPort (p q : Nat) : Nat :=
  if xOf p < xOf q then 1 else if xOf q < xOf p then 3 else if yOf p < yOf q then 2 else 0

/-- The routers a packet passes from `p` to `q`, the first one apart, and whether a detour entry was used. -/
def routeFrom (s : State) (q vc : Nat) : Nat → Nat → List Nat × Bool
  | 0, _ => ([], false)
  | fuel + 1, p =>
    if p = q then ([], false)
    else
      let d := detourPort s p q vc
      let n := neighbour p (d.getD (orderPort p q))
      let (l, u) := routeFrom s q vc fuel n
      (n :: l, u || d.isSome)

/-- The route between two routers. -/
def route (s : State) (p q vc : Nat) : List Nat × Bool := routeFrom s q vc 900 p

/-- Landings among the links of a route. -/
def landingsOf : Nat → List Nat → Nat
  | _, [] => 0
  | p, n :: t => (if hallOf p = hallOf n then 0 else 1) + landingsOf n t

/-! ### Packets (06 R181, R185, R192) -/

/-- MESH_PACKET_INJECT: the source router of cluster `p` turns the destination into a router, or refuses a vacant number; the
flits pass the routers of their route. A request waits for the response with its tag, and a response ends that wait. The
answer is the router the packet leaves the mesh at. -/
def execMeshPacketInject (p dst vc flits tag : Nat) (s : State) : Host.Outcome State Fault Refusal :=
  onUnits p nClusters dst 819 s (fun s =>
    if dst < 800 ∧ held s dst = false then answerWith stUnmapped [] s
    else
      let q := portRouter s p dst
      let (path, _) := route s p q vc
      let s := path.dropLast.foldl (fun s r => countCl r 0x51 noIds flits s) s
      let s := if dst < 800 then countCl q 0x50 noIds flits s else s
      let s := if vc = 0 then { s with meshReqs := s.meshReqs ++ [⟨p, tag, dst⟩] }
        else if vc = 1 then { s with meshReqs := s.meshReqs.filter (fun r => !(r.src == q && r.tag == tag)) } else s
      answerWith stOk [q] s)

/-- A request of cluster `p` that fails with REMOTE_ERR: a signal's command fails (04 R125, 06 R192). -/
def requestLost (p tag : Nat) (s : State) : State :=
  let s := { s with meshReqs := s.meshReqs.filter (fun r => !(r.src == p && r.tag == tag)) }
  let s := answerWith ccRemoteErr [] s
  match (cluster s p).signals.find? (fun l => l.ord == tag) with
  | none => s
  | some l => cmdFail p l 0 ccRemoteErr (modCluster p (fun c => { c with signals := c.signals.filter (fun x => x.ord != tag) }) s)

/-- MESH_REQUEST_TIMEOUT: a request without a response for 100 µs. -/
def execMeshRequestTimeout (p tag : Nat) (s : State) : Host.Outcome State Fault Refusal :=
  onUnit p nClusters s (fun s => whenS (s.meshReqs.any (fun r => r.src == p && r.tag == tag)) (requestLost p tag) s)

/-- RESPONDER_REFUSE: the responder answers a window access, an access by device address, or a SEM.SIGNAL (06 R195). -/
def execResponderRefuse (p kind tag : Nat) (s : State) : Host.Outcome State Fault Refusal :=
  onUnit p nClusters s (fun s =>
    whenS (fld s (rClRtrStatus p) fClRtrStatusResponder == 1) (fun s =>
      let st := if kind = 0 then ccWindowClosed else if kind = 1 then ccAccess else ccTargetRefused
      answerWith st [] (send .meshResp tag [st] [] s)) s)

/-! ### Links (06 R191) -/

/-- A router's error flag set for a port (Table 06-9). -/
def rtrErr (p port b : Nat) (s : State) : State :=
  raise (rClRtrErr p) b (rClRtrErrCnt p b) (setFld (rClRtrErr p) fClRtrErrLastPort port s)

/-- A port DOWN. -/
def portDown (p port : Nat) (s : State) : State :=
  let s := setFld (rClRtrPort p port) fClRtrPortState 1 s
  setFld (rClRtrStatus p) ⟨port, 1⟩ 0 s

/-- The router at the west or north end of a link, whose fault a failed link is handled as (06 R192). -/
def linkOwner (p port : Nat) : Nat := if port = 0 ∨ port = 3 then neighbour p port else p

/-- A fault report sent up the service stair (06 R204): unit kind and unit of Table 15-8, cause of Table 15-9. -/
def stairReport (kind unit cause : Nat) (s : State) : State := send .stair 63 [7, kind, unit, cause, s.beat] [] s

/-- A link declared failed: both ports DOWN, LINK_FAIL, and a fault report (06 R191). -/
def linkFail (p port : Nat) (s : State) : State :=
  let s := rtrErr p port 1 (portDown p port s)
  let s := if port < 4 then portDown (neighbour p port) ((port + 2) % 4) s else s
  stairReport 1 (linkOwner p port) 5 s

/-- MESH_FLIT_RETRY: a flit sent from a port fails its CRC; `again` says it is the same flit as the last failure. The 16th
successive failure of one flit fails the link. -/
def execMeshFlitRetry (p port : Nat) (again : Bool) (s : State) : Host.Outcome State Fault Refusal :=
  onUnits p nClusters port 7 s (fun s =>
    let n := if again then tabGet (fun _ => 0) (cluster s p).retryRun port + 1 else 1
    let s := rtrErr p port 0 s
    let s := setFld (rClRtrPort p port) fClRtrPortRetries (min 0xFFFF (fld s (rClRtrPort p port) fClRtrPortRetries + 1)) s
    let s := modCluster p (fun c => { c with retryRun := tabSet (fun _ => 0) c.retryRun port (if n < 16 then n else 0) }) s
    if n < 16 then s else linkFail p port s)

/-! ### Landings (06 R198) -/

/-- LANDING_HANDSHAKE_ENTER: the offset has left −3 to +3. -/
def execLandingHandshakeEnter (p port offset : Nat) (s : State) : Host.Outcome State Fault Refusal :=
  onUnits p nClusters port 7 s (fun s =>
    let r := rClRtrPort p port
    let o := toSigned 4 offset
    whenS (fld s r fClRtrPortLanding == 1 && fld s r fClRtrPortMode == 0 && (o < -3 || 3 < o)) (fun s =>
      rtrErr p port 2 (setFlds r [(fClRtrPortMode, 1), (fClRtrPortOffset, offset),
        (fClRtrPortHsEntries, min 0xFFFFFFFF (fld s r fClRtrPortHsEntries + 1))] s)) s)

/-- LANDING_RECENTRE: the offset has stayed within −1 to +1 for 4,096 cycles and the FIFO holds 4 entries. -/
def execLandingRecentre (p port offset : Nat) (s : State) : Host.Outcome State Fault Refusal :=
  onUnits p nClusters port 7 s (fun s =>
    let r := rClRtrPort p port
    let o := toSigned 4 offset
    whenS (fld s r fClRtrPortMode == 1 && -1 ≤ o && o ≤ 1)
      (setFlds r [(fClRtrPortMode, 0), (fClRtrPortOffset, offset)]) s)

/-! ### Detour tables (06 R188, R190, R207) -/

/-- A write of CL.RTR_DETOUR[e]: the shadow entry, or BAD_ARG for an output port that is absent or LOCAL (Table 06-10). -/
def detourWrite (p e v : Nat) (s : State) : Nat × State :=
  let w := BitVec.ofNat 64 v &&& 0xFF00FFFFFC000000
  let o := fget fClRtrDetourOutPort w
  if o = 4 ∨ portPresent p o = false then (stBadArg, s) else (stOk, wr (rClRtrDetour p e) w s)

/-- A write of CL.RTR_COMMIT arms, or disarms, a commit (Table 06-11). -/
def commitWrite (p v : Nat) (s : State) : Nat × State := (stOk, wr (rClRtrCommit p) (BitVec.ofNat 64 v) s)

/-- A router's shadow table made active (06 R190). -/
def commitDetour (p : Nat) (s : State) : State :=
  let es := ((List.range 32).map (fun e => (e, rd s (rClRtrDetour p e)))).filter (fun e => e.2 != 0)
  let s := modCluster p (fun c => { c with detour := es }) s
  let n := (es.filter (fun e => fget fClRtrDetourValid e.2 == 1)).length
  setFld (rClRtrCommit p) fClRtrCommitArmed 0 (setFld (rClRtrStatus p) fClRtrStatusDetourUsed n s)

/-- RTR_COMMIT: the armed beat is reached. -/
def execRtrCommit (p b : Nat) (s : State) : Host.Outcome State Fault Refusal :=
  onUnit p nClusters s (fun s =>
    let s := advanceTo b s
    whenS (fld s (rClRtrCommit p) fClRtrCommitArmed == 1 &&
      fld s (rClRtrCommit p) fClRtrCommitBeat ≤ leafCount s (leafCl p) % 2 ^ 63) (commitDetour p) s)

/-! ### The map (06 R185; 15 R452) -/

/-- A map change takes effect in every router: the number goes to its new holder, which serves from then on, or is vacant. -/
def applyMapChange (m : MapChange) (s : State) : State :=
  let s := if held s m.logical then unassign (physOf s m.logical) s else s
  let s := if m.holder < nClusters then
      setClState m.holder csServing (assign m.logical m.holder s)
    else s
  updStatus s

/-- MAP_CHANGE: the map changes installed for a beat that is reached. -/
def execMapChange (b : Nat) (s : State) : Host.Outcome State Fault Refusal :=
  .next (
    let s := advanceTo b s
    let now := s.mapChanges.filter (fun m => m.beat ≤ s.beat)
    now.foldl (fun s m => applyMapChange m s) { s with mapChanges := s.mapChanges.filter (fun m => !(m.beat ≤ s.beat)) })

/-! ### The distance table (06 R200-R202) -/

/-- The entry from a logical cluster to a column (06 R201). -/
def distEntry (s : State) (l d : Nat) : Nat :=
  if held s l = false ∨ (d < 800 ∧ held s d = false) then 2 ^ 13
  else if l = d then 0
  else
    let p := physOf s l
    let (path, det) := route s p (portRouter s p d) 0
    let hops := path.length
    let lands := landingsOf p path
    let lat := 3 + 2 * hops + 4 * lands + (if d < 800 then 3 else 14)
    hops % 256 + lands % 16 * 256 + bit det * 4096 + lat % 65536 * 65536

/-- The bytes of a table (Table 06-5). -/
def distBytes (s : State) (gen : Nat) : List Byte :=
  natLe 4 0x54444B58 ++ natLe 2 1 ++ natLe 2 800 ++ natLe 2 819 ++ natLe 6 0 ++ natLe 8 gen ++ natLe 8 s.beat ++ natLe 32 0 ++
    ((List.range 800).map (fun l => ((List.range 819).map (fun d => natLe 4 (distEntry s l d))).flatten)).flatten

/-- The copy not in force is written, and BRU.DIST then names it (06 R202). The first publication is generation 1 in copy 0
(Table 06-12). -/
def publishDist (s : State) : State :=
  let gen := (fld s rBruDist fBruDistGen + 1) % 65536
  let copy := if fld s rBruDist fBruDistGen = 0 then 0 else 1 - fld s rBruDist fBruDistCopy
  let s := bufStore 15 (0x3800000 + copy * 0x300000) (distBytes s gen) s
  setFlds rBruDist [(fBruDistGen, gen), (fBruDistCopy, copy)] s

/-- DIST_PUBLISH. -/
def execDistPublish (s : State) : Host.Outcome State Fault Refusal := .next (publishDist s)

end Sys2Proof.Machine
end

