-- ==== Sys2Proof/Machine/Home.lean ====
section
/-! DEFINITION. Serica Link's agents: ports and messages (12 R343, R356), the home agent with its snoop filter (R349-R352), the
companion-line cache (R353), and the part's own requests (R346). -/
namespace Sys2Proof.Machine

/-! ### Ports and messages -/

/-- Port states of Table 12-10. -/
def psDown : Nat := 0
def psTraining : Nat := 1
def psInit : Nat := 2
def psUp : Nat := 3
def psDetaching : Nat := 4
def psDetached : Nat := 5

def portState (s : State) (p : Nat) : Nat := fld s (rSerPort p) fSerPortState
def bonded (s : State) (p : Nat) : Bool := fld s (rSerPort p) fSerPortBonded == 1
/-- The agent of a port: a bond is one agent, agent 0 (12 R350, R356). -/
def agentOf (s : State) (p : Nat) : Nat := if bonded s p then 0 else p

/-- The port toward an agent for a line: of a bond with both ports UP, by address bits 12 and 6 (12 R356). -/
def portFor (s : State) (agent line : Nat) : Nat :=
  if bonded s agent then
    if portState s 0 = psUp ∧ portState s 1 = psUp then (line / 64 + line) % 2
    else if portState s 0 = psUp then 0 else 1
  else agent

/-- The port of a request to companion memory: the bond, else the lowest port that is UP (log 28). -/
def companionPort (s : State) (line : Nat) : Nat :=
  if bonded s 0 then portFor s 0 line else if portState s 0 = psUp then 0 else 1

/-- Whether some port is UP. -/
def anyPortUp (s : State) : Bool := portState s 0 == psUp || portState s 1 == psUp

/-- Flags of Table 12-11. -/
def serErr (p b : Nat) (s : State) : State := raise (rSerPortErr p) b (rSerPortErrCnt (6 * p + b)) s
def seLinkDown : Nat := 0
def seReplay : Nat := 1
def seProto : Nat := 2
def seLost : Nat := 3
def seTimeout : Nat := 4
def seInit : Nat := 5

/-- Whether a port carries messages: it is UP, or DETACHING and not quiet yet (12 R341, R359). -/
def portLive (s : State) (p : Nat) : Bool := portState s p == psUp || portState s p == psDetaching

/-- A message sent on a port: class, opcode, tag, aux, state, line, and its data (12 Tables 12-3, 12-4). A port that is not up
carries none. -/
def serSend (port cls op tag aux state line : Nat) (data : List Byte) (s : State) : State :=
  if portLive s port then send .serica port [cls, op, tag, aux, state, line] data s else s

/-- An ERR answer (12 R355). -/
def serErrAnswer (port tag status : Nat) (s : State) : State :=
  answerWith status [] (serSend port 1 0x22 tag status 0 0 [] s)

/-- ERR status codes of Table 12-6. -/
def erAccess : Nat := 0x60
def erDataErr : Nat := 0x61
def erTagBusy : Nat := 0x62
def erNotCacheable : Nat := 0x63
def erTimeout : Nat := 0x64

/-! ### The coherent region and the filter (12 R349, R350) -/

/-- Whether an HBM line lies in the coherent region. -/
def coherent (s : State) (line : Nat) : Bool :=
  let v := rd s rSerCoh
  let c := line / 1024
  fget fSerCohEn v == 1 && fget fSerCohBase v ≤ c && c ≤ fget fSerCohBase v + fget fSerCohSizeM1 v

/-- A line's filter entry. -/
def held? (s : State) (line : Nat) : Option FilterEntry := s.filter.find? (fun e => e.line == line)

/-- SER.PORT.FILTER_HELD of both ports, in units of 16 entries. -/
def updFilterHeld (s : State) : State :=
  [0, 1].foldl (fun s p => setFld (rSerPort p) fSerPortFilterHeld
    ((s.filter.filter (fun e => e.holders.contains (agentOf s p))).length / 16) s) s

/-- A line's entry replaced, as the most recently used one; with no holder it is dropped. -/
def setFilter (line : Nat) (excl : Bool) (holders : List Nat) (s : State) : State :=
  let rest := s.filter.filter (fun e => e.line != line)
  updFilterHeld { s with filter := if holders.isEmpty then rest else ⟨line, excl, holders⟩ :: rest }

/-- The entry a new one of a full set of 16 ways displaces: the least recently used (12 R350). -/
def victimOf (s : State) (line : Nat) : Option FilterEntry :=
  let set := s.filter.filter (fun e => e.line % 65536 == line % 65536)
  if set.length < 16 ∨ (held? s line).isSome then none else set.getLast?

/-- HBM bytes of a line, or zeros of a line that is lost. -/
def homeRead (line : Nat) (s : State) : Option (List Byte) × State := hbmRead (line * 64) 64 s

/-! ### The home agent (12 R351, R352) -/

/-- Opcodes of Table 12-4. -/
def soRdShared : Nat := 1
def soRdOwn : Nat := 2
def soUpgrade : Nat := 3
def soEvictDirty : Nat := 4
def soEvictClean : Nat := 5
def soRdNc : Nat := 6
def soWrLine : Nat := 7
def soWrPart : Nat := 8
def soEvt : Nat := 9
def soPartRead : Nat := 0x80
def soPartWrite : Nat := 0x81
def soVictim : Nat := 0x82
/-- A line snooped out of one agent (12 R359): `off` names the agent. -/
def soDrop : Nat := 0x83
/-- A companion's write of the bytes of a line that a mask names (12 R345): `off` is the mask, `data` the whole line. -/
def soMask : Nat := 0x84

/-- A line with the bytes of a mask replaced. -/
def merge (mask : Nat) (new old : List Byte) : List Byte :=
  (List.range 64).map (fun i => if bitAt mask i then new.getD i 0 else old.getD i 0)

/-- Bytes of a mask of line `line` of HBM written: the status. -/
def hbmMask (line mask : Nat) (data : List Byte) (s : State) : Nat × State :=
  if mask = 2 ^ 64 - 1 then hbmWrite (line * 64) (padTo 64 data) s
  else if mask = 0 then (0, s)
  else match hbmRead (line * 64) 64 s with
    | (none, s) => (ccRemoteErr, s)
    | (some old, s) => hbmWrite (line * 64) (merge mask data old) s

/-- The agents a request snoops, and whether they may keep a shared copy (Table 12-5). -/
def snoopsOf (s : State) (t : HomeTx) : List Nat × Bool :=
  match held? s t.line with
  | none => ([], false)
  | some e =>
    let part := 0x80 ≤ t.op
    let ys := if part then e.holders else e.holders.filter (· != agentOf s t.port)
    if t.op = soRdShared ∨ t.op = soPartRead then (if e.excl then ys else [], true)
    else if t.op = soEvictDirty ∨ t.op = soEvictClean then ([], false)
    else if t.op = soDrop then (ys.filter (· == t.off), false)
    else (ys, false)

/-- A request taken up: its snoops go out (SNP_SHARE or SNP_INV). -/
def homeStart (t : HomeTx) (s : State) : State :=
  let (ys, share) := snoopsOf s t
  let listed := match held? s t.line with
    | some e => e.holders.contains (agentOf s t.port)
    | none => false
  let t' := { t with started := true, share := share && !ys.isEmpty, pend := ys, listed := listed }
  let s := { s with home := s.home.map (fun x => if x == t then t' else x) }
  ys.foldl (fun s y => serSend (portFor s y t.line) 2 (if share then 0x31 else 0x30) t.tag 0 0 t.line [] s) s

/-- An answered request's response: CMP_DATA with the HBM value, or DATA_ERR for a line that is lost. -/
def answerData (t : HomeTx) (state : Nat) (s : State) : State :=
  match homeRead t.line s with
  | (some l, s) => serSend t.port 1 0x21 t.tag 0 state t.line l s
  | (none, s) => serErrAnswer t.port t.tag erDataErr s

/-- CMP. -/
def answerCmp (t : HomeTx) (state : Nat) (s : State) : State := serSend t.port 1 0x20 t.tag 0 state t.line [] s

/-- A request whose snoops are all answered is finished as Table 12-5 says. -/
def homeFinish (t : HomeTx) (s : State) : State :=
  let s := { s with home := s.home.erase t }
  let x := agentOf s t.port
  let now := held? s t.line
  let mine := match now with | some e => e.holders.contains x | none => false
  let excl := match now with | some e => e.excl | none => false
  if t.op = soRdShared then
    match now with
    | none => if t.share then answerData t 1 (setFilter t.line false [x] s) else answerData t 2 (setFilter t.line true [x] s)
    | some e =>
      if e.excl ∧ e.holders = [x] then answerData t 2 (setFilter t.line true [x] s)
      else answerData t 1 (setFilter t.line false (if mine then e.holders else e.holders ++ [x]) s)
  else if t.op = soRdOwn then answerData t 2 (setFilter t.line true [x] s)
  else if t.op = soUpgrade then
    if t.listed then answerCmp t 2 (setFilter t.line true [x] s) else answerData t 2 (setFilter t.line true [x] s)
  else if t.op = soEvictDirty ∨ t.op = soEvictClean then
    let s := if mine then
        let s := if t.op = soEvictDirty ∧ excl then (hbmWrite (t.line * 64) (padTo 64 t.data) s).2 else s
        setFilter t.line false ((now.map (·.holders)).getD [] |>.filter (· != x)) s
      else s
    answerCmp t 0 s
  else if t.op = soPartRead then
    if t.port < 2 then
      match homeRead t.line s with
      | (some l, s) => serSend t.port 1 0x21 t.tag 0 0 t.line
          (List.replicate t.off 0 ++ slice t.off t.data.length l ++ List.replicate (64 - t.off - t.data.length) 0) s
      | (none, s) => serErrAnswer t.port t.tag erDataErr s
    else if t.port = 3 then
      match homeRead t.line s with
      | (some l, s) => send .meshResp t.tag [stOk, t.line * 64 + t.off] (slice t.off t.data.length l) s
      | (none, s) => send .meshResp t.tag [ccRemoteErr, t.line * 64 + t.off] [] s
    else s
  else if t.op = soPartWrite then
    if t.data.isEmpty then s
    else
      let (st, s) := hbmWrite (t.line * 64 + t.off) t.data s
      if t.port < 2 then (if st = 0 then answerCmp t 0 s else serErrAnswer t.port t.tag erDataErr s)
      else if t.port = 3 then send .meshResp t.tag [st, t.line * 64 + t.off] [] s else s
  else if t.op = soDrop then s
  else if t.op = soMask then
    let (st, s) := hbmMask t.line t.off t.data s
    if st = 0 then answerCmp t 0 s else serErrAnswer t.port t.tag erDataErr s
  else setFilter t.line false [] { s with filterEvicts := s.filterEvicts + 1 }

/-- Whether a request is the oldest of its line. -/
def oldest (s : State) (t : HomeTx) : Bool :=
  match s.home.find? (fun x => x.line == t.line) with
  | some x => x == t
  | none => false

/-- Whether a request is to gain an entry in the filter. -/
def gains (t : HomeTx) : Bool := t.op ≤ soUpgrade

/-- One thing the home agent can do now: take up a request that is the oldest of its line, evict an entry for a grant whose set
is full, or finish a request that waits for nothing. -/
def homeStep (s : State) : Option State :=
  match s.home.find? (fun t => oldest s t && !t.started) with
  | some t => some (homeStart t s)
  | none =>
    match s.home.find? (fun t => t.started && t.pend.isEmpty && t.evict.isEmpty &&
        (t.victim.all (fun v => !s.home.any (fun x => x.line == v && x.op == soVictim)))) with
    | none => none
    | some t =>
      match (if gains t then victimOf s t.line else none) with
      | some e =>
        if s.home.any (fun x => x.line == e.line) then none
        else
          let v : HomeTx := ⟨2, t.tag, soVictim, e.line, 0, [], false, false, [], [], false, none⟩
          some { s with home := s.home.map (fun x => if x == t then { t with victim := some e.line } else x) ++ [v] }
      | none => some (homeFinish t s)

/-- Everything the home agent can do now. -/
def homePump : Nat → State → State
  | 0, s => s
  | n + 1, s => match homeStep s with
    | some s => homePump n s
    | none => s

/-- The home agent run on. -/
def homeRun (s : State) : State := homePump (4 * s.home.length + 4) s

/-- A request put in order (12 R351). -/
def homePut (t : HomeTx) (s : State) : State := homeRun { s with home := s.home ++ [t] }

/-- Lines of a run of HBM bytes that a companion holds in a state the access must snoop first (Table 12-5). -/
def conflicts (s : State) (a n : Nat) (write : Bool) : List Nat :=
  ((pieces a n).map (fun e => e.1 / 64)).eraseDups.filter (fun l => coherent s l &&
    match held? s l with
    | some e => write || e.excl
    | none => false)

/-- Snoops sent for lines that a composite access of a unit waits for. -/
def snoopFor (lines : List Nat) (write : Bool) (s : State) : State :=
  lines.foldl (fun s l =>
    if s.home.any (fun t => t.line == l) then s
    else homePut ⟨2, 0, if write then soPartWrite else soPartRead, l, 0, [], false, false, [], [], false, none⟩ s) s

/-! ### The part's own requests and the companion-line cache (12 R346, R353) -/

/-- SER.PORT.OUTSTANDING of both ports. -/
def updOutstanding (s : State) : State :=
  [0, 1].foldl (fun s p => setFld (rSerPort p) fSerPortOutstanding
    ((s.serReqs.filter (fun r => r.port == p)).length % 65536) s) s

/-- Whether a port's tag is in use. -/
def tagUsed (s : State) (port tag : Nat) : Bool := s.serReqs.any (fun r => r.port == port && r.tag == tag)

/-- The tag a request on a port takes: in a bond the lowest that is free on both ports, so that R357's resending under the same
tag finds it free; else the lowest free one (log 60). -/
def freeTag (s : State) (port : Nat) : Option Nat :=
  match (if bonded s port then (List.range 4096).find? (fun t => !tagUsed s 0 t && !tagUsed s 1 t) else none) with
  | some t => some t
  | none => (List.range 4096).find? (fun t => !tagUsed s port t)

/-- A request put on its port under a tag. -/
def serIssue (r : SerReq) (s : State) : State :=
  let s := updOutstanding { s with serReqs := s.serReqs ++ [r] }
  serSend r.port 0 r.op r.tag (if r.op = soRdNc then 6 else 0) 0 r.line r.data s

/-- A request of the part sent on a port with a free tag; with every tag taken, or others waiting, it waits. -/
def serRequestOn (port op line unit : Nat) (data : List Byte) (s : State) : State :=
  let r : SerReq := ⟨port, 0, op, line, unit, data⟩
  match freeTag s r.port with
  | none => { s with serWait := s.serWait ++ [r] }
  | some tag => if s.serWait.any (fun x => x.port == r.port) then { s with serWait := s.serWait ++ [r] }
      else serIssue { r with tag := tag } s

/-- A request of the part to the home of a companion line. -/
def serRequest (op line unit : Nat) (data : List Byte) (s : State) : State :=
  serRequestOn (companionPort s line) op line unit data s

/-- The port of the home of a line held in the companion-line cache. -/
def cachePort (s : State) (c : CacheLine) : Nat := if bonded s c.port then portFor s 0 c.line else c.port

/-- The oldest waiting request of a port takes a tag that has become free. -/
def serNext (port : Nat) (s : State) : State :=
  match s.serWait.find? (fun r => r.port == port), freeTag s port with
  | some r, some tag => serIssue { r with tag := tag } { s with serWait := s.serWait.erase r }
  | _, _ => s

/-- Whether the companion does not let its memory be cached (12 R341, R353). -/
def noCache (s : State) (line : Nat) : Bool := fld s (rSerPort (companionPort s line)) fSerPortNoCache == 1

/-- A line in the companion-line cache. -/
def cached (s : State) (line : Nat) : Option CacheLine := s.cache.find? (fun c => c.line == line)

/-- What the home of a line that leaves the cache is told: EVICT_DIRTY or EVICT_CLEAN; a shared line leaves silently. -/
def cacheLeave (v : CacheLine) (s : State) : State :=
  if v.state = 3 then serRequestOn (cachePort s v) soEvictDirty v.line 0 v.data s
  else if v.state = 2 then serRequestOn (cachePort s v) soEvictClean v.line 0 [] s else s

/-- A line put into the cache as the most recently used of its set of 16 ways (2^15 sets; the index is log 29); the one it
displaces leaves as R352 has an agent do. -/
def cachePut (c : CacheLine) (s : State) : State :=
  let rest := s.cache.filter (fun x => x.line != c.line)
  let set := rest.filter (fun x => x.line % 32768 == c.line % 32768)
  if set.length < 16 then { s with cache := c :: rest }
  else match set.getLast? with
    | none => { s with cache := c :: rest }
    | some v =>
      let s := { s with cache := c :: rest.filter (fun x => x.line != v.line) }
      cacheLeave v s

/-- Whether a line's bytes are at hand, cached or read uncached for a unit. -/
def lineAt (s : State) (line : Nat) : Option (List Byte) :=
  match cached s line with
  | some c => some c.data
  | none => (s.uncached.find? (fun c => c.line == line)).map (·.data)

/-- Whether a request for a line is outstanding. -/
def asked (s : State) (line : Nat) : Bool := (s.serReqs ++ s.serWait).any (fun r => r.line == line)

/-- Whether a unit has a request outstanding or waiting. -/
def serBusy (s : State) (unit : Nat) : Bool := (s.serReqs ++ s.serWait).any (fun r => r.unit == unit)

/-- The companion address of a device address, and the companion lines of a run. -/
def companionBase : Nat := 0x20000000000
def companionLines (a n : Nat) : List Nat := ((pieces (a - companionBase) n).map (fun e => e.1 / 64)).eraseDups

/-- Companion lines that a read must fetch first. -/
def toFetch (s : State) (a n : Nat) : List Nat := (companionLines a n).filter (fun l => (lineAt s l).isNone)

/-- Companion lines that a write must own first: those it covers in part, where caching is allowed (12 R353). -/
def toOwn (s : State) (a n : Nat) : List Nat :=
  (((pieces (a - companionBase) n).filter (fun e => e.2 != 64)).map (fun e => e.1 / 64)).eraseDups.filter (fun l =>
    !noCache s l && !((cached s l).any (fun c => 2 ≤ c.state)))

/-- Reads sent for companion lines that a unit waits for (12 R353). -/
def fetchLines (ls : List Nat) (own : Bool) (unit : Nat) (s : State) : State :=
  ls.foldl (fun s l =>
    if asked s l then s
    else serRequest (if own then soRdOwn else if noCache s l then soRdNc else soRdShared) l unit [] s) s

/-- Bytes of companion memory, its lines being at hand; an uncached line is used once. -/
def companionRead (a n : Nat) (s : State) : List Byte × State :=
  let l := ((pieces (a - companionBase) n).map (fun e => slice (e.1 % 64) e.2 ((lineAt s (e.1 / 64)).getD []))).flatten
  (l, { s with uncached := s.uncached.filter (fun c => !(companionLines a n).contains c.line) })

/-- Bytes written to companion memory: a full line drops any cached copy and goes out as WR_LINE; a part of a line is modified
in place, or goes out as WR_PART (12 R353). -/
def companionWrite (a : Nat) (l : List Byte) (unit : Nat) (s : State) : State :=
  (pieces (a - companionBase) l.length).foldl (fun s e =>
    let line := e.1 / 64
    let d := slice (e.1 - (a - companionBase)) e.2 l
    if e.2 = 64 then
      serRequest soWrLine line unit d { s with cache := s.cache.filter (fun c => c.line != line) }
    else match cached s line with
      | some c => cachePut { c with state := 3, data := patch c.data (e.1 % 64) d } s
      | none => serRequest soWrPart line unit
          (natLe 8 ((2 ^ e.2 - 1) * 2 ^ (e.1 % 64)) ++ natLe 8 0 ++ List.replicate (e.1 % 64) 0 ++ d ++
            List.replicate (64 - e.1 % 64 - e.2) 0) s) s

end Sys2Proof.Machine
end

