-- ==== Sys2Proof/Machine/Dev.lean ====
section
/-! DEFINITION. An access of a unit of the part by device address (00 R3, R5): which range it reaches, who may write there (07
R216, R234; 08 R258, R264; 10 R301), and the composite reads and writes that stream engines, stack engines, service cores and
firmware make. -/
namespace Sys2Proof.Machine

/-! ### Sources -/

def srcCluster (l : Nat) : Source := ⟨0, l, 0, true, 0⟩
def srcMsd (n : Nat) : Source := ⟨1, n, 0, false, 0⟩
def srcCore : Source := ⟨2, 0, 0, false, 0⟩
def srcFirmware : Source := ⟨2, 1, 0, false, 0⟩
def srcSerica (rid : Nat) : Source := ⟨2, 2, 0, false, rid⟩
def srcFabric (dev : Nat) (isCl : Bool) (id : Nat) : Source := ⟨3, id, dev, isCl, 3 * 2 ^ 13 + dev⟩
def isFirmware (src : Source) : Bool := src.cls == 2 && src.id == 1

/-! ### The map (00 Table 00-2) -/

/-- The range a run of bytes lies in. -/
inductive Range where
  | hbm
  | spm (l o : Nat)
  | buf (n o : Nat)
  | control (o : Nat)
  | companion
  | none
deriving DecidableEq, Repr

def spmDev : Nat := 0x10000000000
def bufDev : Nat := 0x18000000000
def controlDev : Nat := 0x1F000000000

/-- The range of `n` bytes at `a`; bytes past a range's end lie in none (00 R5). A non-empty run of companion memory ends below
2^48. -/
def rangeAt (s : State) (a n : Nat) : Range :=
  if a + n ≤ hbmTop s then .hbm
  else if spmDev ≤ a ∧ a < spmDev + 800 * 2 ^ 25 then
    (if (a - spmDev) % 2 ^ 25 + n ≤ spmSize then .spm ((a - spmDev) / 2 ^ 25) ((a - spmDev) % 2 ^ 25) else .none)
  else if bufDev ≤ a ∧ a < bufDev + 16 * 2 ^ 26 then
    (if (a - bufDev) % 2 ^ 26 + n ≤ 2 ^ 26 then .buf ((a - bufDev) / 2 ^ 26) ((a - bufDev) % 2 ^ 26) else .none)
  else if controlDev ≤ a ∧ a + n ≤ controlDev + 2 ^ 30 then .control (a - controlDev)
  else if companionBase ≤ a ∧ a + n ≤ 2 ^ 48 then .companion
  else .none

/-! ### Images as bytes (08 R250, R251) -/

/-- Bytes of the signed object's header before the payload (17 R488). -/
def objHeader : Nat := 0xC0

/-- `n` bytes of the payload of the image in a slot. -/
def imgRead (s : State) (slot off n : Nat) : List Byte :=
  match look s.images slot with
  | some i => hbmPeek s (i.addr + objHeader + off) n
  | none => List.replicate n 0

/-- A little-endian field of the payload. -/
def imgLe (s : State) (slot off n : Nat) : Nat := leNat (imgRead s slot off n)

/-- The directory entry of a section type: count, offset, length. -/
def imgSection (s : State) (slot type : Nat) : Option (Nat × Nat × Nat) :=
  ((List.range (imgLe s slot 6 2)).find? (fun i => imgLe s slot (0x80 + 16 * i) 2 == type)).map (fun i =>
    (imgLe s slot (0x80 + 16 * i + 4) 4, imgLe s slot (0x80 + 16 * i + 8) 4, imgLe s slot (0x80 + 16 * i + 12) 4))

/-- The address and length of the blobs of an image that lie in HBM (08 R263). -/
def hbmBlobs (s : State) (slot : Nat) : List (Nat × Nat) :=
  match imgSection s slot 0xC with
  | none => []
  | some (n, off, _) =>
    ((List.range n).filter (fun i => imgLe s slot (off + 96 * i + 4) 4 % 2 == 0)).map (fun i =>
      (imgLe s slot (off + 96 * i + 8) 8, imgLe s slot (off + 96 * i + 16) 8))

/-! ### Who may write (07 R216, R234; 08 R258, R264; 10 R301, R308) -/

/-- Whether two runs share a 64 KiB chunk. -/
def sameChunk (a n b m : Nat) : Bool :=
  0 < n && 0 < m && a / 65536 ≤ (b + m - 1) / 65536 && b / 65536 ≤ (a + n - 1) / 65536

/-- Whether a write touches a protected chunk: of an image in a slot, a blob of the active or previous image, or a tokeniser
table (08 R264, 10 R308). -/
def chunkProtected (s : State) (a n : Nat) : Bool :=
  s.images.any (fun e => sameChunk a n e.2.addr e.2.len) ||
    (hbmBlobs s 0 ++ hbmBlobs s 1).any (fun b => sameChunk a n b.1 b.2) ||
    s.tokTables.any (fun e => sameChunk a n e.2.addr e.2.len)

/-- Whether a source is the producer of collective queue `q` (13 R373, R389). -/
def isCollProducer (s : State) (src : Source) (q : Nat) : Bool :=
  let prod := tabGet (fun _ => noPhys) s.collProd q
  (src.cls == 0 && src.id == prod) || (src.cls == 2 && prod == 1023)

/-- Whether a write touches a collective ring or doorbell bytes that are not its source's to write (13 R389). -/
def collGuarded (s : State) (src : Source) (base a n : Nat) : Bool :=
  (List.range 16).any (fun q => !isCollProducer s src q &&
    ((a < base + 4 * q + 4 && base + 4 * q < a + n) ||
     (a < base + 0x10000 * (q + 2) && base + 0x10000 * (q + 1) < a + n)))

/-- Whether a write of HBM by a source other than firmware is refused with ACCESS. -/
def hbmGuarded (s : State) (src : Source) (a n : Nat) : Bool :=
  !isFirmware src && (chunkProtected s a n ||
    s.genMap.any (fun g => decide (a < g + 51200 ∧ g < a + n)) ||
    s.reqRings.any (fun e => sameChunk a n e.2.base (64 + 64 * 2 ^ e.2.log2) &&
      !((src.cls == 3 || (src.cls == 2 && src.id == 2)) && src.rid == e.2.rid)) ||
    s.collBase.any (fun b => collGuarded s src b a n))

/-- The cause for which a write of a buffer is refused, 0 where it is not: the proxy reserve by every source, the firmware
region by all but firmware, a ring by all but its producer (07 R216, R234). -/
def bufGuard (s : State) (src : Source) (n o k : Nat) : Nat :=
  if o < 0x1000000 ∧ 0x400000 < o + k then ccAccess
  else if 0x3800000 < o + k then (if isFirmware src then 0 else ccAccess)
  else if o < 0x400000 then
    let prod := tabGet (fun _ => noPhys) s.producers (32 * n + o / 0x20000)
    if (o + k - 1) / 0x20000 ≠ o / 0x20000 then ccAccess
    else if (src.cls = 0 ∧ src.id = prod) ∨ (src.cls = 2 ∧ prod = 1023) then 0 else ccAccess
  else 0

/-! ### Engine queues' producer index (07 R234) -/

/-- The producer index of an engine queue: bytes 0-3 of its control line. -/
def producerIdx (s : State) (n q : Nat) : Nat := leNat (bufRead s n (q * 0x20000 + 0x1FFC0) 4)

/-- Engine queue states of Table 07-12c. -/
def qsIdle : Nat := 0
def qsActive : Nat := 1
def qsError : Nat := 2

/-- MSD.QUEUE[q] after its producer or consumer index has moved: an index that puts more than 2,047 commands in the ring sets
ERROR with QUEUE_OVERRUN (07 R234). -/
def doorbell (n q : Nat) (s : State) : State :=
  let k := rMsdQueue n q
  let left := subMod 32 (producerIdx s n q) (fld s k fMsdQueueConsumer)
  if fld s k fMsdQueueState = qsError then setFld k fMsdQueuePending (min left 2047) s
  else if 2047 < left then setFlds k [(fMsdQueueState, qsError), (fMsdQueueCause, 0xA), (fMsdQueuePending, 2047)] s
  else setFlds k [(fMsdQueuePending, left), (fMsdQueueState, if left = 0 ∧ (look s.engines (32 * n + q)).isNone then qsIdle else qsActive)] s

/-- Bytes stored in a buffer by a unit; a write of a ring's producer index rings its doorbell. -/
def bufWrite (n o : Nat) (l : List Byte) (s : State) : State :=
  let s := bufStore n o l s
  if o < 0x400000 ∧ o % 0x20000 < 0x1FFC4 ∧ 0x1FFC0 < o % 0x20000 + l.length then doorbell n (o / 0x20000) s else s

/-! ### Composite accesses -/

/-- The largest aligned accesses of 4 to 64 bytes that a run splits into (05 R154). -/
def accSplit : Nat → Nat → Nat → List (Nat × Nat)
  | 0, _, _ => []
  | fuel + 1, a, n =>
    if n = 0 then []
    else
      let k := if a % 64 = 0 ∧ 64 ≤ n then 64 else if a % 32 = 0 ∧ 32 ≤ n then 32 else if a % 16 = 0 ∧ 16 ≤ n then 16
        else if a % 8 = 0 ∧ 8 ≤ n then 8 else min n 4
      (a, k) :: accSplit fuel (a + k) (n - k)

/-- A run's accesses. -/
def accesses (a n : Nat) : List (Nat × Nat) := accSplit (n / 4 + 2) a n

/-- What a composite access comes to: its bytes, that it must wait for snoops or companion lines it has asked for, or the
cause it is refused with. -/
inductive DevOut where
  | ok (l : List Byte)
  | wait
  | no (cause : Nat)
deriving DecidableEq, Repr

/-- A read of `n` bytes at device address `a` for `unit`. -/
def devRead (src : Source) (unit a n : Nat) (s : State) : DevOut × State :=
  match rangeAt s a n with
  | .hbm =>
    let c := conflicts s a n false
    if !c.isEmpty then (.wait, snoopFor c false s)
    else match hbmRead a n s with
      | (some l, s) => (.ok l, s)
      | (none, s) => (.no ccRemoteErr, s)
  | .buf m o =>
    match bufPlace s m o with
    | .no c => (.no c, s)
    | .at_ _ _ => (.ok (bufRead s m o n), s)
  | .spm l o =>
    let r := (accesses o n).foldl (fun (acc : Nat × List Byte × State) e =>
      if acc.1 ≠ 0 then acc
      else let (st, b, s) := addrDo src l e.1 e.2 false [] acc.2.2
        (st, acc.2.1 ++ b, s)) (0, [], s)
    if r.1 = 0 then (.ok r.2.1, r.2.2) else (.no r.1, r.2.2)
  | .companion =>
    if !anyPortUp s then (.no ccRemoteErr, s)
    else if s.serErrs.contains unit then (.no ccRemoteErr, { s with serErrs := s.serErrs.filter (· != unit) })
    else
      let f := toFetch s a n
      if f.isEmpty then let (l, s) := companionRead a n s; (.ok l, s)
      else (.wait, fetchLines f false unit s)
  | .control _ => (.no ccAccess, s)
  | .none => (.no ccUnmapped, s)

/-- A write of bytes at device address `a` by `unit`. -/
def devWrite (src : Source) (unit a : Nat) (l : List Byte) (s : State) : DevOut × State :=
  match rangeAt s a l.length with
  | .hbm =>
    if hbmGuarded s src a l.length then (.no ccAccess, s)
    else
      let c := conflicts s a l.length true
      if !c.isEmpty then (.wait, snoopFor c true s)
      else match hbmWrite a l s with
        | (0, s) => (.ok [], s)
        | (c, s) => (.no c, s)
  | .buf m o =>
    match bufPlace s m o with
    | .no c => (.no c, s)
    | .at_ _ _ =>
      let c := bufGuard s src m o l.length
      if c ≠ 0 then (.no c, s) else (.ok [], bufWrite m o l s)
  | .spm c o =>
    let r := (accesses o l.length).foldl (fun (acc : Nat × State) e =>
      if acc.1 ≠ 0 then acc
      else let (st, _, s) := addrDo src c e.1 e.2 true (slice (e.1 - o) e.2 l) acc.2
        (st, s)) (0, s)
    if r.1 = 0 then (.ok [], r.2) else (.no r.1, r.2)
  | .companion =>
    if !anyPortUp s then (.no ccRemoteErr, s)
    else if s.serErrs.contains unit then (.no ccRemoteErr, { s with serErrs := s.serErrs.filter (· != unit) })
    else
      let f := toOwn s a l.length
      if f.isEmpty then (.ok [], companionWrite a l unit s)
      else (.wait, fetchLines f true unit s)
  | .control _ => (.no ccAccess, s)
  | .none => (.no ccUnmapped, s)

/-- What firmware writes to HBM for its own use. -/
def fwWrite (a : Nat) (l : List Byte) (s : State) : State := (devWrite srcFirmware 0 a l s).2

/-- Bytes that firmware reads from HBM, or none where they are not in addressable HBM. -/
def fwRead (s : State) (a n : Nat) : Option (List Byte) := if a + n ≤ hbmTop s then some (hbmPeek s a n) else none

end Sys2Proof.Machine
end

