-- ==== Sys2Proof/Machine/Throttle.lean ====
section
/-! DEFINITION. The throttling state that several chapters change (14 R420-R429): the power policy of the active image, the skip
and bubble levels in force, the reasons that hold, and what registers show of them. -/
namespace Sys2Proof.Machine

/-! ### The policy in force (14 R438) -/

/-- `n` bytes at an offset of the active image's POWER entry, if an image is active. -/
def policy (s : State) (off n : Nat) : Option Nat :=
  match look s.images 0 with
  | none => none
  | some _ => (imgSection s 0 0xA).map (fun e => imgLe s 0 (e.2.1 + off) n)

/-- mem_share, kp_q and AUTO_PARK in force. -/
def memShare (s : State) : Nat := (policy s 5 1).getD Config.idleShare
def kpQ (s : State) : Nat := (policy s 6 1).getD Config.idleKp
def autoPark (s : State) : Bool := bitAt ((policy s 7 1).getD 0) 0

/-- The cap of R422 for an input voltage in units of 10 mV; without an image there is no cap_w. -/
def capInForce (s : State) (vin : Nat) : Nat :=
  min (min (fld s rPwrCapSet fPwrCapSetCap) (fld s rPwrBoard fPwrBoardBoardCap)) (min (5 * vin) ((policy s 0 4).getD 18000))

/-- Whether the board cap is the smallest term of R422, below every other (14 R427). -/
def boardLimits (s : State) : Bool :=
  let b := fld s rPwrBoard fPwrBoardBoardCap
  decide (b < fld s rPwrCapSet fPwrCapSetCap) && decide (b < (policy s 0 4).getD 18000) &&
    decide (b < 5 * fld s rPwrInput fPwrInputVin)

/-! ### Demands (14 R420, R421, Table 14-6) -/

/-- Θ as it is applied, forcing for headroom with it. -/
def thetaNow (s : State) : Nat := max (fld s rPwrStatus fPwrStatusTheta) s.forceTheta
/-- Whether THROT_N is asserted. -/
def throt (s : State) : Bool := fld s rPwrBoard fPwrBoardThrot == 1

/-- Skip demands on a gallery by reason: 0 CAP, 1 GALLERY_CURRENT, 3 THERMAL_SOFT, 4 THERMAL_HARD, 5 BOARD. -/
def skipDemand (s : State) (g r : Nat) : Nat :=
  match r with
  | 0 => if boardLimits s then s.forceTheta else thetaNow s
  | 1 => max (tabGet (fun _ => 0) s.gcSkip g) (tabGet (fun _ => 0) s.forceSkip g)
  | 3 => tabGet (fun _ => 0) s.softSkip g
  | 4 => if s.hardGal.contains g then 48 else 0
  | 5 => max (if boardLimits s then fld s rPwrStatus fPwrStatusTheta else 0) (if throt s then 32 else 0)
  | _ => 0

/-- Whether a gallery's clusters are clocked. -/
def galClocked (s : State) (g : Nat) : Bool := galState s g ≤ 1

/-- The skip level applied to the clusters of a gallery. -/
def skipOf (s : State) (g : Nat) : Nat :=
  if galClocked s g then min 48 ((List.range 6).foldl (fun m r => max m (skipDemand s g r)) 0) else 0

/-- The device bubble demand from Θ. -/
def bubbleOfTheta (s : State) : Nat := thetaNow s * memShare s / 64

/-- The bubble level applied to the stream engine of a cluster in gallery `g`, and to MSDn. -/
def bubbleGal (s : State) (g : Nat) : Nat :=
  min 48 (max (bubbleOfTheta s) (max (if s.hardGal.contains g then 48 else 0) (if throt s then 32 else 0)))
def bubbleMsd (s : State) (n : Nat) : Nat :=
  min 48 (max (bubbleOfTheta s) (max (if throt s then 32 else 0)
    (max (if 95 * 16 ≤ dieTemp s n ∨ s.dramHot.contains n then 32 else 0) (if 105 * 16 ≤ dieTemp s n then 48 else 0))))

/-- Whether a reason of Table 14-6 holds for a gallery. -/
def galReason (s : State) (g r : Nat) : Bool :=
  match r with
  | 2 => (clustersOf g).any (fun p => s.holds.contains p)
  | 3 => 0 < skipDemand s g 3 || 95 * 16 ≤ galTemp s g
  | _ => 0 < skipDemand s g r

/-- Whether a reason holds for some unit that is no gallery: the device, an MSD, another die. -/
def dieReason (s : State) (r : Nat) : Bool :=
  match r with
  | 0 => 0 < skipDemand s 0 0
  | 3 => !s.dramHot.isEmpty || (List.range 19).any (fun k => 95 * 16 ≤ dieTemp s k)
  | 4 => (List.range 19).any (fun k => 105 * 16 ≤ dieTemp s k)
  | 5 => 0 < skipDemand s 0 5
  | _ => false

/-- The reason that sets the largest applied skip level anywhere, the lowest code winning ties, plus 1; 0 for none (14 R427). -/
def limiting (s : State) : Nat :=
  let best (r : Nat) : Nat := (List.range nGal).foldl (fun m g => if galClocked s g then max m (skipDemand s g r) else m) 0
  let top := (List.range 6).foldl (fun m r => max m (best r)) 0
  if top = 0 then 0 else (((List.range 6).find? (fun r => min 48 (best r) == min 48 top)).getD 0) + 1

/-- What registers show of throttling: PWR.GAL's SKIP and REASONS, PWR.STATUS, and the reasons whose durations count. -/
def updThrottle (s : State) : State :=
  let s := (List.range nGal).foldl (fun s g => setFlds (rPwrGal g) [(fPwrGalSkip, skipOf s g),
    (fPwrGalReasons, maskOf ((List.range 6).filter (galReason s g)))] s) s
  let s := setFlds rPwrStatus [(fPwrStatusBubble, min 48 (bubbleOfTheta s)), (fPwrStatusLimiting, limiting s)] s
  { s with reasons := maskOf ((List.range 6).filter (fun r =>
      dieReason s r || (List.range nGal).any (fun g => galReason s g r))) }

end Sys2Proof.Machine
end

