-- ==== Sys2Proof/Machine/Clock.lean ====
section
/-! DEFINITION. Cluster clocks (14 R415, R416): a cluster's set frequency, the requests of logical numbers, and what the POWER
section changes at the switch beat (R438). -/
namespace Sys2Proof.Machine

/-- F_max of a cluster in MHz. -/
def fmaxOf (s : State) (p : Nat) : Nat := fld s (rClkFmax p) fClkFmaxFmax

/-- Whether expert frequency is on. -/
def expertFreq (s : State) : Bool := fld s rClkMode fClkModeExpertFreq == 1

/-- A cluster's set frequency by R416. -/
def setFreqOf (s : State) (p : Nat) : Nat :=
  let f := fld s (rClkFset p) fClkFsetFset
  if expertFreq s then (if f = 0 then fmaxOf s p else min f (fmaxOf s p)) else min 1050 (fmaxOf s p)

/-- CLK.FSET.FNOW of a cluster, and of every cluster, brought up to date. -/
def updFreq (p : Nat) (s : State) : State := setFld (rClkFset p) fClkFsetFnow (setFreqOf s p) s
def updFreqs (s : State) : State := (List.range nClusters).foldl (fun s p => updFreq p s) s

/-- The frequency requested for a logical number. -/
def requestOf (s : State) (l : Nat) : Nat := tabGet (fun _ => 0) s.fsetOf l

/-- A cluster's request replaced. -/
def setFset (p f : Nat) (s : State) : State := updFreq p (setFld (rClkFset p) fClkFsetFset f s)

/-- Whether a value may be requested: 0, or 500 to 1,200 MHz in steps of 10. -/
def fsetOk (f : Nat) : Bool := f == 0 || (500 ≤ f && f ≤ 1200 && f % 10 == 0)

/-- The request of a logical number follows it from its old holder to its new one (14 R416). -/
def followFset (l h p : Nat) (s : State) : State := setFset p (requestOf s l) (if h < nClusters then setFset h 0 s else s)

/-- CLK.MODE, the requests and the policy of an image that becomes active (14 R438). -/
def applyPower (s : State) : State :=
  match policy s 4 1 with
  | none => updThrottle s
  | some m =>
    let s := setFld rClkMode fClkModeExpertFreq (m % 2) s
    let s := { s with fsetOf := (List.range nLogical).foldl (fun t l => tabSet (fun _ => 0) t l ((policy s (0x40 + 2 * l) 2).getD 0)) [] }
    let s := (List.range nClusters).foldl (fun s p =>
      setFld (rClkFset p) fClkFsetFset (if logicalOf s p < nLogical then requestOf s (logicalOf s p) else 0) s) s
    updThrottle (updFreqs s)

end Sys2Proof.Machine
end

