-- ==== Sys2Proof/Machine/Dma.lean ====
section
/-! DEFINITION. The stream engine (04 R137-R142): submits, descriptors and their checks, moving bytes, completion and failure, and
the context services of Table 04-16. -/
namespace Sys2Proof.Machine

/-! ### Contexts -/

/-- Context states of Table 04-14. -/
def dxIdle : Nat := 0
def dxActive : Nat := 1
def dxError : Nat := 2

/-- The queue of a context, oldest first. -/
def ctxQueue (s : State) (p c : Nat) : List DmaDesc := tabGet (fun _ => []) (cluster s p).ctx c

/-- The state of a context. -/
def ctxState (s : State) (p c : Nat) : Nat := fld s (rClDmaCtx p c) fClDmaCtxState

/-- A context's queue replaced, with QUEUED and, outside ERROR, STATE as they follow from it. -/
def setQueue (p c : Nat) (q : List DmaDesc) (s : State) : State :=
  let s := modCluster p (fun k => { k with ctx := tabSet (fun _ => []) k.ctx c q }) s
  let st := ctxState s p c
  setFlds (rClDmaCtx p c) [(fClDmaCtxQueued, q.length),
    (fClDmaCtxState, if st = dxError then dxError else if q.isEmpty then dxIdle else dxActive)] s

/-- One descriptor of a context changed. -/
def modDesc (p c num : Nat) (f : DmaDesc → DmaDesc) (s : State) : State :=
  setQueue p c ((ctxQueue s p c).map (fun d => if d.num == num then f d else d)) s

/-- A context returned from ERROR (Table 04-15). -/
def ctxClear (p c : Nat) (s : State) : State :=
  if ctxState s p c = dxError then
    setFld (rClDmaCtx p c) fClDmaCtxState (if (ctxQueue s p c).isEmpty then dxIdle else dxActive) s
  else s

/-- The unit number under which a descriptor's requests on Serica Link are known. -/
def dmaUnit (p c num : Nat) : Nat := (2 ^ 24 + (64 * p + c)) * 2 ^ 20 + num % 2 ^ 20

/-! ### Submits (04 R137, R142) -/

/-- Submits whose descriptors have all completed, failed or been discarded end: with the cause of the first failure, with
CTX_ERROR where some were discarded, else complete. -/
def endSubmits (p : Nat) (s : State) : State :=
  let done := (cluster s p).subs.filter (fun u => u.left == 0)
  let s := modCluster p (fun k => { k with subs := k.subs.filter (fun u => u.left != 0) }) s
  done.foldl (fun s u =>
    if u.cause ≠ 0 then cmdFail p u.l 3 u.cause s
    else if u.discarded then cmdFail p u.l 3 ccCtxError s else complete p u.l s) s

/-- One descriptor of the submit with launch number `ord` is over. -/
def subDone (p ord cause : Nat) (discarded : Bool) (s : State) : State :=
  modCluster p (fun k => { k with subs := k.subs.map (fun u =>
    if u.l.ord = ord then
      { u with left := u.left - 1, cause := if u.cause = 0 then cause else u.cause, discarded := u.discarded || discarded }
    else u) }) s

/-- DMA.SUBMIT: at its launch the descriptors are copied into the context's queue. -/
def execDmaSubmit (p st b : Nat) (s : State) : Host.Outcome State Fault Refusal :=
  onUnits p nClusters st 32 s (fun s =>
    launch p st (· == opDmaSubmit)
      (fun s c => if ctxState s p (cOpA c) ≠ dxError ∧ 16 < (ctxQueue s p (cOpA c)).length + cOpC c then some (5, cOpA c) else none)
      (fun l s =>
        let c := cOpA l.cmd
        let o := cOpB l.cmd
        let n := cOpC l.cmd
        if ctxState s p c = dxError then cmdFail p l 3 ccCtxError s
        else if o % 64 ≠ 0 then cmdFail p l 3 ccAlign s
        else if !spmOpen s p o (64 * n) then cmdFail p l 3 ccUnmapped s
        else if spmBad s p o (64 * n) then cmdFail p l 3 ccEcc (eccRead p o (64 * n) s)
        else
          let base := (cluster s p).nDesc
          let ds := (List.range n).map (fun i => (⟨l.ord, base + i, spmRead s p (o + 64 * i) 64, false, [], 0, 0, false, 0, 0, 0⟩ : DmaDesc))
          let s := modCluster p (fun k => { k with nDesc := base + n, subs := k.subs ++ [⟨l, c, n, 0, false⟩] }) s
          setQueue p c (ctxQueue s p c ++ ds) s)
      (advanceTo b s))

/-! ### The descriptor's checks (04 R138-R140) -/

/-- Reserved bytes 0 and fields in range (check 1). -/
def xFieldsOk (d : List Byte) : Bool :=
  let k := xKind d
  let strided := k == 1
  let indexed := k == 2 || k == 3
  if k = 5 then leAt 1 63 d == 0
  else decide (k < 5) && (xFlags d == 0 || (k == 4 && xFlags d == 1)) && (xFlags d == 1 || xDevice d == 0) && leAt 3 5 d == 0 &&
    xSrc d < 2 ^ 48 &&
    (if k = 4 then xDst d < 2 ^ 56 && waCluster (xDst d) < 800 else xDst d < 2 ^ 48) &&
    xSize0 d % 4 == 0 && 4 ≤ xSize0 d &&
    (if strided then 1 ≤ xCount1 d && 1 ≤ xCount2 d
     else xCount1 d == 0 && xCount2 d == 0 && xSs1 d == 0 && xSs2 d == 0 && xDs1 d == 0 && xDs2 d == 0) &&
    (if indexed then 1 ≤ xIdxCount d && xIdxCount d ≤ 65536 else xIdxBase d == 0 && xIdxCount d == 0) && leAt 0x3C 4 d == 0

/-- Runs of a descriptor, by number. -/
def xRuns (d : List Byte) : Nat :=
  match xKind d with
  | 1 => xCount1 d * xCount2 d
  | 2 | 3 => xIdxCount d
  | 5 => 0
  | _ => 1

/-- Source and destination address of run `r`; `x` is its index for GATHER and SCATTER (04 R139). -/
def xRun (d : List Byte) (r x : Nat) : Nat × Nat :=
  match xKind d with
  | 1 =>
    let j := r % xCount1 d
    let q := r / xCount1 d
    (xSrc d + q * xSs2 d + j * xSs1 d, xDst d + q * xDs2 d + j * xDs1 d)
  | 2 => (xSrc d + x * xSize0 d, xDst d + r * xSize0 d)
  | 3 => (xSrc d + r * xSize0 d, xDst d + x * xSize0 d)
  | _ => (xSrc d, xDst d)

/-- Every address a multiple of 4 (check 2). -/
def xAligned (d : List Byte) : Bool :=
  xSrc d % 4 == 0 && (if xKind d = 4 then waOff (xDst d) % 4 == 0 else xDst d % 4 == 0) &&
    (xCount1 d ≤ 1 || (xSs1 d % 4 == 0 && xDs1 d % 4 == 0)) && (xCount2 d ≤ 1 || (xSs2 d % 4 == 0 && xDs2 d % 4 == 0)) &&
    xIdxBase d % 4 == 0

/-- Whether a run of bytes is mapped for cluster `p`, its own scratchpad's ranges being OPEN (05 R161). -/
def xMapped (s : State) (p a n : Nat) : Bool :=
  match rangeAt s a n with
  | .none => false
  | .spm l o => l != logicalOf s p || spmOpen s p o n
  | _ => true

/-- Whether a run lies in the own scratchpad. -/
def xOwn (s : State) (p a n : Nat) : Bool :=
  match rangeAt s a n with
  | .spm l _ => l == logicalOf s p
  | _ => false

/-- Whether a run lies in another cluster's scratchpad or in control space. -/
def xBarred (s : State) (p a n : Nat) : Bool :=
  match rangeAt s a n with
  | .spm l _ => l != logicalOf s p
  | .control _ => true
  | _ => false

/-- The runs that are checked before any byte moves: every run, but the indexed ends of GATHER and SCATTER, which are checked
element by element. -/
def xEnds (d : List Byte) : List (Nat × Nat) :=
  let n := xSize0 d
  match xKind d with
  | 1 => ((List.range (xRuns d)).map (fun r => xRun d r 0)).flatMap (fun e => [(e.1, n), (e.2, n)])
  | 2 => [(xSrc d, n), (xDst d, n * xIdxCount d)]
  | 3 => [(xSrc d, n * xIdxCount d), (xDst d, n)]
  | 4 => [(xSrc d, n)]
  | _ => [(xSrc d, n), (xDst d, n)]

/-- The checks of R140 in order: the cause, 0 where the descriptor passes. -/
def xCheck (s : State) (p : Nat) (d : List Byte) : Nat :=
  let n := xSize0 d
  let own (a k : Nat) : Bool := xOwn s p a k
  if !xFieldsOk d then ccBadDesc
  else if xKind d = 5 then 0
  else if !xAligned d then ccAlign
  else if !(xEnds d).all (fun e => xMapped s p e.1 e.2) then ccUnmapped
  else if (xKind d = 2 ∨ xKind d = 3) ∧ spmOpen s p (xIdxBase d) (4 * xIdxCount d) = false then ccUnmapped
  else if (xEnds d).any (fun e => xBarred s p e.1 e.2) then ccAccess
  else
    let ok := match xKind d with
      | 0 => own (xSrc d) n || own (xDst d) n
      | 1 => (List.range (xRuns d)).all (fun r => own (xRun d r 0).1 n) || (List.range (xRuns d)).all (fun r => own (xRun d r 0).2 n)
      | 2 => own (xDst d) (n * xIdxCount d)
      | 3 => own (xSrc d) (n * xIdxCount d)
      | _ => own (xSrc d) n
    if ok then 0 else ccAccess

/-- The indices of a GATHER or SCATTER, up to one whose word is uncorrectable. -/
def xIndices (s : State) (p : Nat) (d : List Byte) : List Nat × Nat :=
  if xKind d = 2 ∨ xKind d = 3 then
    let good := ((List.range (xIdxCount d)).takeWhile (fun j => !spmBad s p (xIdxBase d + 4 * j) 4))
    (good.map (fun j => leNat (spmRead s p (xIdxBase d + 4 * j) 4)), if good.length < xIdxCount d then ccEcc else 0)
  else ([], 0)

/-! ### Moving bytes -/

/-- The accesses of a descriptor, in order: source, destination, bytes. They are the largest aligned ones at the end that is
not the own scratchpad. -/
def xPieces (s : State) (p : Nat) (d : DmaDesc) : List (Nat × Nat × Nat) :=
  let b := d.bytes
  let runs := if xKind b = 2 ∨ xKind b = 3 then d.idx.length else xRuns b
  (List.range runs).flatMap (fun r =>
    let e := xRun b r (d.idx.getD r 0)
    if xOwn s p e.1 (xSize0 b) then (accesses e.2 (xSize0 b)).map (fun q => (e.1 + (q.1 - e.2), q.1, q.2))
    else (accesses e.1 (xSize0 b)).map (fun q => (q.1, e.2 + (q.1 - e.1), q.2)))

/-- Bytes read at an end of a descriptor of cluster `p`. -/
def xRead (p unit a n : Nat) (s : State) : DevOut × State :=
  match rangeAt s a n with
  | .spm l o =>
    if l ≠ logicalOf s p then (.no ccAccess, s)
    else if !spmOpen s p o n then (.no ccUnmapped, s)
    else if spmBad s p o n then (.no ccEcc, eccRead p o n s) else (.ok (spmRead s p o n), s)
  | _ => devRead (srcCluster (logicalOf s p)) unit a n s

/-- Bytes written at an end of a descriptor that is no window. -/
def xWrite (p unit a : Nat) (l : List Byte) (s : State) : DevOut × State :=
  match rangeAt s a l.length with
  | .spm c o =>
    if c ≠ logicalOf s p then (.no ccAccess, s)
    else if !spmOpen s p o l.length then (.no ccUnmapped, s)
    else if spmPartBad s p o l.length then (.no ccEcc, s) else (.ok [], spmStore p o l s)
  | _ => devWrite (srcCluster (logicalOf s p)) unit a l s

/-- A write through a window of another cluster of the device, or as a WRITE packet to another device (13 R385). The last
component says that its outcome comes with an acknowledgement. -/
def xWindow (p c : Nat) (d : DmaDesc) (w : Nat) (l : List Byte) (s : State) : DevOut × Bool × State :=
  let src := srcCluster (logicalOf s p)
  if bitAt (xFlags d.bytes) 0 then
    let dev := xDevice d.bytes
    if s.lost.contains dev then (.no ccRemoteErr, false, s)
    else if !fabRoom s dev vcBulk then (.wait, false, s)
    else
      let i := match (cluster s p).subs.find? (fun u => u.l.ord == d.sub) with
        | some u => cIds u.l.cmd
        | none => noIds
      let h := headTo s ptWrite vcBulk dev (sliceOf s (logicalOf s p))
      (.ok [], true, fabSend { h with addr := w, ids := i.op + i.layer * 2 ^ 20, cmdSeq := i.seq } (.dma p c d.num) l s)
  else
    let (st, _, s) := windowDo src (waCluster w) (waWin w) (waGen w) (waOff w) l.length true l s
    (if st = 0 then .ok [] else .no st, false, s)

/-- One access of a descriptor: it is carried out, it waits, or it fails the descriptor. -/
def xOne (p c : Nat) (d : DmaDesc) (e : Nat × Nat × Nat) (s : State) : DevOut × DmaDesc × State :=
  let u := dmaUnit p c d.num
  let i := match (cluster s p).subs.find? (fun x => x.l.ord == d.sub) with
    | some x => cIds x.l.cmd
    | none => noIds
  match xRead p u e.1 e.2.2 s with
  | (.wait, s) => (.wait, d, s)
  | (.no k, s) => (.no k, d, s)
  | (.ok l, s) =>
    let s := countCl p 0x30 i 1 s
    let (o, acked, s) := if xKind d.bytes = 4 then xWindow p c d e.2.1 l s
      else let (o, s) := xWrite p u e.2.1 l s; (o, false, s)
    match o with
    | .ok _ =>
      (.ok [], { d with pos := d.pos + 1, out := d.out + bit acked, done := d.done + (if acked then 0 else e.2.2) },
        countCl p 0x31 i 1 s)
    | .wait => (.wait, d, s)
    | .no k => (.no k, d, countCl p 0x33 i 1 s)

/-- The accesses of a descriptor from where it stands on. -/
def xMove (p c : Nat) : List (Nat × Nat × Nat) → DmaDesc → State → DmaDesc × State
  | [], d, s => ({ d with moved := true, cause := d.idxEnd }, s)
  | e :: t, d, s =>
    match xOne p c d e s with
    | (.ok _, d, s) => xMove p c t d s
    | (.wait, d, s) => (d, s)
    | (.no k, d, s) => ({ d with cause := k }, s)

/-- A started descriptor moved on as far as it goes. -/
def xRunOn (p c : Nat) (d : DmaDesc) (s : State) : State :=
  let (d', s) := xMove p c ((xPieces s p d).drop d.pos) d s
  modDesc p c d.num (fun _ => d') s

/-- DMA_DESC_START: descriptor `i` of a context starts, if every one before it has, and a FENCE only at the head (04 R141). It is
checked, and moves its bytes; one that has started and waits for lines or acknowledgements goes on. -/
def execDmaDescStart (p c i : Nat) (s : State) : Host.Outcome State Fault Refusal :=
  onUnits p nClusters c 64 s (fun s =>
    let q := ctxQueue s p c
    match q[i]? with
    | none => s
    | some d =>
      if d.moved ∨ d.cause ≠ 0 ∨ inService s p = false then s
      else if d.started then xRunOn p c d s
      else if !(q.take i).all (·.started) ∨ (xKind d.bytes = 5 ∧ i ≠ 0) then s
      else
        let k := xCheck s p d.bytes
        if k ≠ 0 then modDesc p c d.num (fun d => { d with started := true, cause := k }) s
        else
          let (ix, e) := xIndices s p d.bytes
          let s := if e = ccEcc then eccRead p (xIdxBase d.bytes + 4 * ix.length) 4 s else s
          let d := { d with started := true, idx := ix, idxEnd := e }
          xRunOn p c d (modDesc p c d.num (fun _ => d) s))

/-- A descriptor taken out of its queue. -/
def dropDesc (p c num : Nat) (s : State) : State := setQueue p c ((ctxQueue s p c).filter (fun d => d.num != num)) s

/-- Whether every write a descriptor issued has been accepted or refused. -/
def descQuiet (s : State) (p c : Nat) (d : DmaDesc) : Bool :=
  d.out == 0 && !serBusy s (dmaUnit p c d.num)

/-- DMA_DESC_COMPLETE: every write of a descriptor has been accepted. -/
def execDmaDescComplete (p c i : Nat) (s : State) : Host.Outcome State Fault Refusal :=
  onUnits p nClusters c 64 s (fun s =>
    match (ctxQueue s p c)[i]? with
    | none => s
    | some d =>
      let u := dmaUnit p c d.num
      if !(d.moved && d.cause == 0 && descQuiet s p c d) then s
      else if s.serErrs.contains u then
        modDesc p c d.num (fun d => { d with cause := ccRemoteErr }) { s with serErrs := s.serErrs.filter (· != u) }
      else endSubmits p (subDone p d.sub 0 false (dropDesc p c d.num s)))

/-- DMA_DESC_FAIL: a descriptor with a cause fails (04 R142). -/
def execDmaDescFail (p c i : Nat) (s : State) : Host.Outcome State Fault Refusal :=
  onUnits p nClusters c 64 s (fun s =>
    match (ctxQueue s p c)[i]? with
    | none => s
    | some d =>
      if d.cause = 0 ∨ descQuiet s p c d = false then s
      else
        let first := ctxState s p c != dxError
        let behind := if first then ((ctxQueue s p c).drop (i + 1)).filter (fun x => !x.started) else []
        let s := subDone p d.sub d.cause false (dropDesc p c d.num s)
        let s := behind.foldl (fun s x => subDone p x.sub 0 true (dropDesc p c x.num s)) s
        let s := if first then setFlds (rClDmaCtx p c) [(fClDmaCtxState, dxError), (fClDmaCtxCause, d.cause),
          (fClDmaCtxDoneBytes, d.done)] s else s
        endSubmits p s)

/-- The outcome of a WRITE packet of a descriptor (13 R385): accepted bytes, or the cause of its first refusal. -/
def dmaAcked (p c num n status : Nat) (s : State) : State :=
  modDesc p c num (fun d => { d with
    out := d.out - 1
    done := if status = 0 ∧ d.cause = 0 then d.done + n else d.done
    cause := if status = 0 ∨ d.cause ≠ 0 then d.cause else status }) s

/-! ### CL.DMA_CTX_CLR and services (04 R145) -/

/-- A write of CL.DMA_CTX_CLR (Table 04-15). -/
def ctxClrWrite (p v : Nat) (s : State) : Nat × State :=
  if bitsAt 60 4 v ≠ 0 then (stFwReserved, s) else (stOk, (bitsOf 60 v).foldl (fun s c => ctxClear p c s) s)

/-- STREAM_STATUS. -/
def execStreamStatus (rid l a0 : Nat) (s : State) : Host.Outcome State Fault Refusal :=
  onUnit l nLogical s (fun s =>
    let p := physOf s l
    service (mbCl l) 0x0401 rid [a0] (fun s =>
      if 28 ≤ a0 then (.done stBadArg [], s) else (ok [rdN s (rClStream p a0)], s)) s)

/-- STREAM_RESUME. -/
def execStreamResume (rid l a0 a1 : Nat) (s : State) : Host.Outcome State Fault Refusal :=
  onUnit l nLogical s (fun s =>
    let p := physOf s l
    service (mbCl l) 0x0402 rid [a0, a1] (fun s =>
      if 28 ≤ a0 then (.done stBadArg [], s) else let (st, s) := streamResume p a0 a1 s; (.done st [], s)) s)

/-- STREAM_STOP. -/
def execStreamStop (rid l a0 : Nat) (s : State) : Host.Outcome State Fault Refusal :=
  onUnit l nLogical s (fun s =>
    let p := physOf s l
    service (mbCl l) 0x0403 rid [a0] (fun s => if 28 ≤ a0 then (.done stBadArg [], s) else (ok [], streamStop p a0 s)) s)

/-- CTX_CLEAR. -/
def execCtxClear (rid l a0 : Nat) (s : State) : Host.Outcome State Fault Refusal :=
  onUnit l nLogical s (fun s =>
    let p := physOf s l
    service (mbCl l) 0x0404 rid [a0] (fun s =>
      if 60 ≤ a0 then (.done stBadArg [], s) else (ok [rdN s (rClDmaCtx p a0)], ctxClear p a0 s)) s)

/-- SEM_SET of the mailbox. -/
def execMbxSemSet (rid l a0 a1 : Nat) (s : State) : Host.Outcome State Fault Refusal :=
  onUnit l nLogical s (fun s =>
    let p := physOf s l
    service (mbCl l) 0x0405 rid [a0, a1] (fun s =>
      if 56 ≤ a0 then (.done stBadArg [], s) else (ok [semOf s p a0], semSet p a0 (a1 % 2 ^ 32) s)) s)

/-- ERR_READ of a cluster. -/
def execClErrRead (rid l : Nat) (s : State) : Host.Outcome State Fault Refusal :=
  onUnit l nLogical s (fun s =>
    let p := physOf s l
    serviceRead (mbCl l) 0x0406 rid [] (fun s => [rdN s (rClCmdErr p), rdN s (rClCmdErrCnt p)]) s)

end Sys2Proof.Machine
end

