-- ==== Sys2Proof/Machine/Shake.lean ====
section
/-! DEFINITION. SHAKE256, the part's one hash (17 R487; 07 R246): Keccak-f[1600] with rate 136 bytes and suffix 1111, as FIPS 202
defines it (log 30). -/
namespace Sys2Proof.Machine

/-- The round constants. -/
def keccakRc : List Word :=
  [0x0000000000000001, 0x0000000000008082, 0x800000000000808A, 0x8000000080008000, 0x000000000000808B, 0x0000000080000001,
   0x8000000080008081, 0x8000000000008009, 0x000000000000008A, 0x0000000000000088, 0x0000000080008009, 0x000000008000000A] ++
  [0x000000008000808B, 0x800000000000008B, 0x8000000000008089, 0x8000000000008003, 0x8000000000008002, 0x8000000000000080,
   0x000000000000800A, 0x800000008000000A, 0x8000000080008081, 0x8000000000008080, 0x0000000080000001, 0x8000000080008008]

/-- The rotation of lane x + 5y. -/
def keccakRot : List Nat :=
  [0, 1, 62, 28, 27, 36, 44, 6, 55, 20, 3, 10, 43, 25, 39, 41, 45, 15, 21, 8, 18, 2, 61, 56, 14]

/-- One round on the 25 lanes. -/
def keccakRound (rc : Word) (a : List Word) : List Word :=
  let l (i : Nat) : Word := a.getD i 0
  let c := (List.range 5).map (fun x => l x ^^^ l (x + 5) ^^^ l (x + 10) ^^^ l (x + 15) ^^^ l (x + 20))
  let d := (List.range 5).map (fun x => c.getD ((x + 4) % 5) 0 ^^^ (c.getD ((x + 1) % 5) 0).rotateLeft 1)
  let t := (List.range 25).map (fun i => l i ^^^ d.getD (i % 5) 0)
  -- lane (x, y) moves to (y, 2x + 3y)
  let b := (List.range 25).map (fun i =>
    let x := (i % 5 + 3 * (i / 5)) % 5
    let src := x + 5 * (i % 5)
    (t.getD src 0).rotateLeft (keccakRot.getD src 0))
  let e (x y : Nat) : Word := b.getD (x % 5 + 5 * y) 0
  let r := (List.range 25).map (fun i => e (i % 5) (i / 5) ^^^ (~~~ e (i % 5 + 1) (i / 5) &&& e (i % 5 + 2) (i / 5)))
  match r with
  | h :: tl => (h ^^^ rc) :: tl
  | [] => []

/-- Keccak-f[1600]. -/
def keccakF (a : List Word) : List Word := keccakRc.foldl (fun a rc => keccakRound rc a) a

/-- A block of 136 bytes absorbed. -/
def absorb (a : List Word) (blk : List Byte) : List Word :=
  keccakF ((List.range 25).map (fun i => if i < 17 then a.getD i 0 ^^^ BitVec.ofNat 64 (leAt (8 * i) 8 blk) else a.getD i 0))

/-- Whole blocks absorbed, and the rest padded and absorbed. -/
def absorbAll : Nat → List Word → List Byte → List Word
  | 0, a, _ => a
  | n + 1, a, l =>
    if 136 ≤ l.length then absorbAll n (absorb a (l.take 136)) (l.drop 136)
    else
      let p := padTo 135 (l ++ [0x1F])
      let p := if l.length = 135 then l ++ [0x9F] else p ++ [0x80]
      absorb a p

/-- `n` bytes squeezed. -/
def squeeze : Nat → List Word → Nat → List Byte
  | 0, _, _ => []
  | f + 1, a, n =>
    let blk := ((a.take 17).map (fun w => natLe 8 w.toNat)).flatten
    if n ≤ 136 then blk.take n else blk ++ squeeze f (keccakF a) (n - 136)

/-- SHAKE256 with `n` bytes of output. -/
def shake256 (n : Nat) (l : List Byte) : List Byte :=
  squeeze (n / 136 + 1) (absorbAll (l.length / 136 + 1) (List.replicate 25 0) l) n

end Sys2Proof.Machine
end

