-- ==== Sys2Proof/Machine/Stack.lean ====
section
/-! DEFINITION. The memory-side dies' own commands: line reads with combining (07 R229, R230, R247), line writes with parity
(R219), reconstruction (R220), refresh and temperature (R210, R211), failures, proxies and rebuilding (R221-R228), the patrol
scrub (R248), the buffer (R215, R216), and the mailbox services of Table 07-12. -/
namespace Sys2Proof.Machine

/-- Groups of up to 8 requesters (07 R229). -/
def groups8 : Nat → List Nat → List (List Nat)
  | 0, _ => []
  | _, [] => []
  | n + 1, l => l.take 8 :: groups8 n (l.drop 8)

/-- A read's answer to its requesters: one multicast packet for each group of up to 8. -/
def sendRead (r : LineRead) (status : Nat) (line : List Byte) (s : State) : State :=
  (groups8 r.reqs.length r.reqs).foldl (fun s g =>
    send .meshResp (g.headD 0) (status :: r.addr :: g) (if status = 0 then slice (r.addr % 64) r.size line else []) s) s

/-- A read answered: a combining entry that is still open stays, with its data sent. -/
def finishRead (r : LineRead) (status : Nat) (line : List Byte) (s : State) : State :=
  let s := sendRead r status line s
  { s with lineReads :=
      if r.combine && r.isOpen && status == 0 then s.lineReads.map (fun x => if x == r then { r with sent := true, reqs := [] } else x)
      else s.lineReads.erase r }

/-- HBM_READ: a read of `size` bytes by requester `req`. Whole-line reads open or join a combining entry while fewer than 512 are
open at the MSD; reads of a stack that is out go to the parity MSD of their line (07 R222). -/
def execHbmRead (req a size : Nat) (s : State) : Host.Outcome State Fault Refusal :=
  .next (
    let c := hbmCheck s a size
    let st := stackOf a
    if c ≠ 0 then answerWith c [] (send .meshResp req [c, a] [] s)
    else match s.lineReads.find? (fun r => r.combine && r.isOpen && r.addr == a && size == 64) with
      | some r =>
        let s := countMsd st 0x85 noIds 1 s
        if r.sent then send .meshResp req [stOk, a] (rawLine s st (stackOff a)) s
        else { s with lineReads := s.lineReads.map (fun x => if x == r then { r with reqs := r.reqs ++ [req] } else x) }
      | none =>
        let down := msdDown s st
        let entries := (s.lineReads.filter (fun r => r.combine && r.isOpen && stackOf r.addr == st)).length
        let comb := size == 64 && !down && entries < 512
        { s with lineReads := s.lineReads ++ [⟨a, size, [req], comb, comb, false, down, none⟩] })

/-- HBM_READ_DATA: the DRAM data of the oldest read of address `a` that waits for it, with its severity: 0 clean, 1 corrected, 2
uncorrected. The data of a line with writes ahead of it is not there yet (07 R231). -/
def execHbmReadData (a sev : Nat) (s : State) : Host.Outcome State Fault Refusal :=
  .next (
    let st := stackOf a
    let o := stackOff (a / 64 * 64)
    match s.lineReads.find? (fun r => r.addr == a && !r.sent && !r.rebuild) with
    | none => s
    | some r =>
      match r.old with
      | some l => finishRead r stOk l (countMsd st 0x80 noIds 1 s)
      | none =>
        if s.lineWrites.any (fun w => w.line == a / 64) then s
        else
          let s := countMsd st 0x80 noIds 1 s
          let s := if sev = 2 ∧ !s.hbmBad.contains (hkey st o / 64) then
              { s with hbmBad := hkey st o / 64 :: s.hbmBad, badLines := (st, s.beat) :: s.badLines } else s
          if lineUp s st o then finishRead r stOk (rawLine s st o) s
          else if (rebuilt s st o).isSome then
            { s with lineReads := s.lineReads.map (fun x => if x == r then { r with rebuild := true, combine := false } else x) }
          else finishRead r ccRemoteErr [] (loseLine st s))

/-- COMBINE_EXPIRE: 128 MSD cycles after its first read, the entry of a line closes. -/
def execCombineExpire (a : Nat) (s : State) : Host.Outcome State Fault Refusal :=
  .next { s with lineReads := (s.lineReads.filter (fun r => !(r.combine && r.isOpen && r.addr == a && r.sent))).map (fun r =>
    if r.combine && r.isOpen && r.addr == a then { r with isOpen := false } else r) }

/-- LINE_RECONSTRUCT: the parity MSD rebuilds a line for the oldest read that waits for it. It does not start between a delta
and step 4 of that write (07 R220). -/
def execLineReconstruct (a : Nat) (s : State) : Host.Outcome State Fault Refusal :=
  .next (
    let st := stackOf a
    let o := stackOff (a / 64 * 64)
    let z := stripeOf st o
    match s.lineReads.find? (fun r => r.addr == a && r.rebuild && !r.sent) with
    | none => s
    | some r =>
      match r.old with
      | some l => finishRead r stOk l s
      | none =>
        if s.lineWrites.any (fun w => w.applied && stripeOf (stackOf (w.line * 64)) (stackOff (w.line * 64)) == z) then s
        else match readLine st o s with
          | (some l, s) => finishRead r stOk l s
          | (none, s) => finishRead r ccRemoteErr [] s)

/-- The value a line will have once the writes in progress are done. -/
def lineAhead (s : State) (a : Nat) : Option (List Byte) :=
  match (s.lineWrites.filter (fun w => w.line == a / 64)).getLast? with
  | some w => some w.new
  | none => lineVal s (stackOf a) (stackOff (a / 64 * 64))

/-- HBM_WRITE: steps 1 and 2 of R219; without parity, or with a stack of the stripe out (R223), the write is carried through. -/
def execHbmWrite (req a : Nat) (data : List Byte) (s : State) : Host.Outcome State Fault Refusal :=
  .next (
    let c := hbmCheck s a data.length
    let st := stackOf a
    let o := stackOff (a / 64 * 64)
    let z := stripeOf st o
    if c ≠ 0 then answerWith c [] (send .meshResp req [c, a] [] s)
    else if !parityOn s || !lineUp s st o || !lineUp s (parityAt z).1 (parityAt z).2 then
      let (c, s) := hbmWriteLine a data s
      answerWith c [] (send .meshResp req [c, a] [] s)
    else
      let s := countMsd st 0x80 noIds 1 s
      let old := (lineAhead s a).getD []
      let new := patch old (a % 64) data
      let s := closeReads a old s
      { s with lineWrites := s.lineWrites ++ [⟨req, a / 64, new, xorBytes old new, false⟩] })

/-- PARITY_DELTA: step 3 of R219 for the oldest write of a line whose delta is not applied yet. -/
def execParityDelta (a : Nat) (s : State) : Host.Outcome State Fault Refusal :=
  .next (match s.lineWrites.find? (fun w => w.line == a / 64 && !w.applied) with
    | none => s
    | some w =>
      let s := { s with lineWrites := s.lineWrites.map (fun x => if x == w then { w with applied := true } else x) }
      applyDelta (stripeOf (stackOf a) (stackOff (a / 64 * 64))) w.delta s)

/-- PARITY_ACK: step 4 of R219: the oldest write of a line whose delta is applied is accepted. -/
def execParityAck (a : Nat) (s : State) : Host.Outcome State Fault Refusal :=
  .next (match s.lineWrites.find? (fun w => w.line == a / 64) with
    | none => s
    | some w => if w.applied then finishWrite w { s with lineWrites := s.lineWrites.erase w } else s)

/-! ### Refresh and temperature (07 R210, R211) -/

/-- REFRESH: the pseudo-channel's banks in turn. -/
def execRefresh (n pc : Nat) (s : State) : Host.Outcome State Fault Refusal :=
  onUnits n nMsd pc 32 s (fun s =>
    whenS (msdState s n != msFailed) (fun s =>
      let b := tabGet (fun _ => 0) s.refreshBank (32 * n + pc)
      countMsd n 0x83 noIds 1 { s with refreshBank := tabSet (fun _ => 0) s.refreshBank (32 * n + pc) ((b + 1) % 48) }) s)

/-- DRAM_TEMP_READ: `t` in °C. -/
def execDramTempRead (n t : Nat) (s : State) : Host.Outcome State Fault Refusal :=
  onUnit n nMsd s (fun s =>
    let s := setFld (rMsdStatus n) fMsdStatusDramTemp (min t 255) s
    let s := if 85 < t then setFld (rMsdStatus n) fMsdStatusRefreshX2 1 s
      else if t < 80 then setFld (rMsdStatus n) fMsdStatusRefreshX2 0 s else s
    let rest := s.dramHot.filter (· != n)
    updThrottle { s with dramHot := if 95 < t then n :: rest else rest })

/-! ### Failures and proxies (07 R221-R228) -/

/-- The writes in flight that lose their data or parity MSD fail at their sender with REMOTE_ERR, and so do the reads the MSD
has not answered (07 R224; 06 R192). -/
def abandonMsd (n : Nat) (s : State) : State :=
  let hit (w : LineWrite) : Bool :=
    let a := w.line * 64
    stackOf a == n || (parityAt (stripeOf (stackOf a) (stackOff a))).1 == n
  let undo (s : State) (w : LineWrite) : State :=
    let a := w.line * 64
    let z := stripeOf (stackOf a) (stackOff a)
    send .meshResp w.req [ccRemoteErr, a] [] (if w.applied && (parityAt z).1 != n then applyDelta z w.delta s else s)
  let ws := s.lineWrites.filter hit
  let s := ws.foldl undo { s with lineWrites := s.lineWrites.filter (fun w => !hit w) }
  let rs := s.lineReads.filter (fun r => stackOf r.addr == n)
  let s := rs.foldl (fun s r => sendRead r ccRemoteErr [] s) s
  { s with lineReads := s.lineReads.filter (fun r => stackOf r.addr != n) }

/-- An MSD declared failed: FAILED, DEGRADED, a record; a second failure, or the first with parity off, sets STACK_LOST (07
R221, R227). -/
def failMsd (n : Nat) (s : State) : State :=
  if msdState s n = msFailed then s
  else
    let second := !parityOn s || (List.range nMsd).any (fun m => m != n && msdState s m == msFailed)
    let s := setFld (rMsdStatus n) fMsdStatusState msFailed (abandonMsd n s)
    let s := updStatus s
    let s := addRecord { mkRecord 3 4 n 8 0 with action := 4 } s
    if second then addRecord (mkRecord 5 4 n 0x11 0) (setFld rBruFault fBruFaultStackLost 1 s) else s

/-- MSD_FAIL: `why` 0 its links, 1 training, 2 a second command/address parity error, 3 64 uncorrectable lines within one
second, which must then have been found, 4 its junction at 115 °C (14 R431). -/
def execMsdFail (n why : Nat) (s : State) : Host.Outcome State Fault Refusal :=
  onUnit n nMsd s (fun s =>
    whenS (why != 3 || 64 ≤ (s.badLines.filter (fun e => e.1 == n && s.beat < e.2 + 1000000000)).length) (failMsd n) s)

/-- An MSD put behind its proxy, whose reserve is empty at the start (07 R222). -/
def installProxy (n : Nat) (s : State) : State :=
  let q := proxyOf n
  let s := { s with proxied := n :: s.proxied.filter (· != n), buf := memZero s.buf (q * 2 ^ 26 + 0x400000) 0xC00000 }
  setFlds (rMsdStatus q) [(fMsdStatusProxy, 1), (fMsdStatusProxyOf, n)] s

/-- An MSD no longer behind its proxy. -/
def leaveProxy (n : Nat) (s : State) : State :=
  setFlds (rMsdStatus (proxyOf n)) [(fMsdStatusProxy, 0), (fMsdStatusProxyOf, 0)]
    { s with proxied := s.proxied.filter (· != n) }

/-- PROXY_INSTALL: at the named beat the proxy of a FAILED MSD, or of one on its way OFFLINE, takes over. -/
def execProxyInstall (n b : Nat) (s : State) : Host.Outcome State Fault Refusal :=
  onUnit n nMsd s (fun s =>
    let s := advanceTo b s
    let leaving := ((look s.calls (mbMsd n)).map (·.code)) == some 0x0702
    whenS (!s.proxied.contains n && (msdState s n == msFailed || leaving)) (fun s =>
      let s := if leaving then updStatus (setFld (rMsdStatus n) fMsdStatusState msOffline (abandonMsd n s)) else s
      installProxy n s) s)

/-- One unit of a stack rewritten from reconstruction. -/
def rebuildUnit (n u : Nat) (s : State) : State :=
  (List.range 64).foldl (fun s b =>
    let o := u * 4096 + 64 * b
    match rebuilt s n o with
    | some l => putLine n o l s
    | none => s) s

/-- The units still in the rebuild log of an MSD. -/
def rebuildLog (s : State) (n : Nat) : List Nat :=
  let base := proxyOf n * 2 ^ 26 + 0x3E00000
  (List.range (fld s (rMsdStatus n) fMsdStatusRebuildLeft)).map (fun i => leNat (memRead s.buf (base + 4 * i) 4))

/-- REBUILD_COMPLETE: a REBUILDING MSD has rewritten every logged unit, or its whole data and parity region where the log
overflowed; it leaves the proxy and is SERVING (07 R226). -/
def execRebuildComplete (n b : Nat) (s : State) : Host.Outcome State Fault Refusal :=
  onUnit n nMsd s (fun s =>
    let s := advanceTo b s
    whenS (msdState s n == msRebuilding) (fun s =>
      let units := if fld s (rMsdStatus n) fMsdStatusFullRebuild = 1 then List.range (parityBase / 4096) ++
          rangeFrom (parityBase / 4096) 589824 else rebuildLog s n
      let s := units.foldl (fun s u => rebuildUnit n u s) s
      let s := setFlds (rMsdStatus n) [(fMsdStatusState, msServing), (fMsdStatusRebuildLeft, 0), (fMsdStatusFullRebuild, 0)] s
      updStatus (leaveProxy n s)) s)

/-- PATROL_SCRUB: a line of a stack's data or parity region read, repaired if the ECC reports it uncorrected (`sev` 2), and
every parity line that disagrees with its stripe recomputed and reported (07 R248). `o` is the line's stack offset. -/
def execPatrolScrub (n o sev : Nat) (s : State) : Host.Outcome State Fault Refusal :=
  onUnit n nMsd s (fun s =>
    whenS (!msdDown s n && o < 0x900000000) (fun s =>
      let o := o / 64 * 64
      let s := if sev = 2 ∧ !s.hbmBad.contains (hkey n o / 64) then
          { s with hbmBad := hkey n o / 64 :: s.hbmBad, badLines := (n, s.beat) :: s.badLines } else s
      let s := if !lineUp s n o then (readLine n o s).2 else countMsd n 0x80 noIds 1 s
      match (if parityOn s && parityBase ≤ o && lineUp s n o then rebuilt s n o else none) with
      | none => s
      | some l =>
        if l = rawLine s n o then s
        else addRecord { mkRecord 2 4 n 0x14 0 with detail := natLe 8 o } (putLine n o l s)) s)

/-! ### The buffer (07 R215, R216) -/

/-- MSD_BUFFER_ACCESS: a read or write of a buffer arrives, at the MSD or at its proxy; `data` is empty for a read. -/
def execMsdBufferAccess (src : Source) (req n o size : Nat) (write : Bool) (data : List Byte) (s : State) :
    Host.Outcome State Fault Refusal :=
  onUnit n nMsd s (fun s =>
    let reply (c : Nat) (l : List Byte) (s : State) : State := answerWith c (l.map (·.toNat)) (send .meshResp req [c, o] l s)
    if 2 ^ 26 < o + size then reply ccUnmapped [] s
    else if !accessForm o size then reply ccAlign [] s
    else match bufPlace s n o with
      | .no c => reply c [] s
      | .at_ _ _ =>
        if write then
          let c := bufGuard s src n o size
          if c ≠ 0 then reply c [] s else reply stOk [] (bufWrite n o (padTo size data) s)
        else reply stOk (bufRead s n o size) s)

/-! ### Services (07 Table 07-12) -/

/-- STATUS. -/
def execMsdStatus (rid n : Nat) (s : State) : Host.Outcome State Fault Refusal :=
  onUnit n nMsd s (serviceRead (mbMsd n) 0x0701 rid [] (fun s => [rdN s (rMsdStatus n)]))

/-- OFFLINE: refused with OFFLINE_DENIED when parity is off or another MSD is not SERVING; it ends when the proxy has taken over.
An MSD that is not SERVING itself cannot be taken out (BAD_ARG, log 32). -/
def execOffline (rid n : Nat) (s : State) : Host.Outcome State Fault Refusal :=
  onUnit n nMsd s (service (mbMsd n) 0x0702 rid [] (fun s =>
    if !parityOn s || (List.range nMsd).any (fun m => m != n && msdState s m != msServing) then (.done 0x30 [], s)
    else if msdState s n ≠ msServing then (.done stBadArg [], s) else (.runs [], s)))

/-- ONLINE: BAD_ARG unless OFFLINE; it ends when the MSD is SERVING again. -/
def execOnline (rid n : Nat) (s : State) : Host.Outcome State Fault Refusal :=
  onUnit n nMsd s (service (mbMsd n) 0x0703 rid [] (fun s =>
    if msdState s n ≠ msOffline then (.done stBadArg [], s)
    else (.runs [], setFld (rMsdStatus n) fMsdStatusState msRebuilding s)))

/-- QUEUE_CLEAR: the queue returns to IDLE with its consumer index set to its producer index; QUEUE_ACTIVE unless ERROR. -/
def execQueueClear (rid n q : Nat) (s : State) : Host.Outcome State Fault Refusal :=
  onUnit n nMsd s (service (mbMsd n) 0x0704 rid [q] (fun s =>
    if 32 ≤ q then (.done stBadArg [], s)
    else
      let k := rMsdQueue n q
      let old := rdN s k
      if fld s k fMsdQueueState ≠ qsError then (.done 0x31 [], s)
      else (ok [old], setFlds k [(fMsdQueueState, qsIdle), (fMsdQueueCause, 0), (fMsdQueuePending, 0),
        (fMsdQueueConsumer, producerIdx s n q)] s)))

/-- PARITY_MODE: of MSD0 alone; EXPERT_OFF unless its EXPERT_EN.ENABLE is 1; the choice is kept in flash. -/
def execParityMode (rid n on : Nat) (s : State) : Host.Outcome State Fault Refusal :=
  onUnit n nMsd s (service (mbMsd n) 0x0705 rid [on] (fun s =>
    if n ≠ 0 then (.done stBadService [], s)
    else if rdN s (mbxExpertEn (mbMsd 0)) % 2 = 0 then (.done stExpertOff [], s)
    else if 1 < on then (.done stBadArg [], s)
    else (ok [], { s with parityFlash := on == 1 })))

/-- ERR_READ. -/
def execMsdErrRead (rid n : Nat) (s : State) : Host.Outcome State Fault Refusal :=
  onUnit n nMsd s (serviceRead (mbMsd n) 0x0706 rid [] (fun s =>
    rdN s (rMsdErr n) :: (List.range 3).map (fun i => rdN s (rMsdErrCnt n i))))

/-! ### The slot table (07 R235) -/

/-- The active slot table's word `i` of an MSD. -/
def slotWord (s : State) (n i : Nat) : Word := tabGet (fun j => regReset (rMsdSlot 0 (j % 8))) s.slotTab (8 * n + i)

/-- A write of MSD.SLOT_CTL: WORK_CONSERVE taken, APPLY requested (Table 07-12b). -/
def slotCtlWrite (n v : Nat) (s : State) : Nat × State :=
  let k := rMsdSlotCtl n
  (stOk, setFlds k [(fMsdSlotCtlWorkConserve, v % 2), (fMsdSlotCtlApply, if bitAt v 1 then 1 else fld s k fMsdSlotCtlApply)] s)

/-- SLOT_TABLE_SWITCH: slot 0 comes round; an applied shadow table becomes active. -/
def execSlotTableSwitch (n : Nat) (s : State) : Host.Outcome State Fault Refusal :=
  onUnit n nMsd s (fun s =>
    whenS (fld s (rMsdSlotCtl n) fMsdSlotCtlApply == 1) (fun s =>
      let s := (List.range 8).foldl (fun s i =>
        { s with slotTab := tabSet (fun j => regReset (rMsdSlot 0 (j % 8))) s.slotTab (8 * n + i) (rd s (rMsdSlot n i)) }) s
      setFld (rMsdSlotCtl n) fMsdSlotCtlApply 0 s) s)

end Sys2Proof.Machine
end

