-- ==== Sys2Proof/Machine/Engine.lean ====
section
/-! DEFINITION. The stack engines (07 R232-R246): queues, the checks of a command, attention, gather, top-k and digests, and the
completion or failure of a command. -/
namespace Sys2Proof.Machine

/-! ### Command fields (07 Table 07-6) -/

/-- Causes of Table 07-8. -/
def ecBadOpcode : Nat := 1
def ecBadDesc : Nat := 2
def ecAlign : Nat := 3
def ecUnmapped : Nat := 4
def ecAccess : Nat := 5
def ecWindowClosed : Nat := 6
def ecPageInvalid : Nat := 7
def ecBadIndex : Nat := 8
def ecDataLost : Nat := 9
def ecQueueOverrun : Nat := 0xA
def ecTargetRefused : Nat := 0xB
def ecRemoteErr : Nat := 0xC

def seOp (c : List Byte) : Nat := leAt 0 1 c
def seFlags (c : List Byte) : Nat := leAt 1 1 c
def seErrCont (c : List Byte) : Bool := bitAt (seFlags c) 0
def seTrace (c : List Byte) : Bool := bitAt (seFlags c) 1
def seCausal (c : List Byte) : Bool := bitAt (seFlags c) 2
def seDstWin (c : List Byte) : Bool := bitAt (seFlags c) 3
def seSrcWin (c : List Byte) : Bool := bitAt (seFlags c) 4
def seIds (c : List Byte) : Ids := ⟨leAt 4 4 c % 2 ^ 20, leAt 4 4 c / 2 ^ 20, leAt 2 2 c⟩
def seTarget (c : List Byte) : Nat := leAt 8 4 c
def seDoneAdd (c : List Byte) : Nat := leAt 0xC 1 c
def seDst (c : List Byte) : Nat := leAt 0x10 8 c

/-- The head dimension and bytes per element of an SE.ATTN (07 R239, Table 07-9). -/
def atD (c : List Byte) : Nat := 64 * 2 ^ (leAt 0x3E 1 c % 4)
def atFmt (c : List Byte) : Nat := leAt 0x3E 1 c / 16
def atElem (c : List Byte) : Nat := if atFmt c = 0 then 2 else 1
def atRows (c : List Byte) : Nat := leAt 0x3C 1 c * leAt 0x3D 1 c
def atTokens (c : List Byte) : Nat := leAt 0x28 4 c
def atPages (c : List Byte) : Nat := (atTokens c + 63) / 64
def atPageBytes (c : List Byte) : Nat := 128 * atD c * atElem c

/-- SE.TOPK's operands (07 R245). -/
def tkCount (c : List Byte) : Nat := leAt 0x28 4 c
def tkD (c : List Byte) : Nat := leAt 0x2C 2 c
def tkK (c : List Byte) : Nat := leAt 0x2E 2 c
def tkFmt (c : List Byte) : Nat := leAt 0x30 1 c
def tkCosine (c : List Byte) : Bool := leAt 0x31 1 c == 1
def tkStride (c : List Byte) : Nat := leAt 0x34 4 c
/-- Bytes of a vector. -/
def tkBytes (c : List Byte) : Nat := tkD c + (if tkCosine c then 4 else 0)

/-- Bytes an engine command writes at dst. -/
def seOutBytes (c : List Byte) : Nat :=
  match seOp c with
  | 1 => atRows c * (16 + 4 * atD c)
  | 2 => leAt 0x2C 4 c * leAt 0x28 4 c
  | 3 => 8 * tkK c
  | 4 => if leAt 0x28 4 c = 0 then 32 else 64
  | _ => 0

/-- Reserved fields 0 and fields in range (check 2). -/
def seFieldsOk (c : List Byte) : Bool :=
  let t := seTarget c
  seFlags c < 32 && leAt 0xD 3 c == 0 &&
  (seDoneAdd c == 0 || (t < 2 ^ 16 && (t % 1024 < 800 || t % 1024 == 1023) && t / 1024 < 56)) &&
  (!seDstWin c || (seDst c < 2 ^ 56 && waCluster (seDst c) < 800)) &&
  match seOp c with
  | 1 =>
    1 ≤ atTokens c && atTokens c ≤ 262144 && 1 ≤ leAt 0x3C 1 c && leAt 0x3C 1 c ≤ 16 && 1 ≤ leAt 0x3D 1 c &&
      leAt 0x3D 1 c ≤ 16 && atRows c ≤ 16 && leAt 0x3E 1 c % 4 != 3 && leAt 0x3E 1 c / 4 % 4 == 0 &&
      (atFmt c == 0 || atFmt c == 2 || atFmt c == 3) && leAt 0x3F 1 c == 0
  | 2 =>
    let rb := leAt 0x28 4 c
    64 ≤ rb && rb ≤ 65536 && rb % 64 == 0 && 1 ≤ leAt 0x2C 4 c && leAt 0x2C 4 c ≤ 4096
  | 3 =>
    1 ≤ tkCount c && 32 ≤ tkD c && tkD c ≤ 4096 && tkD c % 32 == 0 && 1 ≤ tkK c && tkK c ≤ 1024 &&
      (tkFmt c == 2 || tkFmt c == 4) && leAt 0x31 1 c ≤ 1 && 2 ^ log2 (tkStride c) == tkStride c &&
      tkBytes c ≤ tkStride c && tkStride c ≤ 65536
  | 4 => 1 ≤ leAt 0x20 8 c && leAt 0x20 8 c ≤ 2 ^ 36 && leAt 0x28 4 c ≤ 1
  | _ => true

/-- The addresses a command reads: address, bytes, whether a window, and whether HBM alone is allowed. -/
def seReads (c : List Byte) : List (Nat × Nat × Bool × Bool) :=
  let w := seSrcWin c
  match seOp c with
  | 1 => [(leAt 0x18 8 c, atRows c * atD c * 2, w, false), (leAt 0x20 8 c, 8 * atPages c, false, true)]
  | 2 => [(leAt 0x20 8 c, 4 * leAt 0x2C 4 c, w, false), (leAt 0x18 8 c, leAt 0x30 4 c * leAt 0x28 4 c, false, true)]
  | 3 => [(leAt 0x20 8 c, tkD c, w, false), (leAt 0x18 8 c, (tkCount c - 1) * tkStride c + tkBytes c, false, true)]
  | 4 => [(leAt 0x18 8 c, leAt 0x20 8 c, w, false)]
  | _ => []

/-- Addresses aligned as required (check 3); accesses are of 4 bytes at least (07 R215; log 33). -/
def seAligned (c : List Byte) : Bool :=
  let a := leAt 0x18 8 c
  let b := leAt 0x20 8 c
  match seOp c with
  | 1 => a % 4 == 0 && b % 8 == 0 && seDst c % 4 == 0
  | 2 => a % 64 == 0 && b % 4 == 0 && seDst c % 4 == 0
  | 3 => a % 64 == 0 && b % 4 == 0 && seDst c % 4 == 0
  | 4 => a % 64 == 0 && seDst c % 4 == 0
  | _ => true

/-- Whether an engine of MSDn may write a run: the cause, 0 where it may. -/
def seMayWrite (s : State) (n a k : Nat) : Nat :=
  match rangeAt s a k with
  | .none => ecUnmapped
  | .control _ | .spm _ _ => ecAccess
  | .hbm => if hbmGuarded s (srcMsd n) a k then ecAccess else 0
  | .buf m o => if bufGuard s (srcMsd n) m o k = 0 then 0 else ecAccess
  | .companion => 0

/-- The checks of R237 in order: the cause, 0 where the command passes. -/
def seCheck (s : State) (n : Nat) (c : List Byte) : Nat :=
  if 5 < seOp c then ecBadOpcode
  else if !seFieldsOk c then ecBadDesc
  else if !seAligned c then ecAlign
  else
    let one (e : Nat × Nat × Bool × Bool) : Nat :=
      if e.2.2.1 then 0
      else match rangeAt s e.1 e.2.1 with
        | .none => ecUnmapped
        | .control _ | .spm _ _ => ecAccess
        | .hbm => 0
        | _ => if e.2.2.2 then ecUnmapped else 0
    match ((seReads c).map one).find? (· != 0) with
    | some k => k
    | none => if seOutBytes c = 0 ∨ seDstWin c then 0 else seMayWrite s n (seDst c) (seOutBytes c)

/-! ### Reading and writing (07 R237) -/

/-- The unit number of an engine queue. -/
def seUnit (n q : Nat) : Nat := 2 ^ 21 + 32 * n + q

/-- The engine's cause for an access that was refused. -/
def seCause (hbm : Bool) (k : Nat) : Nat :=
  if k = ccAlign then ecAlign else if k = ccUnmapped then ecUnmapped else if k = ccAccess then ecAccess
  else if k = ccWindowClosed then ecWindowClosed else if hbm then ecDataLost else ecRemoteErr

/-- Bytes read by an engine from a device address or a window. -/
def seRead (n q : Nat) (win : Bool) (a k : Nat) (s : State) : DevOut × State :=
  if win then
    let r := (accesses (waOff a) k).foldl (fun (acc : Nat × List Byte × State) e =>
      if acc.1 ≠ 0 then acc
      else
        let (st, l, s) := windowDo (srcMsd n) (waCluster a) (waWin a) (waGen a) e.1 e.2 false [] acc.2.2
        (st, acc.2.1 ++ l, s)) (0, [], s)
    if r.1 = 0 then (.ok r.2.1, r.2.2) else (.no (seCause false r.1), r.2.2)
  else
    let hbm := match rangeAt s a k with | .hbm => true | _ => false
    match devRead (srcMsd n) (seUnit n q) a k s with
    | (.no c, s) => (.no (seCause hbm c), s)
    | r => r

/-- Bytes written by an engine to a device address or a window, `off` bytes from it. -/
def seWrite (n q : Nat) (win : Bool) (a off : Nat) (l : List Byte) (s : State) : DevOut × State :=
  if win then
    let r := (accesses (waOff a + off) l.length).foldl (fun (acc : Nat × State) e =>
      if acc.1 ≠ 0 then acc
      else
        let (st, _, s) := windowDo (srcMsd n) (waCluster a) (waWin a) (waGen a) e.1 e.2 true
          (slice (e.1 - (waOff a + off)) e.2 l) acc.2
        (st, s)) (0, s)
    if r.1 = 0 then (.ok [], r.2) else (.no (seCause false r.1), r.2)
  else
    let hbm := match rangeAt s (a + off) l.length with | .hbm => true | _ => false
    match devWrite (srcMsd n) (seUnit n q) (a + off) l s with
    | (.no c, s) => (.no (seCause hbm c), s)
    | r => r

/-- What follows a read or write that has gone through. -/
def devThen (r : DevOut × State) (f : List Byte → State → DevOut × State) : DevOut × State :=
  match r with
  | (.ok l, s) => f l s
  | r => r

/-! ### Queues, start and end of a command (07 R234, R237, R238) -/

/-- The running command of a queue. -/
def engOf (s : State) (n q : Nat) : Option EngCmd := look s.engines (32 * n + q)
def setEng (n q : Nat) (e : EngCmd) (s : State) : State := { s with engines := tabPut (32 * n + q) e s.engines }

/-- A command is over: the consumer index moves on, unless the queue was emptied under it (08 R275, 15 R454). -/
def engNext (n q : Nat) (s : State) : State :=
  let k := rMsdQueue n q
  let step := bit ((engOf s n q).any (·.queued))
  doorbell n q (setFld k fMsdQueueConsumer ((fld s k fMsdQueueConsumer + step) % 2 ^ 32)
    { s with engines := tabDel (32 * n + q) s.engines })

/-- done_add sent to its target (07 R238; 04 R125); the CID keeps its own semaphores to itself. The status of the target. -/
def doneSignal (target add : Nat) (s : State) : Nat × State :=
  let t := target % 1024
  if add = 0 then (stOk, s)
  else if t = 1023 then (stOk, send .signal 0xFFFF [1023, target / 1024 % 64, add] [] s)
  else signalApply t (target / 1024 % 64) add s

/-- A command fails (07 R238). -/
def seFail (n q : Nat) (c : List Byte) (cause : Nat) (s : State) : State :=
  let i := seIds c
  let s := setFlds (rMsdErr n) [(fMsdErrOpId, i.op), (fMsdErrLayerId, i.layer), (fMsdErrSeq, i.seq), (fMsdErrCause, cause),
    (fMsdErrQueue, q)] s
  let s := raiseMsd n meErr s
  let s := traceRec (1000 + n) 3 q i (natLe 1 cause) s
  let s := addRecord { mkRecord (if cause = ecDataLost ∨ cause = ecRemoteErr then 2 else 6) 4 n 0x18 cause with
    op := i.op, layer := i.layer, seq := i.seq, detail := natLe 4 q } s
  let s := engNext n q s
  if seErrCont c then (if cause = ecTargetRefused then s else (doneSignal (seTarget c) (seDoneAdd c) s).2)
  else setFlds (rMsdQueue n q) [(fMsdQueueState, qsError), (fMsdQueueCause, cause)] s

/-- Whether an MSD's engine works: it serves, or its proxy runs its queues (07 R222). -/
def engUp (s : State) (n : Nat) : Bool :=
  match bufPlace s n 0 with
  | .at_ _ _ => msdState s n == msServing || s.proxied.contains n
  | .no _ => false

/-- ENGINE_DOORBELL: a producer writes the producer index of a queue. -/
def execEngineDoorbell (src : Source) (n q idx : Nat) (s : State) : Host.Outcome State Fault Refusal :=
  onUnits n nMsd q 32 s (fun s =>
    let o := q * 0x20000 + 0x1FFC0
    match bufPlace s n o with
    | .no c => answerWith c [] s
    | .at_ _ _ =>
      let c := bufGuard s src n o 4
      if c ≠ 0 then answerWith c [] s else answerWith stOk [] (bufWrite n o (natLe 4 idx) s))

/-- SE_COMMAND_START: the next command of a queue starts and is checked. -/
def execSeCommandStart (n q : Nat) (s : State) : Host.Outcome State Fault Refusal :=
  onUnits n nMsd q 32 s (fun s =>
    let k := rMsdQueue n q
    whenS (engUp s n && fld s k fMsdQueueState == qsActive && fld s k fMsdQueuePending != 0 && (engOf s n q).isNone) (fun s =>
      let c := bufRead s n (q * 0x20000 + 64 * (fld s k fMsdQueueConsumer % 2047)) 64
      let s := if seTrace c then traceRec (1000 + n) 0x10 q (seIds c) [] s else s
      let s := setEng n q ⟨c, false, true, leafCount s (leafMsd n)⟩ s
      let cause := seCheck s n c
      if cause ≠ 0 then seFail n q c cause s else s) s)

/-- The work of a command with opcode `op`: done, waiting for lines, or failed. -/
def seWork (n q op : Nat) (work : List Byte → State → DevOut × State) (s : State) : State :=
  match engOf s n q with
  | none => s
  | some e =>
    if e.ran ∨ seOp e.bytes ≠ op ∨ engUp s n = false then s
    else match work e.bytes s with
      | (.ok _, s) => setEng n q { e with ran := true } s
      | (.wait, s) => s
      | (.no k, s) => seFail n q e.bytes k s

/-- SE.NOP. -/
def execSeNop (n q : Nat) (s : State) : Host.Outcome State Fault Refusal :=
  onUnits n nMsd q 32 s (seWork n q 0 (fun _ s => (.ok [], s)))

/-- SE.FENCE: the commands of a queue run one at a time, so every earlier one has completed. -/
def execSeFence (n q : Nat) (s : State) : Host.Outcome State Fault Refusal :=
  onUnits n nMsd q 32 s (seWork n q 5 (fun _ s => (.ok [], s)))

/-- SE_COMMAND_COMPLETE: every result write has been accepted; done_add goes to its target, whose refusal fails the command. -/
def execSeCommandComplete (n q : Nat) (s : State) : Host.Outcome State Fault Refusal :=
  onUnits n nMsd q 32 s (fun s =>
    match engOf s n q with
    | none => s
    | some e =>
      let u := seUnit n q
      if !e.ran || serBusy s u then s
      else if s.serErrs.contains u then seFail n q e.bytes ecRemoteErr { s with serErrs := s.serErrs.filter (· != u) }
      else
        let (st, s) := doneSignal (seTarget e.bytes) (seDoneAdd e.bytes) s
        if st ≠ stOk then seFail n q e.bytes ecTargetRefused s
        else
          let s := if seTrace e.bytes then
              let (c, s) := takeFree 32 s
              traceRec (1000 + n) 0x11 q (seIds e.bytes) (natLe 4 c) s
            else s
          engNext n q s)

/-! ### Attention (07 R239-R243) -/

/-- The sum of products in blocks of 32: each block by the balanced tree, the block values by the four accumulators (03 R92,
R98 steps 3 and 4). -/
def blockDot (l : List Nat) : Nat :=
  let u := (chunksOf 0 32 l.length l).map (treeSum 5)
  add32 (add32 (accSum u 0) (accSum u 1)) (add32 (accSum u 2) (accSum u 3))

/-- An element widened exactly to FP32. -/
def widen (fmt x : Nat) : Nat := to32 (elemNum fmt x)

/-- The elements of `d` codes packed in a list of bytes. -/
def elemsOf (fmt d : Nat) (l : List Byte) : List Nat :=
  (List.range d).map (fun i => widen fmt (packedElem fmt i l))

/-- A query row's running state: m, s and o (07 R242). -/
structure AttnRow where
  m : Nat
  s : Nat
  o : List Nat
deriving DecidableEq, Repr

/-- The row before its first page. -/
def AttnRow.start (d : Nat) : AttnRow := ⟨ninf32, 0, List.replicate d 0⟩

/-- One page of a row: `idx` is the page's number, `kv` its bytes, `q` the row's query, `pos` its token position. -/
def attnPage (c : List Byte) (q : List Nat) (pos idx : Nat) (kv : List Byte) (r : AttnRow) : AttnRow :=
  let d := atD c
  let e := atElem c
  let ok (t : Nat) : Bool := decide (64 * idx + t < atTokens c) && (!seCausal c || decide (64 * idx + t ≤ pos))
  let x := (List.range 64).map (fun t =>
    if ok t then
      let k := elemsOf (atFmt c) d (kv.drop (t * d * e))
      mul32 (mul32 (blockDot (List.zipWith mul32 q k)) (leAt 0x30 4 c)) (leAt 0x38 4 c)
    else ninf32)
  let mn := max32 r.m (maxRow x)
  if mn = ninf32 then r
  else
    let f := exp32 true (sub32 r.m mn)
    let pr := x.map (fun v => exp32 true (sub32 v mn))
    let v := (List.range 64).map (fun t => elemsOf (atFmt c) d (kv.drop ((64 + t) * d * e)))
    let o := (List.range d).map (fun i => add32 (mul32 (r.o.getD i 0) f) (tree64 ((List.range 64).map (fun t =>
      if ok t then mul32 (pr.getD t 0) ((v.getD t []).getD i 0) else 0))))
    ⟨mn, add32 (mul32 r.s f) (tree64 pr), o⟩

/-- A row's record (07 R243). -/
def attnRecord (c : List Byte) (r : AttnRow) : List Byte :=
  natLe 4 r.m ++ natLe 4 r.s ++ natLe 8 0 ++ (r.o.map (fun x => natLe 4 (mul32 x (leAt 0x34 4 c)))).flatten

/-- A list in an order that free values decide: the order in which page reads complete (03 R105; log 5). -/
def freeOrder : Nat → List (Nat × Nat) → State → List (Nat × Nat) × State
  | 0, l, s => (l, s)
  | n + 1, l, s =>
    if l.isEmpty then ([], s)
    else
      let (x, s) := takeFree 32 s
      let i := x % l.length
      let (t, s) := freeOrder n (l.eraseIdx i) s
      (l.getD i (0, 0) :: t, s)

/-- The pages of a sequence held by stack `n`, by number and base, or the cause the table fails with. -/
def attnPages (s : State) (n : Nat) (c : List Byte) (table : List Byte) : Except Nat (List (Nat × Nat)) :=
  let es := (List.range (atPages c)).map (fun p => (p, leAt (8 * p) 8 table))
  let b := atPageBytes c
  let base (e : Nat) : Nat := e % 2 ^ 28 * 4096
  match es.find? (fun e => !bitAt e.2 63 || base e.2 % b != 0 || hbmTop s < base e.2 + b) with
  | some e => .error (if !bitAt e.2 63 || base e.2 % b != 0 then ecPageInvalid else ecUnmapped)
  | none => .ok ((es.filter (fun e => stackOf (base e.2) == n)).map (fun e => (e.1, base e.2)))

/-- The bytes of the pages, each read after the entry that names it (07 R232). -/
def readPages (n q bytes : Nat) : List (Nat × Nat) → State → Except (DevOut × State) (List (Nat × List Byte) × State)
  | [], s => .ok ([], s)
  | p :: t, s => match seRead n q false p.2 bytes s with
    | (.ok l, s) => match readPages n q bytes t s with
      | .ok (r, s) => .ok ((p.1, l) :: r, s)
      | .error e => .error e
    | e => .error e

/-- Whether the active image runs the part in reproducible mode (03 R106). -/
def reproMode (s : State) : Bool := (look s.images 0).isNone || imgLe s 0 0x58 1 == 1

/-- SE.ATTN's work. -/
def attnWork (n q : Nat) (c : List Byte) (s : State) : DevOut × State :=
  devThen (seRead n q (seSrcWin c) (leAt 0x18 8 c) (atRows c * atD c * 2) s) (fun qs s =>
    devThen (seRead n q false (leAt 0x20 8 c) (8 * atPages c) s) (fun table s =>
      match attnPages s n c table with
      | .error k => (.no k, s)
      | .ok pages =>
        let (pages, s) := if reproMode s then (pages, s) else freeOrder pages.length pages s
        match readPages n q (atPageBytes c) pages s with
        | .error e => e
        | .ok (kvs, s) =>
          let d := atD c
          let rows := (List.range (atRows c)).map (fun r =>
            let qr := elemsOf 0 d (qs.drop (r * d * 2))
            let pos := leAt 0x2C 4 c + r % leAt 0x3D 1 c
            attnRecord c (kvs.foldl (fun z e => attnPage c qr pos e.1 e.2 z) (AttnRow.start d)))
          let s := countMsd n 0x88 (seIds c) (kvs.length * 128 * d * atRows c) s
          seWrite n q (seDstWin c) (seDst c) 0 rows.flatten s))

/-- SE.ATTN. -/
def execSeAttn (n q : Nat) (s : State) : Host.Outcome State Fault Refusal :=
  onUnits n nMsd q 32 s (seWork n q 1 (attnWork n q))

/-! ### Gather, top-k, digest (07 R244-R246) -/

/-- The rows of a gather, in order. -/
def gatherRows (n q : Nat) (c : List Byte) : List (Nat × Nat) → State → DevOut × State
  | [], s => (.ok [], s)
  | (j, x) :: t, s =>
    let rb := leAt 0x28 4 c
    if leAt 0x30 4 c ≤ x then (.no ecBadIndex, s)
    else devThen (seRead n q false (leAt 0x18 8 c + x * rb) rb s) (fun l s =>
      devThen (seWrite n q (seDstWin c) (seDst c) (j * rb) l s) (fun _ s => gatherRows n q c t s))

/-- SE.GATHER. -/
def execSeGather (n q : Nat) (s : State) : Host.Outcome State Fault Refusal :=
  onUnits n nMsd q 32 s (seWork n q 2 (fun c s =>
    let count := leAt 0x2C 4 c
    devThen (seRead n q (seSrcWin c) (leAt 0x20 8 c) (4 * count) s) (fun ix s =>
      gatherRows n q c ((List.range count).map (fun j => (j, leAt (4 * j) 4 ix))) s)))

/-- The score of a vector (07 R245). -/
def topkScore (c qv vec : List Byte) : Nat :=
  let d := tkD c
  let f := tkFmt c
  let sum := if f = 4 then
      to32 (numInt ((List.range d).foldl (fun acc i => acc + toSigned 8 (leAt i 1 qv) * toSigned 8 (leAt i 1 vec)) 0))
    else blockDot ((List.range d).map (fun i => product32 (elemNum f (leAt i 1 qv)) (elemNum f (leAt i 1 vec))))
  let x := mul32 sum (leAt 0x38 4 c)
  if tkCosine c then mul32 x (leAt d 4 vec) else x

/-- Whether score record `a` comes before `b`: by decreasing score, the lower index first on ties, NaN after every other. -/
def scoreBefore (a b : Nat × Nat) : Bool :=
  let key (x : Nat) : Int := if signOf32 x then -((x % 2 ^ 31 : Nat) : Int) else ((x % 2 ^ 31 : Nat) : Int)
  match isNan32 a.1, isNan32 b.1 with
  | true, true => decide (a.2 < b.2)
  | true, false => false
  | false, true => true
  | false, false => decide (key b.1 < key a.1) || (key a.1 == key b.1 && decide (a.2 < b.2))

/-- A record put in its place among at most `k`. -/
def scoreInsert (k : Nat) (x : Nat × Nat) (l : List (Nat × Nat)) : List (Nat × Nat) :=
  (l.takeWhile (fun y => scoreBefore y x) ++ x :: l.dropWhile (fun y => scoreBefore y x)).take k

/-- The best `k` records of the vectors in stack `n`. -/
def topkScan (n q : Nat) (c qv : List Byte) : List Nat → List (Nat × Nat) → State → Except (DevOut × State) (List (Nat × Nat) × State)
  | [], best, s => .ok (best, s)
  | v :: t, best, s =>
    let a := leAt 0x18 8 c + v * tkStride c
    if stackOf a ≠ n then topkScan n q c qv t best s
    else match seRead n q false a (tkBytes c) s with
      | (.ok l, s) => topkScan n q c qv t (scoreInsert (tkK c) (topkScore c qv l, v) best) (countMsd n 0x8A (seIds c) 1 s)
      | e => .error e

/-- SE.TOPK. -/
def execSeTopk (n q : Nat) (s : State) : Host.Outcome State Fault Refusal :=
  onUnits n nMsd q 32 s (seWork n q 3 (fun c s =>
    devThen (seRead n q (seSrcWin c) (leAt 0x20 8 c) (tkD c) s) (fun qv s =>
      match topkScan n q c qv (List.range (tkCount c)) [] s with
      | .error e => e
      | .ok (best, s) =>
        let best := best ++ List.replicate (tkK c - best.length) (ninf32, 0xFFFFFFFF)
        seWrite n q (seDstWin c) (seDst c) 0 (best.map (fun e => natLe 4 e.1 ++ natLe 4 e.2)).flatten s)))

/-- SE.DIGEST. -/
def execSeDigest (n q : Nat) (s : State) : Host.Outcome State Fault Refusal :=
  onUnits n nMsd q 32 s (seWork n q 4 (fun c s =>
    let len := leAt 0x20 8 c
    devThen (seRead n q (seSrcWin c) (leAt 0x18 8 c) len s) (fun l s =>
      let s := countMsd n 0x8B (seIds c) ((len + 63) / 64) s
      seWrite n q (seDstWin c) (seDst c) 0 (shake256 (seOutBytes c) (slice 0x30 16 c ++ l)) s)))

end Sys2Proof.Machine
end

