-- ==== Sys2Proof/Machine/Serica.lean ====
section
/-! DEFINITION. Serica Link's messages: coherent requests and evictions of a companion (12 R345-R352), answers to snoops,
responses to the part's own requests and snoops of its cache (R344, R353), and ownership (R360-R363). -/
namespace Sys2Proof.Machine

/-! ### Coherent requests (12 R345, R346, R351) -/

/-- Whether a companion request's tag is outstanding (12 R346). -/
def tagBusy (s : State) (port tag : Nat) : Bool := s.home.any (fun t => t.port == port && t.tag == tag)

/-- A coherent request of a companion: accepted for lines of the coherent region alone (12 R345). -/
def coherentReq (port op tag line : Nat) (data : List Byte) (s : State) : State :=
  if !portLive s port then s
  else if tagBusy s port tag then serErrAnswer port tag erTagBusy s
  else if companionBase ≤ line * 64 then serErrAnswer port tag stUnmapped s
  else if !(line * 64 < hbmTop s && coherent s line) then
    serErrAnswer port tag (if rangeAt s (line * 64) 64 = .none then stUnmapped else erNotCacheable) s
  else homePut ⟨port, tag, op, line, 0, data, false, false, [], [], false, none⟩ s

/-- RD_SHARED. -/
def execRdShared (port tag line : Nat) (s : State) : Host.Outcome State Fault Refusal :=
  onUnit port 2 s (coherentReq port soRdShared tag line [])

/-- RD_OWN. -/
def execRdOwn (port tag line : Nat) (s : State) : Host.Outcome State Fault Refusal :=
  onUnit port 2 s (coherentReq port soRdOwn tag line [])

/-- UPGRADE. -/
def execUpgrade (port tag line : Nat) (s : State) : Host.Outcome State Fault Refusal :=
  onUnit port 2 s (coherentReq port soUpgrade tag line [])

/-- A transaction of the home agent replaced. -/
def homeSet (t t' : HomeTx) (s : State) : State := { s with home := s.home.map (fun x => if x == t then t' else x) }

/-- The eviction that a snoop waits for, applied ahead of the line's order (12 R352): its data goes to HBM. -/
def takeEviction (t : HomeTx) (agent : Nat) (data : Option (List Byte)) (s : State) : State :=
  let s := match data with
    | some l => (hbmWrite (t.line * 64) (padTo 64 l) s).2
    | none => s
  let s := setFilter t.line false (((held? s t.line).map (·.holders)).getD [] |>.filter (· != agent)) s
  homeSet t { t with evict := t.evict.filter (· != agent) } s

/-- An eviction by a companion: taken at once where a snoop of its line waits for it, else in the line's order. -/
def evictReq (port op tag line : Nat) (data : List Byte) (s : State) : State :=
  let x := agentOf s port
  match s.home.find? (fun t => t.line == line && t.started && t.evict.contains x) with
  | some t =>
    if tagBusy s port tag then serErrAnswer port tag erTagBusy s
    else
      let s := takeEviction t x (if op = soEvictDirty then some data else none) s
      homeRun (serSend port 1 0x20 tag 0 0 line [] s)
  | none => coherentReq port op tag line data s

/-- EVICT_DIRTY. -/
def execEvictDirty (port tag line : Nat) (data : List Byte) (s : State) : Host.Outcome State Fault Refusal :=
  onUnit port 2 s (fun s => whenS (portLive s port) (evictReq port soEvictDirty tag line data) s)

/-- EVICT_CLEAN. -/
def execEvictClean (port tag line : Nat) (s : State) : Host.Outcome State Fault Refusal :=
  onUnit port 2 s (fun s => whenS (portLive s port) (evictReq port soEvictClean tag line []) s)

/-! ### Answers to snoops (12 R351, R352) -/

/-- The transaction whose snoop of agent `x` for a line is open. -/
def snooped (s : State) (x tag line : Nat) : Option HomeTx :=
  s.home.find? (fun t => t.started && t.line == line && t.tag == tag && t.pend.contains x)

/-- A snoop answered: the line is left in state S or I by agent `x`. -/
def snoopLeft (t : HomeTx) (x state : Nat) (s : State) : State :=
  let hs := ((held? s t.line).map (·.holders)).getD []
  let s := setFilter t.line false (if state = 0 then hs.filter (· != x) else hs) s
  homeSet t { t with pend := t.pend.filter (· != x) } s

/-- SNP_ACK: an agent that held the line in E and answers I has an eviction of it on the way, or queued (12 R352). -/
def execSnpAck (port tag line state : Nat) (s : State) : Host.Outcome State Fault Refusal :=
  onUnit port 2 s (fun s =>
    let x := agentOf s port
    match (if portLive s port then snooped s x tag line else none) with
    | none => s
    | some t =>
      let excl := ((held? s line).map (fun e => e.excl && e.holders.contains x)).getD false
      if state = 0 ∧ excl then
        let t' := { t with pend := t.pend.filter (· != x), evict := t.evict ++ [x] }
        let s := homeSet t t' s
        match s.home.find? (fun e => e.line == line && !e.started && (e.op == soEvictDirty || e.op == soEvictClean) &&
            agentOf s e.port == x) with
        | some e =>
          let s := takeEviction t' x (if e.op = soEvictDirty then some e.data else none) { s with home := s.home.erase e }
          homeRun (serSend e.port 1 0x20 e.tag 0 0 line [] s)
        | none => s
      else homeRun (snoopLeft t x state s))

/-- SNP_DATA: dirty data goes to HBM before the requester's response. -/
def execSnpData (port tag line state : Nat) (data : List Byte) (s : State) : Host.Outcome State Fault Refusal :=
  onUnit port 2 s (fun s =>
    let x := agentOf s port
    match (if portLive s port then snooped s x tag line else none) with
    | none => s
    | some t => homeRun (snoopLeft t x state (hbmWrite (line * 64) (padTo 64 data) s).2))

/-- SNOOP_EVICT_TIMEOUT: no eviction within 1 ms: the home keeps the HBM value and sets LOST_LINE. -/
def execSnoopEvictTimeout (line : Nat) (s : State) : Host.Outcome State Fault Refusal :=
  .next (match s.home.find? (fun t => t.line == line && t.started && !t.evict.isEmpty) with
    | none => s
    | some t =>
      let s := t.evict.foldl (fun s x => serErr x seLost s) s
      let hs := ((held? s line).map (·.holders)).getD []
      let s := setFilter line false (hs.filter (fun h => !t.evict.contains h)) s
      homeRun (homeSet t { t with evict := [] } s))

/-- HOME_AGENT_ACCESS: a unit reads or writes bytes of a line of the coherent region (12 R349, R351). -/
def execHomeAgentAccess (src : Source) (tag a size : Nat) (write : Bool) (data : List Byte) (s : State) :
    Host.Outcome State Fault Refusal :=
  .next (
    let line := a / 64
    if !(coherent s line) ∨ hbmCheck s a size ≠ 0 then s
    else if write && hbmGuarded s src a size then answerWith ccAccess [] (send .meshResp tag [ccAccess, a] [] s)
    else homePut ⟨3, tag, if write then soPartWrite else soPartRead, line, a % 64,
      if write then padTo size data else List.replicate size 0, false, false, [], [], false, none⟩ s)

/-! ### Responses to the part's requests (12 R344, R346, R353, R355) -/

/-- The outstanding request of the part with a tag on a port, taken out. -/
def takeReq (port tag : Nat) (f : SerReq → State → State) (s : State) : State :=
  match s.serReqs.find? (fun r => r.port == port && r.tag == tag) with
  | none => s
  | some r => serNext port (f r (updOutstanding { s with serReqs := s.serReqs.erase r }))

/-- CMP. -/
def execCmp (port tag : Nat) (s : State) : Host.Outcome State Fault Refusal :=
  onUnit port 2 s (fun s => whenS (portLive s port) (takeReq port tag (fun _ s => s)) s)

/-- CMP_DATA: the line goes into the companion-line cache in the state granted, or to its unit where it was read uncached. -/
def execCmpData (port tag state : Nat) (data : List Byte) (s : State) : Host.Outcome State Fault Refusal :=
  onUnit port 2 s (fun s => whenS (portLive s port) (takeReq port tag (fun r s =>
    let c : CacheLine := ⟨r.line, port, state, padTo 64 data⟩
    if r.op = soRdNc ∨ state = 0 then { s with uncached := c :: s.uncached } else cachePut c s)) s)

/-- A request of the part that has failed: its unit records REMOTE_ERR. -/
def reqFailed (r : SerReq) (s : State) : State := { s with serErrs := r.unit :: s.serErrs }

/-- ERR_RESPONSE. -/
def execErrResponse (port tag status : Nat) (s : State) : Host.Outcome State Fault Refusal :=
  onUnit port 2 s (fun s => whenS (portLive s port) (takeReq port tag (fun r s => answerWith status [] (reqFailed r s))) s)

/-- SER_REQUEST_TIMEOUT. -/
def execSerRequestTimeout (port tag : Nat) (s : State) : Host.Outcome State Fault Refusal :=
  onUnit port 2 s (takeReq port tag (fun r s => serErr port seTimeout (answerWith erTimeout [] (reqFailed r s))))

/-- SNP_INV: the companion-line cache drops a line: a modified one goes back with the answer, an exclusive one is evicted
first (12 R352). -/
def execSnpInv (port tag line : Nat) (s : State) : Host.Outcome State Fault Refusal :=
  onUnit port 2 s (fun s => whenS (portLive s port) (fun s =>
    match cached s line with
    | none => serSend port 1 0x23 tag 0 0 line [] s
    | some c =>
      let s := { s with cache := s.cache.filter (fun x => x.line != line) }
      if c.state = 3 then serSend port 1 0x24 tag 0 0 line c.data s
      else
        let s := if c.state = 2 then serRequest soEvictClean line 0 [] s else s
        serSend port 1 0x23 tag 0 0 line [] s) s)

/-- SNP_SHARE: at most a shared copy stays; dirty data goes back. -/
def execSnpShare (port tag line : Nat) (s : State) : Host.Outcome State Fault Refusal :=
  onUnit port 2 s (fun s => whenS (portLive s port) (fun s =>
    match cached s line with
    | none => serSend port 1 0x23 tag 0 0 line [] s
    | some c =>
      let s := { s with cache := s.cache.map (fun x => if x.line == line then { x with state := 1 } else x) }
      if c.state = 3 then serSend port 1 0x24 tag 0 1 line c.data s else serSend port 1 0x23 tag 0 1 line [] s) s)

/-- SER_FLIT_REPLAY. -/
def execSerFlitReplay (port : Nat) (s : State) : Host.Outcome State Fault Refusal :=
  onUnit port 2 s (fun s => whenS (portState s port != psDown && portState s port != psDetached) (serErr port seReplay) s)

/-! ### Ownership (12 R360-R363) -/

/-- The candidate of a requestor's path (Table 12-8). -/
def candOf (rid : Nat) : Option Nat :=
  match rid / 2 ^ 13 with
  | 0 => some 0 | 1 => some 1 | 2 => some 0 | 3 => some 2 | 4 => some 3 | _ => none

/-- A candidate's standing priority, 0 where it does not stand, and its requestor. -/
def standing (s : State) (c : Nat) : Nat := rdN s (rSerCand c) % 16
def standingRid (s : State) (c : Nat) : Nat := rdN s (rSerCand c) / 2 ^ 48

/-- SER.OWNER's fields at a change of state; the requestor changes with `rid`. -/
def setOwner (st rid cand offer : Nat) (s : State) : State :=
  let changed := fld s rSerOwner fSerOwnerRid != rid || (fld s rSerOwner fSerOwnerState < 2 && 2 ≤ st) ||
    (2 ≤ fld s rSerOwner fSerOwnerState && st < 2)
  let s := setFlds rSerOwner [(fSerOwnerState, st), (fSerOwnerRid, rid), (fSerOwnerCand, cand), (fSerOwnerOfferTo, offer)] s
  if changed then faultEvt 3 rid (setFld rSerOwner fSerOwnerChanged 1 s) else s

/-- Ownership state of SER.OWNER. -/
def ownerState (s : State) : Nat := fld s rSerOwner fSerOwnerState

/-- An election opens; it closes 10 ms later (Table 12-9). -/
def openElection (at_ : Nat) (s : State) : State :=
  setOwner osElecting 0 0 0 (wr rSerLeaseEnd (BitVec.ofNat 64 (at_ + 10000000)) s)

/-- The end of an owner's lease: its standing and every grant are removed, and an election opens. -/
def endLease (at_ : Nat) (s : State) : State :=
  let s := wr (rSerCand (fld s rSerOwner fSerOwnerCand)) 0 s
  let s := (List.range 16).foldl (fun s g => wr (rSerGrant g) 0 s) s
  openElection at_ s

/-- A write of SER.OWN_CMD by a requestor (Table 12-9): its status. -/
def ownCmd (rid v : Nat) (s : State) : Nat × State :=
  let cmd := bitsAt 60 4 v
  let arg := bitsAt 4 4 v
  match candOf rid with
  | none => (stBadArg, s)
  | some c =>
    match cmd with
    | 1 =>
      if arg = 0 then (stBadArg, s)
      else
        let s := wr (rSerCand c) (BitVec.ofNat 64 (rid * 2 ^ 48 + arg)) s
        (stOk, if ownerState s = osNone then openElection s.beat s else s)
    | 2 =>
      let s := wr (rSerCand c) 0 s
      (stOk, if ownerState s = osOffered ∧ fld s rSerOwner fSerOwnerOfferTo = c then
          setFlds rSerOwner [(fSerOwnerState, osOwned), (fSerOwnerOfferTo, 0)] s
        else s)
    | 3 => if isOwner s rid then (stOk, wr rSerLeaseEnd (BitVec.ofNat 64 (s.beat + 100000000)) s) else (stNotOwner, s)
    | 4 => if isOwner s rid then (stOk, endLease s.beat s) else (stNotOwner, s)
    | 5 =>
      if !isOwner s rid then (stNotOwner, s)
      else if 4 ≤ arg then (stBadArg, s)
      else if standing s arg = 0 then (0x66, s)
      else (stOk, { setFlds rSerOwner [(fSerOwnerState, osOffered), (fSerOwnerOfferTo, arg)] s with
        offerEnd := s.beat + 100000000 })
    | 6 =>
      if ownerState s = osOffered ∧ leaseLive s = true ∧ s.beat < s.offerEnd ∧ fld s rSerOwner fSerOwnerOfferTo = c then
        (stOk, setOwner osOwned rid c 0 (wr rSerLeaseEnd (BitVec.ofNat 64 (s.beat + 100000000)) s))
      else (0x67, s)
    | _ => (stBadArg, s)

/-- A command of SER.OWN_CMD at beat `b`. -/
def ownDo (rid cmd arg b : Nat) (s : State) : State :=
  let (st, s) := ownCmd rid (cmd * 2 ^ 60 + arg % 16 * 16) (advanceTo b s)
  answerWith st [] s

/-- STAND. -/
def execOwnStand (rid prio b : Nat) (s : State) : Host.Outcome State Fault Refusal := .next (ownDo rid 1 prio b s)
/-- WITHDRAW. -/
def execOwnWithdraw (rid b : Nat) (s : State) : Host.Outcome State Fault Refusal := .next (ownDo rid 2 0 b s)
/-- RENEW. -/
def execOwnRenew (rid b : Nat) (s : State) : Host.Outcome State Fault Refusal := .next (ownDo rid 3 0 b s)
/-- RESIGN. -/
def execOwnResign (rid b : Nat) (s : State) : Host.Outcome State Fault Refusal := .next (ownDo rid 4 0 b s)
/-- OFFER. -/
def execOwnOffer (rid cand b : Nat) (s : State) : Host.Outcome State Fault Refusal := .next (ownDo rid 5 cand b s)
/-- ACCEPT. -/
def execOwnAccept (rid b : Nat) (s : State) : Host.Outcome State Fault Refusal := .next (ownDo rid 6 0 b s)

/-- The winner of an election: the highest priority, then the lowest candidate number. -/
def electionWinner (s : State) : Option Nat :=
  (List.range 4).foldl (fun best c =>
    if standing s c = 0 then best
    else match best with
      | none => some c
      | some d => if standing s d < standing s c then some c else best) none

/-- ELECTION_CLOSE. -/
def execElectionClose (b : Nat) (s : State) : Host.Outcome State Fault Refusal :=
  .next (
    let s := advanceTo b s
    let close := rdN s rSerLeaseEnd
    whenS (ownerState s == osElecting && close ≤ s.beat) (fun s =>
      match electionWinner s with
      | none => setOwner osNone 0 0 0 (wr rSerLeaseEnd 0 s)
      | some c => setOwner osOwned (standingRid s c) c 0 (wr rSerLeaseEnd (BitVec.ofNat 64 (close + 100000000)) s)) s)

/-- LEASE_END. -/
def execLeaseEnd (b : Nat) (s : State) : Host.Outcome State Fault Refusal :=
  .next (
    let s := advanceTo b s
    whenS (2 ≤ ownerState s && rdN s rSerLeaseEnd ≤ s.beat) (fun s => endLease (rdN s rSerLeaseEnd) s) s)

/-- OFFER_EXPIRE. -/
def execOfferExpire (b : Nat) (s : State) : Host.Outcome State Fault Refusal :=
  .next (
    let s := advanceTo b s
    whenS (ownerState s == osOffered && s.offerEnd ≤ s.beat)
      (setFlds rSerOwner [(fSerOwnerState, osOwned), (fSerOwnerOfferTo, 0)]) s)

/-- A write of SER.GRANT[g]: the owner's alone (12 R363). -/
def grantWrite (rid g v : Nat) (s : State) : Nat × State :=
  if isOwner s rid then (stOk, wr (rSerGrant g) (BitVec.ofNat 64 v &&& 0x8000FFFF00001FFF) s) else (stNotOwner, s)

/-- A write of SER.COH (12 R349). -/
def cohWrite (v : Nat) (s : State) : Nat × State :=
  let quiet (p : Nat) : Bool := portState s p == psDown || portState s p == psDetached
  let w := BitVec.ofNat 64 v &&& 0xFFFFFFFFFFFF0001
  if !(quiet 0 && quiet 1) then (0x65, s)
  else if fget fSerCohEn w = 1 ∧ hbmTop s < (fget fSerCohBase w + fget fSerCohSizeM1 w + 1) * 65536 then (stBadArg, s)
  else (stOk, wr rSerCoh w s)

/-! ### Services (12 R364) -/

/-- PORT_STATUS. -/
def execPortStatus (rid p : Nat) (s : State) : Host.Outcome State Fault Refusal :=
  .next (service mbSer 0x0C01 rid [p] (fun s =>
    if 2 ≤ p then (.done stBadArg [], s) else (ok [rdN s (rSerPort p), rdN s (rSerPortErr p)], s)) s)

/-- OWNER_STATUS. -/
def execOwnerStatus (rid : Nat) (s : State) : Host.Outcome State Fault Refusal :=
  .next (serviceRead mbSer 0x0C04 rid [] (fun s =>
    [rdN s rSerOwner, rdN s rSerLeaseEnd] ++ (List.range 4).map (fun c => rdN s (rSerCand c))) s)

/-- FILTER_STATUS: the count of evictions starts again. -/
def execFilterStatus (rid : Nat) (s : State) : Host.Outcome State Fault Refusal :=
  .next (service mbSer 0x0C05 rid [] (fun s =>
    (ok [s.filter.length, s.filterEvicts], { s with filterEvicts := 0 })) s)

end Sys2Proof.Machine
end

