-- ==== Sys2Proof/Machine/Fabric.lean ====
section
/-! DEFINITION. The fabric at the receiving side (13): end-to-end numbers and acknowledgements (R384, R385), discovery (R376-R379),
heartbeats (R398), lanes and relays (R395, R396), and services of Table 13-14 that need nothing else. -/
namespace Sys2Proof.Machine

/-! ### Flags (13 Table 13-10) -/

/-- A flag of FAB.ERR set on a die, with the lane group or device it concerns. -/
def fabErr (d b lg dev : Nat) (s : State) : State :=
  raise (rFabErr d) b (rFabErrCnt d b) (setFlds (rFabErr d) [(fFabErrLastLg, lg), (fFabErrLastDev, dev)] s)
def feLaneFail : Nat := 0
def feLinkFail : Nat := 1
def feMiswired : Nat := 2
def feCollLate : Nat := 3
def feCollFail : Nat := 4
def feProto : Nat := 5
def feDigestSplit : Nat := 6

/-! ### Transport (13 R384, R385) -/

/-- A packet for another device, relayed without a check of its numbers (13 R384). -/
def forward (h : FabHead) (data : List Byte) (s : State) : State :=
  match linkOf s h.dst h.slice with
  | none => s
  | some l => send (if h.type = ptCtrl then .control else .fabric) h.dst (headArgs { h with lg := l.lg }) data s

/-- An acknowledgement for a source and channel; the channel stands in the head's packet field (log 34). -/
def ackSend (type dst ch num status : Nat) (s : State) : State :=
  transmit { headTo s type vcCtrl dst 0 with ack := num, status := status, packet := ch } [] s

/-- The expected number of a source and channel. -/
def expected (s : State) (src ch : Nat) : Nat := tabGet (fun _ => 0) s.rxSeq (4 * src + ch)

/-- A packet received: relayed, discarded as a duplicate or as one ahead, or, being the next, given to `deliver`, whose answer
none leaves it in the link's buffer, and whose status goes back where it is a refusal (13 R384, R385). -/
def fabRecv (h : FabHead) (data : List Byte) (deliver : State → Option Nat × State) (s : State) : State :=
  if h.dst ≠ ownDev s then forward h data s
  else
    let d := lgDie h.lg
    let e := expected s h.src h.vc
    let took (s : State) : State := countBlk (fabBase d) (0xC3 + h.vc) (headIds h) (1 + flitsOf data) s
    if h.seq = e then
      match deliver s with
      | (none, s) => s
      | (some st, s) =>
        let s := took s
        let s := if sampled s d h.seq then
            traceRec (2000 + d) 0x21 h.lg (headIds h)
              (natLe 1 h.src ++ natLe 1 h.vc ++ natLe 1 h.type ++ natLe 1 0 ++ natLe 4 h.seq ++ natLe 8 h.beat) s
          else s
        let s := { s with rxSeq := tabSet (fun _ => 0) s.rxSeq (4 * h.src + h.vc) ((e + 1) % 2 ^ 32) }
        if st = 0 then { s with ackDue := if s.ackDue.contains (h.src, h.vc) then s.ackDue else (h.src, h.vc) :: s.ackDue }
        else ackSend ptAck h.src h.vc h.seq st s
    else if subMod 32 h.seq e < 2 ^ 31 then ackSend ptNak h.src h.vc e 0 (took s)
    else ackSend ptAck h.src h.vc (subMod 32 e 1) 0 (took s)

/-- The outcome of a packet passed to its issuer (13 R385). -/
def issuerDone (pkt : FabPkt) (status : Nat) (s : State) : State :=
  match pkt.issuer with
  | .none => s
  | .signal p ord => signalDone p ord status s
  | .dma p c n => dmaAcked p c n pkt.data.length status s
  | .coll _ => s

/-- Packets up to number `last` toward a device and channel are acknowledged; the one numbered `last` with `status`. -/
def acked (dev ch last status : Nat) (s : State) : State :=
  let hit (p : FabPkt) : Bool := p.head.dst == dev && p.head.vc == ch && subMod 32 last p.head.seq < 2 ^ 31
  let ps := s.unacked.filter hit
  ps.foldl (fun s p => issuerDone p (if p.head.seq = last then status else 0) s)
    { s with unacked := s.unacked.filter (fun p => !hit p) }

/-- Every unacknowledged packet toward a device and channel sent again, oldest first (13 R384). -/
def resend (dev ch : Nat) (s : State) : State :=
  (unackedTo s dev ch).foldl (fun s p =>
    let s := match linkOf s dev p.head.slice with
      | some l => countBlk (fabBase (lgDie l.lg)) 0xC7 (headIds p.head) 1 s
      | none => s
    transmit p.head p.data s) s

/-- Every unacknowledged packet toward a device fails at its issuer with REMOTE_ERR (13 R385). -/
def dropTo (dev : Nat) (s : State) : State :=
  let ps := s.unacked.filter (fun p => p.head.dst == dev)
  ps.foldl (fun s p => issuerDone p ccRemoteErr s) { s with unacked := s.unacked.filter (fun p => p.head.dst != dev) }

/-- FAB_ACK: cumulative, or with the refusal status of the packet it names. -/
def execFabAck (h : FabHead) (s : State) : Host.Outcome State Fault Refusal :=
  .next (if h.dst ≠ ownDev s then forward h [] s else acked h.src h.packet h.ack h.status s)

/-- FAB_NAK: the packets before the number it names have been accepted; the rest is sent again. -/
def execFabNak (h : FabHead) (s : State) : Host.Outcome State Fault Refusal :=
  .next (if h.dst ≠ ownDev s then forward h [] s
    else resend h.src h.packet (acked h.src h.packet (subMod 32 h.ack 1) 0 s))

/-- FAB_ACK_TICK: a cumulative ACK for every source and channel that is owed one. -/
def execFabAckTick (s : State) : Host.Outcome State Fault Refusal :=
  .next (s.ackDue.foldl (fun s e => ackSend ptAck e.1 e.2 (subMod 32 (expected s e.1 e.2) 1) 0 s) { s with ackDue := [] })

/-- E2E_RETRY_TIMEOUT: 50 µs without an ACK from a device on a channel. -/
def execE2eRetryTimeout (dev ch : Nat) (s : State) : Host.Outcome State Fault Refusal :=
  onUnits dev 256 ch 3 s (resend dev ch)

/-- FAB_RESERVED_PACKET. -/
def execFabReservedPacket (h : FabHead) (s : State) : Host.Outcome State Fault Refusal :=
  .next (fabErr (lgDie h.lg) feProto h.lg h.src s)

/-- Whether an HBM run lies in an open request ring or the routing area (Table 13-2). -/
def routable (s : State) (a n : Nat) : Bool :=
  s.reqRings.any (fun e => e.2.base ≤ a && a + n ≤ e.2.base + 64 + 64 * 2 ^ e.2.log2) ||
    (0 < s.routeBytes && s.routeBase ≤ a && a + n ≤ s.routeBase + s.routeBytes)

/-- FAB_WRITE: a write of cluster `cl` of the sending device (no cluster from 800 up) to a window, or to a ring or the routing
area. -/
def execFabWrite (h : FabHead) (cl : Nat) (data : List Byte) (s : State) : Host.Outcome State Fault Refusal :=
  .next (fabRecv h data (fun s =>
    let src := srcFabric h.src (decide (cl < 800)) cl
    if routable s h.addr data.length then
      match devWrite src (2 ^ 22 + h.src) h.addr data s with
      | (.ok _, s) => (some 0, s)
      | (.wait, s) => (none, s)
      | (.no c, s) => (some c, s)
    else
      let (st, _, s) := windowDo src (waCluster h.addr) (waWin h.addr) (waGen h.addr) (waOff h.addr) data.length true data s
      (some st, s)) s)

/-- FAB_SIGNAL. -/
def execFabSignal (h : FabHead) (s : State) : Host.Outcome State Fault Refusal :=
  .next (fabRecv h [] (fun s =>
    let (st, s) := signalApply (bitsAt 0 10 h.addr) (bitsAt 10 6 h.addr) (bitsAt 32 32 h.addr) s
    (some st, s)) s)

/-! ### Links and discovery (13 R376-R379) -/

/-- FAB.LG of a lane group from its links: the first link's state, role and peer, and the lanes in use. -/
def updLg (k : Nat) (s : State) : State :=
  let ls := s.links.filter (fun l => l.lg == k)
  match ls with
  | [] => s
  | l :: _ =>
    let split := if l.role = 3 then (if l.width = 8 then 0 else if l.width = 4 then 1 else if l.width = 2 then 2 else 3) else 0
    let lanes := maskOf (ls.flatMap (fun l =>
      if l.state = lsUp ∨ l.state = lsHalf then
        (rangeFrom l.lane l.width).filter (fun i => !(l.state == lsHalf && l.bad.any (fun b => b / 4 == i / 4)) && !l.bad.contains i)
      else []))
    setFlds (lgReg k) [(fFabLgState, l.state), (fFabLgRole, l.role), (fFabLgSplit, split), (fFabLgPeer, l.dev),
      (fFabLgPeerLg, l.peerLg), (fFabLgLanesUp, lanes)] s

/-- A link replaced, and its lane group's register. -/
def setLink (l l' : FabLink) (s : State) : State :=
  updLg l.lg { s with links := s.links.map (fun x => if x == l then l' else x) }

/-- Slots of the own group whose side links AGREE, as PRESENT (Table 13-8). -/
def updPresent (s : State) : State :=
  setFabStatus fFabStatusPresent (maskOf ((List.range 16).filter (fun t =>
    s.links.any (fun l => l.role == 1 && l.dev == slotDev s t && (l.state == lsUp || l.state == lsHalf))))) s

/-- PRESENT with the own slot. -/
def presentMask (s : State) : Nat := fld s (rFabStatus 0) fFabStatusPresent ||| (1 <<< ownSlot s)

/-- Groups whose stair links AGREE, with group 0, at the principal. -/
def groupsMask (s : State) : Nat :=
  maskOf (0 :: (List.range 16).filter (fun g => s.links.any (fun l => l.role == 3 && l.dev == 16 * g && (l.state == lsUp || l.state == lsHalf))))

/-- MEMBERS sent to every slot that agrees, and by the principal GROUPS to every group (13 R377). -/
def sendMembers (s : State) : State :=
  let m := presentMask s
  let s := ((List.range 16).filter (fun t => bitAt m t && t != ownSlot s)).foldl (fun s t => ctrlSend (slotDev s t) 4 (natLe 2 m) s) s
  { s with membersSeen := some m }
def sendGroups (s : State) : State :=
  let m := groupsMask s
  let s := ((List.range 16).filter (fun g => bitAt m g && g != 0)).foldl (fun s g => ctrlSend (16 * g) 5 (natLe 2 m) s) s
  { s with groupsSeen := some m }

/-- A manager's or principal's messages once every slot or group agrees, or in READY for a member that trains later (13 R377,
R378). -/
def agreeAll (s : State) : State :=
  let ready := fld s rModStatus fModStatusReady == 1
  let s := if 1 ≤ ownRole s ∧ ((presentMask s = 2 ^ groupSize s - 1 ∧ s.membersSeen = none) ∨ ready) then sendMembers s else s
  if ownRole s = 2 ∧ ((groupsMask s = 2 ^ groupCount s - 1 ∧ s.groupsSeen = none) ∨ ready) then sendGroups s else s

/-- FAB_HELLO: a HELLO on lane `lane` of lane group `lg` from device `dev`, its lane group `plg`, lane `plane`, link role, and its
group_size and group_count: the link AGREEs or is MISWIRED. A stair link of an image, for which the section names no lane group at the
peer (18 here), agrees with any (log 61). -/
def execFabHello (lg lane dev plg plane role n g : Nat) (s : State) : Host.Outcome State Fault Refusal :=
  onUnit lg 18 s (fun s =>
    match s.links.find? (fun l => l.lg == lg && l.lane == lane) with
    | none => s
    | some l =>
      let s := if fld s (rFabStatus 0) fFabStatusDisc = 1 then setFabStatus fFabStatusDisc 2 s else s
      if l.state = lsFailed then s
      else if dev = l.dev ∧ (l.peerLg = 18 ∨ (plg = l.peerLg ∧ plane = l.peerLane)) ∧ role = l.role ∧ n = groupSize s ∧ g = groupCount s then
        if l.state = lsUp ∨ l.state = lsHalf then s
        else agreeAll (updPresent (setLink l { l with state := if l.bad.isEmpty then lsUp else lsHalf, up := true, peerLg := plg, peerLane := plane } s))
      else
        let s := setLink l { l with state := lsMiswired, up := true } s
        if l.state = lsMiswired then s else fabErr (lgDie lg) feMiswired lg dev s)

/-- HELLO_SEND_TICK: HELLO over every trained link. -/
def execHelloSendTick (s : State) : Host.Outcome State Fault Refusal :=
  .next ((s.links.filter (·.up)).foldl (fun s l =>
    let h := { headTo s ptHello vcCtrl l.dev 0 with lg := l.lg, beat := leafCount s (leafFab (lgDie l.lg)) }
    let s := countBlk (fabBase (lgDie l.lg)) 0xC2 noIds 1 s
    send .fabric l.dev (headArgs h ++ [ownRole s, groupSize s, groupCount s, l.lg, l.lane, l.role, l.dev]) [] s) s)

/-- LINK_ABSENT_TIMEOUT: 200 ms into stage 0x08 a link that has not trained is ABSENT; a manager without its stair link to the
principal runs its group apart (13 R377, R379). -/
def execLinkAbsentTimeout (s : State) : Host.Outcome State Fault Refusal :=
  .next (whenS (stageNow s == 8) (fun s =>
    let s := (s.links.filter (fun l => l.state == lsTraining && !l.up)).foldl (fun s l => setLink l { l with state := lsAbsent } s) s
    if ownRole s = 1 ∧ 1 < groupCount s ∧ s.links.any (fun l => l.role == 3 && l.dev == 0 && l.state != lsAbsent) = false then
      setFld rEscStatus fEscStatusRole 0 (setFabStatus fFabStatusSplit 1 s)
    else s) s)

/-- MEMBERS_DEADLINE: 250 ms into stage 0x08. -/
def execMembersDeadline (s : State) : Host.Outcome State Fault Refusal :=
  .next (whenS (stageNow s == 8) (fun s =>
    let s := if 1 ≤ ownRole s ∧ s.membersSeen = none then sendMembers s else s
    if ownRole s = 2 ∧ s.groupsSeen = none then sendGroups s else s) s)

/-- CTRL_MEMBERS. -/
def execCtrlMembers (h : FabHead) (mask : Nat) (s : State) : Host.Outcome State Fault Refusal :=
  .next (fabRecv h (natLe 2 mask) (fun s =>
    (some 0, if h.src = 16 * ownGroup s then { s with membersSeen := some mask } else s)) s)

/-- CTRL_GROUPS. -/
def execCtrlGroups (h : FabHead) (mask : Nat) (s : State) : Host.Outcome State Fault Refusal :=
  .next (fabRecv h (natLe 2 mask) (fun s => (some 0, if h.src = 0 then { s with groupsSeen := some mask } else s)) s)

/-- The condition of R378 for the device's role. -/
def roleAgrees (s : State) : Bool :=
  let up (dev role : Nat) : Bool := s.links.any (fun l => l.role == role && l.dev == dev && (l.state == lsUp || l.state == lsHalf))
  !s.links.any (fun l => l.state == lsMiswired) &&
  match ownRole s with
  | 0 => up (16 * ownGroup s) 1 && s.membersSeen.any (fun m => bitAt m (ownSlot s))
  | 1 => groupCount s ≤ 1 || fld s (rFabStatus 0) fFabStatusSplit == 1 || (up 0 3 && s.groupsSeen.any (fun m => bitAt m (ownGroup s)))
  | _ => true

/-! ### Heartbeats (13 R398) -/

/-- HEARTBEAT_TICK: a member and its manager send each other HEARTBEAT. It carries the sender's active generation and whether it
is ALIGNED, which FAB.MEMBER shows (log 35). -/
def execHeartbeatTick (s : State) : Host.Outcome State Fault Refusal :=
  .next (
    let data := natLe 4 (activeGen s) ++ natLe 1 (fld s rEscStatus fEscStatusAligned)
    if ownRole s = 0 then ctrlSend (16 * ownGroup s) 1 data s
    else ((List.range 16).filter (fun t => bitAt (presentMask s) t && t != ownSlot s)).foldl
      (fun s t => ctrlSend (slotDev s t) 1 data s) s)

/-- A member heard from: LIVE, and at a manager FAB.MEMBER. -/
def heardFrom (t gen aligned : Nat) (s : State) : State :=
  let s := { s with heard := tabPut t s.beat s.heard, lost := s.lost.filter (· != slotDev s t) }
  let s := setFabStatus fFabStatusLive (fld s (rFabStatus 0) fFabStatusLive ||| (1 <<< t)) s
  if ownRole s = 0 then s
  else setFlds (rFabMember 1 t) [(fFabMemberLive, 1), (fFabMemberGen, gen), (fFabMemberUnaligned, 1 - aligned)] s

/-- CTRL_HEARTBEAT. -/
def execCtrlHeartbeat (h : FabHead) (gen aligned : Nat) (s : State) : Host.Outcome State Fault Refusal :=
  .next (fabRecv h (natLe 4 gen ++ natLe 1 aligned) (fun s =>
    (some 0, if h.src / 16 = ownGroup s then heardFrom (h.src % 16) gen (aligned % 2) s else s)) s)

/-! ### Lanes, links and relays (13 R366, R395, R396) -/

/-- Collectives running with a device become late (13 R397). -/
def lateColls (s : State) : State := { s with colls := s.colls.map (fun e => (e.1, { e.2 with late := true })) }

/-- A link declared FAILED: LINK_FAIL and a fault report (13 R395). -/
def failLink (l : FabLink) (s : State) : State :=
  if l.state = lsFailed then s
  else
    let s := updPresent (setLink l { l with state := lsFailed } s)
    lateColls (addRecord (mkRecord 3 5 l.lg 0xA 0) (fabErr (lgDie l.lg) feLinkFail l.lg l.dev s))

/-- LANE_FAIL: a lane has lost block lock for 1 ms: an 8-lane link retrains at half width on the four lanes that exclude it; any
other link, and one that has lost a lane already, fails. -/
def execLaneFail (lg lane : Nat) (s : State) : Host.Outcome State Fault Refusal :=
  onUnits lg 18 lane 8 s (fun s =>
    match s.links.find? (fun l => l.lg == lg && l.lane ≤ lane && lane < l.lane + l.width) with
    | none => s
    | some l =>
      if l.state = lsFailed ∨ l.bad.contains lane then s
      else
        let l' := { l with bad := lane :: l.bad }
        let s := fabErr (lgDie lg) feLaneFail lg l.dev (setLink l l' s)
        let s := addRecord (mkRecord 3 5 lg 9 lane) s
        if l.bad.isEmpty ∧ l.width = 8 then setLink l' { l' with state := if l.state = lsUp then lsHalf else l.state } s
        else failLink l' s)

/-- FAB_FLIT_RETRY: a flit on a lane group fails its CRC and `n` flits are sent again; `again` says it is the same flit as the
last failure. -/
def execFabFlitRetry (lg n : Nat) (again : Bool) (s : State) : Host.Outcome State Fault Refusal :=
  onUnit lg 18 s (fun s =>
    let run := if again then tabGet (fun _ => 0) s.flitRun lg + 1 else 1
    let s := { s with flitRun := tabSet (fun _ => 0) s.flitRun lg (if run < 16 then run else 0) }
    let s := setFld (lgReg lg) fFabLgRetries (min 0xFFFF (fld s (lgReg lg) fFabLgRetries + 1)) s
    let s := countBlk (fabBase (lgDie lg)) 0xC6 noIds n s
    if run < 16 then s
    else (s.links.filter (fun l => l.lg == lg)).foldl (fun s l => failLink l s) s)

/-- The lane group from slot `a` to slot `b` of a group (13 R370). -/
def sideLg (a b : Nat) : Nat := (b + 16 - a) % 16 - 1

/-- The relay toward a device: for a member of the own group, the live slot of `up` whose two lane groups lie on one fabric die,
then the lowest; toward another group the principal, or the lowest-numbered group of `up` (13 R396). -/
def relayFor (s : State) (dev : Nat) (up : List Nat) : Option Nat :=
  if dev / 16 = ownGroup s then
    let cs := (List.range 16).filter (fun r => up.contains r && slotDev s r != dev && r != ownSlot s &&
      !(linksTo s (slotDev s r)).isEmpty && !s.lost.contains (slotDev s r))
    let same (r : Nat) : Bool := lgDie (sideLg r (ownSlot s)) == lgDie (sideLg r (dev % 16))
    ((cs.filter same ++ cs.filter (fun r => !same r)).head?).map (slotDev s)
  else if ownDev s ≠ 0 ∧ dev ≠ 0 then (if (linksTo s 0).isEmpty then none else some 0)
  else ((List.range 16).find? (fun g => g != 0 && 16 * g != ownDev s && 16 * g != dev && up.contains g && !(linksTo s (16 * g)).isEmpty)).map (16 * ·)

/-- RELAY_INSTALL: the relay route to a device whose link has failed; what is unacknowledged goes out again on it. `up` are the
slots (or groups) whose links to that device are UP. -/
def execRelayInstall (dev : Nat) (up : List Nat) (s : State) : Host.Outcome State Fault Refusal :=
  onUnit dev 256 s (fun s =>
    whenS ((linksTo s dev).isEmpty) (fun s =>
      match relayFor s dev up with
      | none => { s with lost := if s.lost.contains dev then s.lost else dev :: s.lost } |> dropTo dev
      | some r =>
        let s := { s with relays := tabSet (fun k => k) s.relays dev r }
        [vcBulk, vcColl, vcCtrl].foldl (fun s ch => resend dev ch s) s) s)

/-! ### Services (13 R404) -/

/-- Codes FIDW does not offer. -/
def fidwOnly (d code : Nat) : Bool := d == 0 && code != 0x0D01 && code != 0x0D02

/-- A call of the FAB mailbox of die `d`. -/
def fabService (rid d code : Nat) (args : List Nat) (body : State → Reply × State) (s : State) : State :=
  service (mbFab d) code rid args (fun s => if fidwOnly d code then (.done stBadService [], s) else body s) s

/-- LG_STATUS. -/
def execLgStatus (rid d a0 : Nat) (s : State) : Host.Outcome State Fault Refusal :=
  onUnit d 2 s (fabService rid d 0x0D01 [a0] (fun s =>
    if 9 ≤ a0 then (.done stBadArg [], s) else (ok [rdN s (rFabLg d a0)], s)))

/-- ERR_READ of a fabric die. -/
def execFabErrRead (rid d : Nat) (s : State) : Host.Outcome State Fault Refusal :=
  onUnit d 2 s (fabService rid d 0x0D02 [] (fun s =>
    (ok (rdN s (rFabErr d) :: (List.range 7).map (fun i => rdN s (rFabErrCnt d i))), s)))

/-- MEMBERS of the mailbox: NOT_MANAGER on a worker. -/
def execFabMembersStatus (rid d : Nat) (s : State) : Host.Outcome State Fault Refusal :=
  onUnit d 2 s (fabService rid d 0x0D08 [] (fun s =>
    if ownRole s = 0 then (.done 0x70 [], s) else (ok ((List.range 16).map (fun t => rdN s (rFabMember 1 t))), s)))

end Sys2Proof.Machine
end

