-- ==== Sys2Proof/Machine/Coll.lean ====
section
/-! DEFINITION. Collectives (13 R389-R394): queues and doorbells, descriptors and their checks, contributions, reduction at the
owners and at the principal, barriers, completion and failure. -/
namespace Sys2Proof.Machine

/-! ### Descriptors (13 Table 13-5) -/

def cdOp (d : List Byte) : Nat := leAt 0 1 d
def cdType (d : List Byte) : Nat := leAt 1 1 d
def cdRed (d : List Byte) : Nat := leAt 2 1 d
def cdScope (d : List Byte) : Nat := leAt 3 1 d
def cdMembers (d : List Byte) : Nat := leAt 4 2 d
def cdGroups (d : List Byte) : Nat := leAt 6 2 d
def cdId (d : List Byte) : Nat := leAt 8 4 d
def cdRoot (d : List Byte) : Nat := leAt 0xC 1 d
def cdSlice (d : List Byte) : Nat := leAt 0xD 1 d
def cdDoneAdd (d : List Byte) : Nat := leAt 0xE 1 d
def cdErrCont (d : List Byte) : Bool := bitAt (leAt 0xF 1 d) 0
def cdTrace (d : List Byte) : Bool := bitAt (leAt 0xF 1 d) 1
def cdSrc (d : List Byte) : Nat := leAt 0x10 8 d
def cdDst (d : List Byte) : Nat := leAt 0x18 8 d
def cdElements (d : List Byte) : Nat := leAt 0x20 8 d
def cdTarget (d : List Byte) : Nat := leAt 0x28 4 d
def cdIds (d : List Byte) : Ids := ⟨leAt 0x2C 4 d % 2 ^ 20, leAt 0x2C 4 d / 2 ^ 20, leAt 0x30 2 d⟩

/-- Bytes of an element and of one member's vector, packets of 4 KiB, and the bytes of packet `p` (13 R391). -/
def cdSize (d : List Byte) : Nat := if cdType d = 0 then 2 else 4
def cdBytes (d : List Byte) : Nat := cdElements d * cdSize d
def cdPackets (d : List Byte) : Nat := (cdBytes d + 4095) / 4096
def cdPacketLen (d : List Byte) (p : Nat) : Nat := min 4096 (cdBytes d - 4096 * p)

/-- The slots and groups taking part, the members of a group, and all members in increasing device number (13 R391). -/
def collSlots (d : List Byte) : List Nat := bitsOf 16 (cdMembers d)
def collGroups (s : State) (d : List Byte) : List Nat := if cdScope d = 0 then [ownGroup s] else bitsOf 16 (cdGroups d)
def groupMembers (d : List Byte) (g : Nat) : List Nat := (collSlots d).map (16 * g + ·)
def collMembers (s : State) (d : List Byte) : List Nat := (collGroups s d).flatMap (groupMembers d)

/-- A member by its index modulo their number. -/
def nthOf (ms : List Nat) (i : Nat) : Nat := ms.getD (i % max 1 ms.length) 0

/-- The check of a descriptor (13 R394). -/
def collCheck (d : List Byte) : Nat := leNat (shake256 2 (d.take 0xD ++ slice 0x20 8 d))

/-- Error causes of Table 13-6. -/
def kcBadDesc : Nat := 1
def kcAlign : Nat := 2
def kcUnmapped : Nat := 3
def kcAccess : Nat := 4
def kcMismatch : Nat := 5
def kcMemberLost : Nat := 6
def kcDataLost : Nat := 7
def kcOverrun : Nat := 8
def kcTarget : Nat := 9

/-- Collective queue states of Table 13-11. -/
def cqIdle : Nat := 0
def cqActive : Nat := 1
def cqError : Nat := 2

/-- Fields in range and members as R391 asks. -/
def collDescOk (s : State) (d : List Byte) : Bool :=
  let t := cdTarget d
  cdOp d ≤ 4 && cdType d ≤ 2 && cdRed d ≤ 2 && cdScope d ≤ 1 && cdMembers d != 0 &&
    (if cdScope d = 1 then cdGroups d != 0 else cdGroups d == 0) && cdSlice d < 16 && leAt 0xF 1 d < 4 &&
    1 ≤ cdElements d && cdElements d ≤ 2 ^ 32 && slice 0x32 14 d == List.replicate 14 0 &&
    (cdDoneAdd d == 0 || (t < 2 ^ 16 && (t % 1024 < 800 || t % 1024 == 1023) && t / 1024 < 56)) &&
    (collSlots d).all (bitAt (presentMask s)) && (collGroups s d).all (· < groupCount s) &&
    (collMembers s d).contains (ownDev s) && (cdOp d != 3 || (collMembers s d).contains (cdRoot d))

/-- Whether this device reads src and writes dst, and the bytes of each. -/
def collSrcBytes (s : State) (d : List Byte) : Nat := if cdOp d = 4 ∨ (cdOp d = 3 ∧ cdRoot d ≠ ownDev s) then 0 else cdBytes d
def collDstBytes (s : State) (d : List Byte) : Nat :=
  if cdOp d = 4 then 0 else if cdOp d = 2 then (collMembers s d).length * cdBytes d else cdBytes d

/-- The engine of FIDE as a source, and its unit number. -/
def srcColl (s : State) : Source := srcFabric (ownDev s) false 0
def collUnit (q : Nat) : Nat := 2 ^ 23 + q

/-- The cause an address is refused with: 0 where it is HBM or an MSD buffer, and may be written if it is a destination. -/
def collAddr (s : State) (a n : Nat) (write : Bool) : Nat :=
  if n = 0 then 0
  else match rangeAt s a n with
    | .none => kcUnmapped
    | .hbm => if write && hbmGuarded s (srcColl s) a n then kcAccess else 0
    | .buf m o => if write && bufGuard s (srcColl s) m o n != 0 then kcAccess else 0
    | _ => kcAccess

/-- The checks of a descriptor on this device, in the order of Table 13-6: the cause, 0 where it passes. -/
def collCause (s : State) (d : List Byte) : Nat :=
  if !collDescOk s d then kcBadDesc
  else if cdSrc d % 64 ≠ 0 ∨ cdDst d % 64 ≠ 0 then kcAlign
  else
    let a := collAddr s (cdSrc d) (collSrcBytes s d) false
    let b := collAddr s (cdDst d) (collDstBytes s d) true
    if a = kcUnmapped ∨ b = kcUnmapped then kcUnmapped
    else if a ≠ 0 ∨ b ≠ 0 then kcAccess
    else if (collMembers s d).any (fun m => s.lost.contains m) then kcMemberLost else 0

/-! ### Queues (13 R389, R393) -/

/-- A running collective replaced. -/
def setColl (q : Nat) (c : Coll) (s : State) : State := { s with colls := tabPut q c s.colls }

/-- The queue and collective running under an identifier. -/
def collById (s : State) (id : Nat) : Option (Nat × Coll) := s.colls.find? (fun e => cdId e.2.bytes == id)

/-- A queue past its collective; the packets held for it are dropped. -/
def collNext (q id : Nat) (s : State) : State :=
  let k := rFabCollQ 1 q
  let left := fld s k fFabCollQPending - 1
  let s := setFlds k [(fFabCollQConsumer, fld s k fFabCollQConsumer + 1), (fFabCollQPending, left),
    (fFabCollQState, if left = 0 then cqIdle else cqActive)] s
  { s with colls := tabDel q s.colls, collParts := s.collParts.filter (fun x => x.coll != id),
           barriers := s.barriers.filter (fun e => e.1 != id) }

/-- A flag of FAB.ERR on FIDE that concerns a device and no lane group. -/
def collFlag (b dev : Nat) (s : State) : State :=
  raise (rFabErr 1) b (rFabErrCnt 1 b) (setFld (rFabErr 1) fFabErrLastDev dev s)

/-- FAB.COLL_LAST. -/
def collLast (id cause q : Nat) (s : State) : State :=
  setFlds (rFabCollLast 1) [(fFabCollLastCollId, id), (fFabCollLastCause, cause), (fFabCollLastQueue, q)] s

/-- A collective of a queue fails (13 R393): recorded, reported, and the queue is in ERROR unless ERR_CONT is 1. -/
def collFail (q cause dev : Nat) (s : State) : State :=
  match look s.colls q with
  | none => s
  | some c =>
    let d := c.bytes
    let i := cdIds d
    let s := collLast (cdId d) cause q (collFlag feCollFail dev s)
    let s := addRecord { mkRecord (if cause = kcDataLost ∨ cause = kcMemberLost then 2 else 6) 9 0 0x19 cause with
      op := i.op, layer := i.layer, seq := i.seq, detail := natLe 4 (cdId d) } s
    let s := collNext q (cdId d) s
    if cdErrCont d then s else setFlds (rFabCollQ 1 q) [(fFabCollQState, cqError), (fFabCollQCause, cause)] s

/-- COLL_FAIL sent to every other member. -/
def collFailAll (d : List Byte) (cause : Nat) (s : State) : State :=
  ((collMembers s d).filter (· != ownDev s)).foldl (fun s m => ctrlSend m 8 (natLe 4 (cdId d) ++ natLe 1 cause) s) s

/-- The producer index of a queue in the doorbell line. -/
def collProducer (s : State) (base q : Nat) : Nat := leNat (hbmPeek s (base + 4 * q) 4)

/-- COLL_DOORBELL_POLL: FIDE reads the doorbell line; an index more than 1,023 ahead puts its queue into ERROR. -/
def execCollDoorbellPoll (s : State) : Host.Outcome State Fault Refusal :=
  .next (match s.collBase with
    | none => s
    | some base => (List.range 16).foldl (fun s q =>
        let k := rFabCollQ 1 q
        let left := subMod 32 (collProducer s base q) (fld s k fFabCollQConsumer)
        if fld s k fFabCollQState = cqError then setFld k fFabCollQPending (min left 1023) s
        else if 1023 < left then setFlds k [(fFabCollQState, cqError), (fFabCollQCause, kcOverrun), (fFabCollQPending, 1023)] s
        else setFlds k [(fFabCollQPending, left),
          (fFabCollQState, if left = 0 ∧ (look s.colls q).isNone then cqIdle else cqActive)] s) s)

/-! ### Reduction (13 R392) -/

/-- The elements of a packet: BF16 widened exactly to FP32, FP32, or INT32. -/
def collElems (d : List Byte) (l : List Byte) : List Nat :=
  (List.range (l.length / cdSize d)).map (fun i => if cdType d = 0 then leAt (2 * i) 2 l * 65536 else leAt (4 * i) 4 l)

/-- One reduction step on two elements. -/
def collOp (d : List Byte) (a b : Nat) : Nat :=
  if cdType d = 2 then
    match cdRed d with
    | 0 => (a + b) % 2 ^ 32
    | 1 => if toSigned 32 a < toSigned 32 b then b else a
    | _ => if toSigned 32 b < toSigned 32 a then b else a
  else
    match cdRed d with
    | 0 => add32 a b
    | 1 => max32 a b
    | _ => min32 a b

/-- Vectors reduced in the order of their list. -/
def collFold (d : List Byte) : List (List Nat) → List Nat
  | [] => []
  | x :: t => t.foldl (List.zipWith (collOp d)) x

/-- A partial result as it travels. -/
def collPartial (xs : List Nat) : List Byte := xs.flatMap (natLe 4)

/-- A result as it is written: rounded once, a NaN canonical. -/
def collFinal (d : List Byte) (xs : List Nat) : List Byte :=
  xs.flatMap (fun x => match cdType d with
    | 0 => natLe 2 (convFloat fpBf16 .rne false (num32 x)).1
    | 1 => natLe 4 (if isNan32 x then nan32 else x)
    | _ => natLe 4 x)

/-! ### Packets -/

/-- A COLL packet, or a part kept here where its destination is this device. Its stage travels in the head's addr field
(log 36). -/
def collSend (q : Nat) (d : List Byte) (dst stage p : Nat) (data : List Byte) (s : State) : State :=
  if dst = ownDev s then { s with collParts := s.collParts ++ [⟨cdId d, stage, p, dst, collCheck d, data⟩] }
  else
    let i := cdIds d
    let h := { headTo s ptColl vcColl dst (cdSlice d) with
      addr := stage, coll := cdId d, packet := p, ids := i.op + i.layer * 2 ^ 20, cmdSeq := i.seq, check := collCheck d }
    fabSend h (.coll q) data s

/-- The parts of a stage and packet. -/
def collParts (s : State) (id stage p : Nat) : List CollPart :=
  s.collParts.filter (fun x => x.coll == id && x.stage == stage && x.packet == p)
def dropParts (id p : Nat) (stages : List Nat) (s : State) : State :=
  { s with collParts := s.collParts.filter (fun x => !(x.coll == id && stages.contains x.stage && x.packet == p)) }

/-- Packet `p` reduced by its owner in this group once every member's contribution is here. -/
def reducePacket (q p : Nat) (s : State) : State :=
  match look s.colls q with
  | none => s
  | some c =>
    let d := c.bytes
    let ms := groupMembers d (ownGroup s)
    let xs := ms.map (fun m => ((collParts s (cdId d) 0 p).find? (fun x => x.dev == m)).map (·.data))
    if 1 < cdOp d ∨ nthOf ms p ≠ ownDev s ∨ c.reduced.contains p ∨ xs.any (·.isNone) = true then s
    else
      let r := collFold d (xs.map (fun l => collElems d (l.getD [])))
      let s := setColl q { c with reduced := p :: c.reduced } (dropParts (cdId d) p [0] s)
      let s := countBlk (fabBase (p % 2)) 0xCA (cdIds d) 1 s
      if cdScope d = 0 then
        (if cdOp d = 0 then ms else [ownDev s]).foldl (fun s m => collSend q d m 3 p (collFinal d r) s) s
      else
        let l := collPartial r
        let s := collSend q d 0 1 p (l.take 4096) s
        if 4096 < l.length then collSend q d 0 9 p (l.drop 4096) s else s

/-- The group results of packet `p` combined at the principal in increasing group order. -/
def combinePacket (q p : Nat) (s : State) : State :=
  match look s.colls q with
  | none => s
  | some c =>
    let d := c.bytes
    let of_ (stage g : Nat) : Option (List Byte) := ((collParts s (cdId d) stage p).find? (fun x => x.dev / 16 == g)).map (·.data)
    let two := 4096 < cdPacketLen d p / cdSize d * 4
    let xs := (collGroups s d).map (fun g => match of_ 1 g, (if two then of_ 9 g else some []) with
      | some a, some b => some (a ++ b)
      | _, _ => none)
    if cdScope d = 0 ∨ 1 < cdOp d ∨ ownDev s ≠ 0 ∨ xs.any (·.isNone) = true then s
    else
      let word (l : List Byte) : List Nat := (List.range (l.length / 4)).map (fun i => leAt (4 * i) 4 l)
      let r := collFinal d (collFold d (xs.map (fun l => word (l.getD []))))
      let s := countBlk (fabBase 1) 0xCA (cdIds d) 1 (dropParts (cdId d) p [1, 9] s)
      if cdOp d = 0 then
        (collGroups s d).foldl (fun s g => collSend q d (nthOf (groupMembers d g) p) 2 p r s) s
      else collSend q d (nthOf (collMembers s d) p) 3 p r s

/-- The results that came back to this owner, passed on to its group. -/
def passPackets (q : Nat) (s : State) : State :=
  match look s.colls q with
  | none => s
  | some c =>
    let d := c.bytes
    let here := s.collParts.filter (fun x => x.coll == cdId d && x.stage == 2)
    here.foldl (fun s x => (groupMembers d (ownGroup s)).foldl (fun s m => collSend q d m 3 x.packet x.data s) s)
      { s with collParts := s.collParts.filter (fun x => !(x.coll == cdId d && x.stage == 2)) }

/-- Where a part's bytes go: its key among the parts of dst, and its offset. -/
def collPlace (s : State) (d : List Byte) (x : CollPart) : Nat × Nat :=
  if cdOp d = 2 then
    let i := (collMembers s d).idxOf x.dev
    (i * cdPackets d + x.packet, i * cdBytes d + 4096 * x.packet)
  else (x.packet, 4096 * x.packet)

/-- One part written at dst. -/
def collWriteOne (q : Nat) (x : CollPart) (s : State) : State :=
  match look s.colls q with
  | none => s
  | some c =>
    let d := c.bytes
    let (key, off) := collPlace s d x
    match devWrite (srcColl s) (collUnit q) (cdDst d + off) x.data s with
    | (.ok _, s) => setColl q { c with done := key :: c.done } { s with collParts := s.collParts.erase x }
    | (.wait, s) => s
    | (.no k, s) => collFail q (if k = ccAccess then kcAccess else if k = ccUnmapped then kcUnmapped else kcDataLost) (ownDev s) s

/-- A BARRIER's hub, the first member, sends RELEASE once every member has arrived. -/
def barrierRelease (q : Nat) (s : State) : State :=
  match look s.colls q with
  | none => s
  | some c =>
    let d := c.bytes
    let ms := collMembers s d
    if cdOp d ≠ 4 ∨ c.released = true ∨ nthOf ms 0 ≠ ownDev s ∨ !(ms.all (fun m => s.barriers.contains (cdId d, m))) then s
    else
      let s := (ms.filter (· != ownDev s)).foldl (fun s m =>
        let h := { headTo s ptRelease vcCtrl m (cdSlice d) with coll := cdId d }
        fabSend h (.coll q) [] s) s
      setColl q { c with released := true } (countBlk (fabBase 1) 0xCB (cdIds d) (s.beat - c.beat) s)

/-- Everything a queue's collective can do with what is here. -/
def collPump (q : Nat) (s : State) : State :=
  match look s.colls q with
  | none => s
  | some c =>
    let n := cdPackets c.bytes
    let s := (List.range n).foldl (fun s p => reducePacket q p s) s
    let s := (List.range n).foldl (fun s p => combinePacket q p s) s
    let s := passPackets q s
    let s := (s.collParts.filter (fun x => x.coll == cdId c.bytes && x.stage == 3)).foldl (fun s x => collWriteOne q x s) s
    barrierRelease q s

/-! ### Starting (13 R390, R391) -/

/-- The contributions of this device: to the owner of each packet, to every member, or to the hub of a BARRIER. -/
def collContribute (q : Nat) (d src : List Byte) (s : State) : State :=
  let own := ownDev s
  let packet (p : Nat) : List Byte := slice (4096 * p) (cdPacketLen d p) src
  let each (s : State) (f : Nat → State → State) : State := (List.range (cdPackets d)).foldl (fun s p => f p s) s
  match cdOp d with
  | 0 | 1 => each s (fun p s => collSend q d (nthOf (groupMembers d (ownGroup s)) p) 0 p (packet p) s)
  | 2 => each s (fun p s => (collMembers s d).foldl (fun s m => collSend q d m 3 p (packet p) s) s)
  | 3 => if cdRoot d = own then each s (fun p s => (collMembers s d).foldl (fun s m => collSend q d m 3 p (packet p) s) s) else s
  | _ =>
    let hub := nthOf (collMembers s d) 0
    if hub = own then { s with barriers := (cdId d, own) :: s.barriers }
    else
      let h := { headTo s ptBarrier vcCtrl hub (cdSlice d) with coll := cdId d }
      fabSend h (.coll q) [] s

/-- The next collective of a queue starts, if its operation is `op` or one that does not exist. A source whose lines are held
by a companion is asked for first. -/
def collStart (q op : Nat) (s : State) : State :=
  let k := rFabCollQ 1 q
  match s.collBase with
  | none => s
  | some base =>
    let d := hbmPeek s (base + 0x10000 * (q + 1) + 64 * (fld s k fFabCollQConsumer % 1024)) 64
    if fld s k fFabCollQState ≠ cqActive ∨ fld s k fFabCollQPending = 0 ∨ (look s.colls q).isSome = true ∨
        (cdOp d ≠ op ∧ cdOp d ≤ 4) then s
    else
      let begun (s : State) : State := setColl q ⟨d, [], [], false, false, s.beat⟩ s
      let cause := collCause s d
      if cause ≠ 0 then collFail q cause (ownDev s) (begun s)
      else
        let n := collSrcBytes s d
        match (if n = 0 then (.ok [], s) else devRead (srcColl s) (collUnit q) (cdSrc d) n s) with
        | (.wait, s) => s
        | (.no _, s) => collFail q kcDataLost (ownDev s) (begun s)
        | (.ok l, s) =>
          let s := begun s
          if s.collParts.any (fun x => x.coll == cdId d && x.stage == 0 && x.check != collCheck d) then
            collFail q kcMismatch (ownDev s) (collFailAll d kcMismatch s)
          else collPump q (collContribute q d l s)

/-- COLL_ALL_REDUCE. -/
def execCollAllReduce (q : Nat) (s : State) : Host.Outcome State Fault Refusal := onUnit q 16 s (collStart q 0)
/-- COLL_REDUCE_SCATTER. -/
def execCollReduceScatter (q : Nat) (s : State) : Host.Outcome State Fault Refusal := onUnit q 16 s (collStart q 1)
/-- COLL_ALL_GATHER. -/
def execCollAllGather (q : Nat) (s : State) : Host.Outcome State Fault Refusal := onUnit q 16 s (collStart q 2)
/-- COLL_BROADCAST. -/
def execCollBroadcast (q : Nat) (s : State) : Host.Outcome State Fault Refusal := onUnit q 16 s (collStart q 3)
/-- COLL_BARRIER. -/
def execCollBarrier (q : Nat) (s : State) : Host.Outcome State Fault Refusal := onUnit q 16 s (collStart q 4)

/-! ### Arrivals -/

/-- FAB_COLL_PACKET: a packet is taken against room in its source's 256 KiB share (13 R392); a contribution whose check
differs fails the collective on every member (R394). -/
def execFabCollPacket (h : FabHead) (data : List Byte) (s : State) : Host.Outcome State Fault Refusal :=
  .next (fabRecv h data (fun s =>
    let mine := (s.collParts.filter (fun x => x.dev == h.src)).foldl (fun n x => n + x.data.length) 0
    if 262144 < mine + data.length then (none, s)
    else
      let s := { s with collParts := s.collParts ++ [⟨h.coll, h.addr, h.packet, h.src, h.check, data⟩] }
      match collById s h.coll with
      | none => (some 0, s)
      | some (q, c) =>
        if h.addr = 0 ∧ h.check ≠ collCheck c.bytes then
          (some 0, collFail q kcMismatch h.src (collFailAll c.bytes kcMismatch s))
        else (some 0, collPump q s)) s)

/-- FAB_BARRIER. -/
def execFabBarrier (h : FabHead) (s : State) : Host.Outcome State Fault Refusal :=
  .next (fabRecv h [] (fun s =>
    let s := { s with barriers := if s.barriers.contains (h.coll, h.src) then s.barriers else (h.coll, h.src) :: s.barriers }
    match collById s h.coll with
    | none => (some 0, s)
    | some (q, _) => (some 0, barrierRelease q s)) s)

/-- FAB_RELEASE. -/
def execFabRelease (h : FabHead) (s : State) : Host.Outcome State Fault Refusal :=
  .next (fabRecv h [] (fun s =>
    match collById s h.coll with
    | none => (some 0, s)
    | some (q, c) =>
      if cdOp c.bytes ≠ 4 ∨ c.released = true then (some 0, s)
      else (some 0, setColl q { c with released := true } (countBlk (fabBase 1) 0xCB (cdIds c.bytes) (s.beat - c.beat) s))) s)

/-- CTRL_COLL_FAIL. -/
def execCtrlCollFail (h : FabHead) (id cause : Nat) (s : State) : Host.Outcome State Fault Refusal :=
  .next (fabRecv h (natLe 4 id ++ natLe 1 cause) (fun s =>
    match collById s id with
    | none => (some 0, s)
    | some (q, _) => (some 0, collFail q cause h.src s)) s)

/-! ### Completion (13 R393) -/

/-- Whether every write to dst has been accepted, or the RELEASE has arrived. -/
def collFinished (s : State) (c : Coll) : Bool :=
  let d := c.bytes
  let n := cdPackets d
  match cdOp d with
  | 4 => c.released
  | 2 => (List.range ((collMembers s d).length * n)).all c.done.contains
  | 1 => ((List.range n).filter (fun p => nthOf (collMembers s d) p == ownDev s)).all c.done.contains
  | _ => (List.range n).all c.done.contains

/-- COLL_COMPLETE: done_add goes to its target; a late collective is reported. -/
def execCollComplete (q : Nat) (s : State) : Host.Outcome State Fault Refusal :=
  onUnit q 16 s (fun s =>
    let s := collPump q s
    match look s.colls q with
    | none => s
    | some c =>
      let d := c.bytes
      if !collFinished s c then s
      else
        let (st, s) := doneSignal (cdTarget d) (cdDoneAdd d) s
        if st ≠ stOk then collFail q kcTarget (ownDev s) s
        else
          let s := if cdTrace d then traceRec 2001 0x22 q (cdIds d) (natLe 4 (cdId d)) s else s
          let s := if c.late then collLast (cdId d) 0 q (collFlag feCollLate (ownDev s) s) else s
          collNext q (cdId d) s)

/-- COLL_CLEAR: the queue returns to IDLE with its consumer index set to its producer index; QUEUE_ACTIVE unless ERROR. -/
def execCollClear (rid d q : Nat) (s : State) : Host.Outcome State Fault Refusal :=
  onUnit d 2 s (fabService rid d 0x0D03 [q] (fun s =>
    if 16 ≤ q then (.done stBadArg [], s)
    else
      let k := rFabCollQ 1 q
      let old := rdN s k
      if fld s k fFabCollQState ≠ cqError then (.done 0x72 [], s)
      else
        let prod := match s.collBase with
          | some base => collProducer s base q
          | none => fld s k fFabCollQConsumer
        (ok [old], setFlds k [(fFabCollQState, cqIdle), (fFabCollQCause, 0), (fFabCollQPending, 0), (fFabCollQConsumer, prod)] s)))

end Sys2Proof.Machine
end

