-- ==== Sys2Proof/Machine/Matrix.lean ====
section
/-! DEFINITION. The matrix engine: runs and their passes, the feeder queues and the activation staging buffer, slots, and
readout (02 R45-R78), with the exact sum of 03 R91-R96. -/
namespace Sys2Proof.Machine

/-! ### Jobs -/

/-- Whether a job is a run, a readout or a clear. -/
def isRun (j : MatJob) : Bool := cOpcode j.l.cmd == opMatRun
def isReadout (j : MatJob) : Bool := cOpcode j.l.cmd == opMatReadout
def isClear (j : MatJob) : Bool := cOpcode j.l.cmd == opMatClear

/-- Whether a job has released the engine: a run after its last broadcast, a readout at its copy (04 R118). -/
def released (j : MatJob) : Bool :=
  j.phase == .draining || (isRun j && j.phase == .checked && rdPasses j.desc ≤ j.started)

/-- The jobs that have not released the engine: the executing one, then those in the queue's places (04 R118). -/
def queued (c : Cluster) : List MatJob := c.mat.filter (fun j => !released j)

/-- The executing job. -/
def executing (c : Cluster) : Option MatJob := (queued c).head?

/-- A job of the cluster replaced by its launch number. -/
def putJob (p : Nat) (j : MatJob) (s : State) : State :=
  modCluster p (fun c => { c with mat := c.mat.map (fun k => if k.l.ord = j.l.ord then j else k) }) s

/-- A job taken off the engine. -/
def dropJob (p : Nat) (j : MatJob) (s : State) : State :=
  modCluster p (fun c => { c with mat := c.mat.filter (fun k => k.l.ord != j.l.ord) }) s

/-- CL.MAT_STATUS's BUSY and SHADOW_BUSY as the jobs left on the engine make them (Table 02-8). -/
def matBusy (p : Nat) (s : State) : State :=
  let c := cluster s p
  setFlds (rClMatStatus p) [(fClMatStatusBusy, bit (c.mat.any isRun)),
    (fClMatStatusShadowBusy, bit (c.mat.any (fun j => j.phase == .draining)))] s

/-- A matrix command completes (04 R119): CL.MAT_STATUS.LAST_SEQ takes its seq. -/
def matComplete (p : Nat) (j : MatJob) (s : State) : State :=
  let s := matBusy p (dropJob p j s)
  complete p j.l (setFld (rClMatStatus p) fClMatStatusLastSeq (cIds j.l.cmd).seq s)

/-- A matrix command is refused or stopped (02 R74, 04 R143). -/
def matFail (p : Nat) (j : MatJob) (cause : Nat) (s : State) : State :=
  let s := matBusy p (dropJob p j s)
  cmdFail p j.l 1 cause (matErr p (cIds j.l.cmd) cause s)

/-- Every slot +0 and valid (02 R71). -/
def clearSlots (p : Nat) (s : State) : State :=
  setFld (rClMatStatus p) fClMatStatusAccValid 0xFFFF (modCluster p (fun c => { c with slots := [] }) s)

/-- MAT.CLEARs that have become the executing command act once every earlier pass has entered its slots (04 R118). -/
def matSettle (p : Nat) : Nat → State → State
  | 0, s => s
  | n + 1, s =>
    let c := cluster s p
    match executing c with
    | some j => if isClear j && c.flights.isEmpty then matSettle p n (matComplete p j (clearSlots p s)) else s
    | none => s

/-- The engine's jobs settled after an event. -/
def settled (p : Nat) (s : State) : State := matSettle p (cluster s p).mat.length s

/-- Room in the matrix queue: 4 places behind the executing command (04 R118). -/
def matRoom (p : Nat) (s : State) (_ : Cmd) : Option (Nat × Nat) :=
  if (queued (cluster s p)).length ≤ 4 then none else some (3, 1)

/-- A launched command put on the engine with the settings it starts with (02 R78). -/
def matEnqueue (p : Nat) (l : Launched) (s : State) : State :=
  let j : MatJob :=
    { l := l, phase := if cOpcode l.cmd = opMatClear then .checked else .waiting, desc := [],
      gate := fld s (rClMatCtrl p) fClMatCtrlGateEn == 1, fed := List.replicate 16 0, tile := [], actFed := 0, act := [],
      started := 0, stop := none, ranges := 0, drained := 0, nonfinite := false }
  settled p (matBusy p (modCluster p (fun c => { c with mat := c.mat ++ [j] }) s))

/-- MAT.RUN. -/
def execMatRun (p st b : Nat) (s : State) : Host.Outcome State Fault Refusal :=
  onUnits p nClusters st 32 s (fun s => launch p st (· == opMatRun) (matRoom p) (matEnqueue p) (advanceTo b s))

/-- MAT.READOUT. -/
def execMatReadout (p st b : Nat) (s : State) : Host.Outcome State Fault Refusal :=
  onUnits p nClusters st 32 s (fun s => launch p st (· == opMatReadout) (matRoom p) (matEnqueue p) (advanceTo b s))

/-- MAT.CLEAR. -/
def execMatClear (p st b : Nat) (s : State) : Host.Outcome State Fault Refusal :=
  onUnits p nClusters st 32 s (fun s => launch p st (· == opMatClear) (matRoom p) (matEnqueue p) (advanceTo b s))

/-! ### Descriptor checks (02 R54, R67) -/

/-- Whether row `r` of dot units is gated for a run (02 R63, Table 02-10). -/
def rowGated (gate : Bool) (d : List Byte) (r : Nat) : Bool := gate && bitsAt (16 * r) 16 (rdNMask d) == 0

/-- Whether every row of a run is gated, so that it reads no operand (02 R73). -/
def allGated (gate : Bool) (d : List Byte) : Bool := gate && rdNMask d == 0

/-- Start of row `i`'s activations in pass `k` (02 R53). -/
def actAddr (d : List Byte) (k i : Nat) : Nat :=
  rdABase d + i * rdAStride d + k * mAb (rdWFmt d) (rdAFmt d) (rdSparse d)

/-- Start of row `i`'s scale bytes in pass `k` (02 R53). -/
def actScaleAddr (d : List Byte) (k i : Nat) : Nat :=
  rdASBase d + i * rdASStride d + k * mSb (rdWFmt d) (rdSparse d)

/-- Start of row `r`'s segment of the tile of pass `k` (02 R53, R55). -/
def segAddr (d : List Byte) (k r : Nat) : Nat := rdWBase d + k * rdWStride d + r * mSeg (rdWFmt d) (rdSparse d)

/-- The ranges of every byte a run reads (02 R54). -/
def runRanges (gate : Bool) (d : List Byte) : Nat :=
  if allGated gate d then 0
  else (List.range (rdPasses d)).foldl (fun m k =>
    let m := (List.range 16).foldl (fun m r =>
      if rowGated gate d r then m else m ||| rangesOf (segAddr d k r) (mSeg (rdWFmt d) (rdSparse d))) m
    (List.range (rdMCount d)).foldl (fun m i =>
      m ||| rangesOf (actAddr d k i) (mAb (rdWFmt d) (rdAFmt d) (rdSparse d)) |||
        rangesOf (actScaleAddr d k i) (mSb (rdWFmt d) (rdSparse d))) m) 0

/-- The cause for which a run descriptor's fields are refused, in the order of R54; 0 where they pass. -/
def runFieldCause (s : State) (p : Nat) (gate : Bool) (d : List Byte) : Nat :=
  let wf := rdWFmt d
  let af := rdAFmt d
  let sp := rdSparse d
  if 0xC ≤ wf ∨ 0xC ≤ af ∨ pairClass wf ≠ pairClass af then ccBadFormat
  else if sp && !sparseOk wf then ccBadSparse
  else if rdMCount d = 0 ∨ 16 < rdMCount d ∨ rdPasses d = 0 ∨ 4096 < rdPasses d then ccBadDesc
  else if 4 ≤ rdFlags d ∨ leAt 0x3D 3 d ≠ 0 then ccBadDesc
  else if 2 ^ mBlocks wf sp ≤ rdKMask d then ccBadDesc
  else if rdWBase d % 64 ≠ 0 ∨ rdWStride d % 64 ≠ 0 ∨ rdABase d % 64 ≠ 0 ∨ rdAStride d % 64 ≠ 0 ∨
      (isMx wf ∧ (rdASBase d % 64 ≠ 0 ∨ rdASStride d % 64 ≠ 0)) then ccAlign
  else if !rangesOpen s p (runRanges gate d) then ccRange
  else 0

/-- The ranges a readout writes, and reads with SCALE_EN: every output row whole, whatever the mask (02 R67). -/
def readoutRanges (d : List Byte) : Nat :=
  (List.range (roMCount d)).foldl (fun m i => m ||| rangesOf (roDst d + i * roStride d) (256 * roElem d))
    (if roScaleEn d then rangesOf (roScale d) 1024 else 0)

/-- The cause for which a readout descriptor's fields are refused, in the order of Table 02-4; 0 where they pass. -/
def readoutFieldCause (s : State) (p : Nat) (d : List Byte) : Nat :=
  if roDst d % 64 ≠ 0 ∨ roStride d % 64 ≠ 0 ∨ (roScaleEn d ∧ roScale d % 64 ≠ 0) then ccAlign
  else if 3 ≤ roFmt d then ccBadFormat
  else if 4 ≤ roFlags d ∨ roMCount d = 0 ∨ 16 < roMCount d ∨ leAt 0xF 1 d ≠ 0 then ccBadDesc
  else if !rangesOpen s p (readoutRanges d) then ccRange
  else 0

/-- The cause for which a matrix command's descriptor is refused: its own offset, then its read, then its fields. -/
def matDescCause (s : State) (p : Nat) (j : MatJob) : Nat :=
  let o := cOpA j.l.cmd
  let n := if isRun j then 64 else 16
  let d := spmRead s p o n
  if o % n ≠ 0 then ccAlign
  else if !spmOpen s p o n then ccRange
  else if spmBad s p o n then ccEcc
  else if isRun j then runFieldCause s p j.gate d else readoutFieldCause s p d

/-- A checked run: its descriptor is kept, the readout mask and the status formats are set, and its ranges are reserved
(02 R68, Table 02-8; 05 R162). -/
def runAccepted (p : Nat) (j : MatJob) (s : State) : State :=
  let d := spmRead s p (cOpA j.l.cmd) 64
  let s := putJob p { j with phase := .checked, desc := d, ranges := runRanges j.gate d } s
  let s := modCluster p (fun c => { c with readMask := rdNMask d }) s
  setFlds (rClMatStatus p) [(fClMatStatusWFmt, rdWFmt d), (fClMatStatusAFmt, rdAFmt d),
    (fClMatStatusSparse, bit (rdSparse d))] s

/-- MAT_DESC_ARRIVE: the descriptor of the executing command, or of the one at the head behind it, arrives and is checked. -/
def execMatDescArrive (p : Nat) (s : State) : Host.Outcome State Fault Refusal :=
  onUnit p nClusters s (fun s =>
    match ((queued (cluster s p)).take 2).find? (fun j => j.phase == .waiting) with
    | none => s
    | some j =>
      let cause := matDescCause s p j
      let s := if cause = ccEcc then eccRead p (cOpA j.l.cmd) 64 s else s
      settled p (if cause ≠ 0 then matFail p j cause s
        else if isRun j then runAccepted p j s
        else
          let d := spmRead s p (cOpA j.l.cmd) 16
          putJob p { j with phase := .checked, desc := d, ranges := readoutRanges d } s))

/-! ### Operands (02 R55-R60) -/

/-- The run a feeder queue or the activation fetch works for: the first one behind the launch whose descriptor is checked and
that `more` says has lines left. -/
def feedJob (c : Cluster) (more : MatJob → Bool) : Option MatJob :=
  ((queued c).take 2).find? (fun j => isRun j && j.phase == .checked && more j)

/-- Lines of a row that have arrived and whose pass has not begun, over every run (02 R56, R57). -/
def linesAhead (c : Cluster) (r : Nat) : Nat :=
  (c.mat.filter (fun j => isRun j && j.phase == .checked)).foldl
    (fun n j => n + (j.fed.getD r 0 - j.started * mLw (rdWFmt j.desc) (rdSparse j.desc))) 0

/-- Whether a line is still to be written by a draining readout (02 R71). -/
def drainTouches (c : Cluster) (o : Nat) : Bool :=
  c.mat.any (fun j => j.phase == .draining && (rangeFrom j.drained (roMCount j.desc - j.drained)).any (fun i =>
    let a := roDst j.desc + i * roStride j.desc
    a < o + 64 && o < a + 256 * roElem j.desc))

/-- The metadata position of kept element `k` of dot unit `c` in a segment (02 R55, R65). -/
def metaPos (wf : Nat) (seg : Nat → Byte) (c k : Nat) : Nat :=
  let base := 16 * mWb wf + 16 * mSb wf true + c * mMb wf true
  bitsAt (2 * k % 8) 2 (seg (base + 2 * k / 8)).toNat

/-- Whether every group of a sparse segment has its first position below its second (02 R65, R66). -/
def metaOk (wf : Nat) (seg : Nat → Byte) : Bool :=
  (List.range 16).all (fun c => (List.range (mKept wf / 2)).all (fun g =>
    metaPos wf seg c (2 * g) < metaPos wf seg c (2 * g + 1)))

/-- A run told to stop before pass `k`, unless it is already to stop at or before it. -/
def stopAt (j : MatJob) (k cause : Nat) : MatJob :=
  match j.stop with
  | some (k', _) => if k' ≤ k then j else { j with stop := some (k, cause) }
  | none => { j with stop := some (k, cause) }

/-- FEEDER_LINE_ARRIVE: the next line of row `r` arrives, in pass order, and fills the queue and the shadow. A line a draining
readout is still to write is held (02 R71); an uncorrectable word or bad metadata stops the run before its pass (R66, R75). -/
def execFeederLineArrive (p r : Nat) (s : State) : Host.Outcome State Fault Refusal :=
  onUnits p nClusters r 16 s (fun s =>
    let c := cluster s p
    match feedJob c (fun j => !rowGated j.gate j.desc r &&
        j.fed.getD r 0 < rdPasses j.desc * mLw (rdWFmt j.desc) (rdSparse j.desc)) with
    | none => s
    | some j =>
      let wf := rdWFmt j.desc
      let sp := rdSparse j.desc
      let lw := mLw wf sp
      let f := j.fed.getD r 0
      let k := f / lw
      let o := segAddr j.desc k r + 64 * (f % lw)
      if lw + 64 ≤ linesAhead c r then s
      else if drainTouches c o then countCl p 0x16 (cIds j.l.cmd) 1 s
      else
        let key := (16 * k + r) * 4096
        let j1 := { j with fed := listSet j.fed r (f + 1), tile := memWrite j.tile (key + 64 * (f % lw)) (spmRead s p o 64) }
        let j2 := if spmBad s p o 64 then stopAt j1 k ccEcc else j1
        let j3 := if sp && f % lw + 1 == lw && !metaOk wf (fun i => memByte j1.tile (key + i)) then stopAt j2 k ccBadMeta
          else j2
        putJob p j3 (eccRead p o 64 s))

/-- The line reads of one pass's activations, in order: where the bytes go in the buffer, where they come from, how many. A
row is cut at line boundaries; its scale bytes follow it (02 R53, R60). -/
def actPieces (d : List Byte) (k : Nat) : List (Nat × Nat × Nat) :=
  (List.range (rdMCount d)).flatMap (fun i =>
    let a := actAddr d k i
    let n := mAb (rdWFmt d) (rdAFmt d) (rdSparse d)
    let sb := mSb (rdWFmt d) (rdSparse d)
    let key := (16 * k + i) * 512
    (rangeFrom (a / 64) ((a + n + 63) / 64 - a / 64)).map (fun line =>
      let lo := max a (64 * line)
      let hi := min (a + n) (64 * line + 64)
      (key + (lo - a), lo, hi - lo)) ++
    (if sb = 0 then [] else [(key + 256, actScaleAddr d k i, sb)]))

/-- ACT_LINE_ARRIVE: the next activation line of the run arrives in the staging buffer, which holds the current pass and the
next (02 R60). `actFed` counts 128 for each whole pass. -/
def execActLineArrive (p : Nat) (s : State) : Host.Outcome State Fault Refusal :=
  onUnit p nClusters s (fun s =>
    let c := cluster s p
    match feedJob c (fun j => !allGated j.gate j.desc && j.actFed / 128 < rdPasses j.desc && j.actFed / 128 ≤ j.started) with
    | none => s
    | some j =>
      let k := j.actFed / 128
      let pieces := actPieces j.desc k
      match pieces[j.actFed % 128]? with
      | none => s
      | some (key, o, n) =>
        if drainTouches c (o / 64 * 64) then countCl p 0x16 (cIds j.l.cmd) 1 s
        else
          let last := j.actFed % 128 + 1 == pieces.length
          let j1 := { j with
            actFed := if last then (k + 1) * 128 else j.actFed + 1
            act := memWrite j.act key (spmRead s p o n) }
          putJob p (if spmBad s p o n then stopAt j1 k ccEcc else j1) (eccRead p o n s))

/-! ### Passes (02 R46-R48, R58; 03 R91-R94) -/

/-- The bytes of a table from a key up. -/
def tabBytes (t : List (Nat × Byte)) (key n : Nat) : List Byte := (List.range n).map (fun i => memByte t (key + i))

/-- The block values of one dot unit and one activation row (03 R92, R93), given the segment, the column within it, and the
row's bytes and scale bytes. -/
def passBlocks (wf af : Nat) (sp : Bool) (kmask : Nat) (seg : Nat → Byte) (c : Nat) (act scl : List Byte) : List Nat :=
  let w := (List.range (mWb wf)).map (fun i => seg (c * mWb wf + i))
  let per := if sp then 16 else 32
  (List.range (mBlocks wf sp)).map (fun b =>
    if bitAt kmask b then
      let ps := (rangeFrom (b * per) per).map (fun j =>
        let k := if sp then 4 * (j / 2) + metaPos wf seg c j else j
        (packedElem wf j w, packedElem af k act))
      blockValue wf af (seg (16 * mWb wf + c * mSb wf sp + b)).toNat (scl.getD b 0).toNat ps
    else 0)

/-- The tree result of column `n` and activation row `i` of pass `k` of a run (03 R94). -/
def passResult (j : MatJob) (k i n : Nat) : Nat :=
  let wf := rdWFmt j.desc
  let af := rdAFmt j.desc
  let sp := rdSparse j.desc
  let kmask := if k + 1 = rdPasses j.desc then rdKMask j.desc else 0xFFFF
  let seg (o : Nat) : Byte := memByte j.tile ((16 * k + n / 16) * 4096 + o)
  blockTree (passBlocks wf af sp kmask seg (n % 16) (tabBytes j.act ((16 * k + i) * 512) (mAb wf af sp))
    (tabBytes j.act ((16 * k + i) * 512 + 256) (mSb wf sp)))

/-- The columns a mask enables. -/
def columnsOf (mask : Nat) : List Nat := bitsOf 256 mask

/-- The results of a pass on their way to the slots, row after row. -/
def passFlights (j : MatJob) (k : Nat) : List Flight :=
  (List.range (rdMCount j.desc)).map (fun i =>
    { ord := j.l.ord, row := i, init := k == 0 && rdInit j.desc,
      vals := (columnsOf (rdNMask j.desc)).map (fun n => (n, BitVec.ofNat 32 (passResult j k i n))) })

/-- CL.MAT_STATUS.ACC_VALID bits of a list of slots set or cleared. -/
def setValid (p : Nat) (rows : List Nat) (v : Bool) (s : State) : State :=
  let m := fld s (rClMatStatus p) fClMatStatusAccValid
  setFld (rClMatStatus p) fClMatStatusAccValid
    (if v then m ||| maskOf rows else maskOf ((bitsOf 16 m).filter (fun i => !rows.contains i))) s

/-- Whether slot `i` is valid, or will be once the results on their way have entered. -/
def slotValid (s : State) (p i : Nat) : Bool :=
  bitAt (fld s (rClMatStatus p) fClMatStatusAccValid) i || (cluster s p).flights.any (fun f => f.row == i && f.init)

/-- Whether every operand of pass `k` has arrived: each ungated row's shadow, and the staging buffer's rows. -/
def weightsReady (j : MatJob) (k : Nat) : Bool :=
  (List.range 16).all (fun r => rowGated j.gate j.desc r ||
    (k + 1) * mLw (rdWFmt j.desc) (rdSparse j.desc) ≤ j.fed.getD r 0)
def actsReady (j : MatJob) (k : Nat) : Bool := allGated j.gate j.desc || (k + 1) * 128 ≤ j.actFed

/-- The enabled logical elements of pass `k`. -/
def enabledK (j : MatJob) (k : Nat) : Nat :=
  if k + 1 = rdPasses j.desc then 32 * popcount 16 (rdKMask j.desc) else mLogicalK (rdWFmt j.desc) (rdSparse j.desc)

/-- A pass begins: the weight registers swap, the rows are broadcast, and their results are on their way (02 R46, R58). -/
def startPass (p : Nat) (j : MatJob) (s : State) : State :=
  let k := j.started
  let i := cIds j.l.cmd
  let mine (e : Nat × Byte) : Bool := e.1 / 4096 / 16 == k
  let gone (e : Nat × Byte) : Bool := rowGated j.gate j.desc (e.1 / 4096)
  let swapped := (j.tile.filter mine).map (fun e => (e.1 - 65536 * k, e.2))
  let fl := passFlights j k
  let s := modCluster p (fun c => { c with
    flights := c.flights ++ fl,
    wAct := swapped.foldl (fun t e => tabPut e.1 e.2 t) (c.wAct.filter gone) }) s
  let s := putJob p { j with
    started := k + 1
    tile := j.tile.filter (fun e => !mine e)
    act := j.act.filter (fun e => e.1 / 512 / 16 != k) } s
  let gated := ((List.range 16).filter (rowGated j.gate j.desc)).length
  let s := countCl p 0x11 i 1 s
  let s := countCl p 0x12 i ((columnsOf (rdNMask j.desc)).length * rdMCount j.desc * enabledK j k) s
  countCl p 0x17 i (gated * rdMCount j.desc) s

/-- MAT_PASS_START: the executing run's next pass begins, or the run stops before it (02 R58, R66, R72, R75). A start offered
before the operands are there counts one cycle of waiting. -/
def execMatPassStart (p : Nat) (s : State) : Host.Outcome State Fault Refusal :=
  onUnit p nClusters s (fun s =>
    match executing (cluster s p) with
    | none => s
    | some j =>
      if !(isRun j && j.phase == .checked) then s
      else
        let k := j.started
        let rows := List.range (rdMCount j.desc)
        let stopped := match j.stop with | some (k', c) => if k' ≤ k then c else 0 | none => 0
        if k = 0 ∧ rdInit j.desc = false ∧ rows.all (slotValid s p) = false then settled p (matFail p j ccAccInvalid s)
        else if stopped ≠ 0 then settled p (matFail p j stopped (setValid p rows false s))
        else if !weightsReady j k then countCl p 0x13 (cIds j.l.cmd) 1 s
        else if !actsReady j k then countCl p 0x14 (cIds j.l.cmd) 1 s
        else settled p (startPass p j s))

/-- MAT_SLOT_UPDATE: the oldest tree result on its way enters its slot (02 R48; 03 R94). -/
def execMatSlotUpdate (p : Nat) (s : State) : Host.Outcome State Fault Refusal :=
  onUnit p nClusters s (fun s =>
    match (cluster s p).flights with
    | [] => s
    | f :: rest =>
      let s := modCluster p (fun c => { c with
        flights := rest
        slots := f.vals.foldl (fun t e =>
          let key := 16 * e.1 + f.row
          let old : Nat := if f.init then 0 else (tabGet (fun _ => (0 : BitVec 32)) t key).toNat
          tabSet (fun _ => 0) t key (BitVec.ofNat 32 (add32 old e.2.toNat))) c.slots }) s
      settled p (if f.init then setValid p [f.row] true s else s))

/-- MAT_RUN_COMPLETE: the oldest run that has broadcast its last row, and whose results have all entered, completes. -/
def execMatRunComplete (p : Nat) (s : State) : Host.Outcome State Fault Refusal :=
  onUnit p nClusters s (fun s =>
    let c := cluster s p
    match c.mat.find? (fun j => isRun j && released j) with
    | none => s
    | some j => if c.flights.any (fun f => f.ord == j.l.ord) then s else settled p (matComplete p j s))

/-! ### Readout (02 R67-R72) -/

/-- The copied slots in the shadow, the copy's clear unless KEEP, and the job draining. The row scales are those fetched
before the copy (02 R68-R70). -/
def copySlots (p : Nat) (j : MatJob) (s : State) : State :=
  let c := cluster s p
  let m := roMCount j.desc
  let mine (e : Nat × BitVec 32) : Bool := e.1 % 16 < m && bitAt c.readMask (e.1 / 16)
  let scl := if roScaleEn j.desc then spmRead s p (roScale j.desc) 1024 else []
  let s := setCluster p { c with
    shadow := c.slots.filter mine
    slots := if roKeep j.desc then c.slots else c.slots.filter (fun e => !mine e) } s
  matBusy p (putJob p { j with phase := .draining, desc := padTo 16 j.desc ++ natLe 32 c.readMask ++ scl } s)

/-- MAT_READOUT_COPY: the executing readout copies its slots, unless a row scale, a slot's valid bit or the parity of a slot
(`bad` lists the slots found in error) refuses it (02 R68, R70, R72). -/
def execMatReadoutCopy (p : Nat) (bad : List Nat) (s : State) : Host.Outcome State Fault Refusal :=
  onUnit p nClusters s (fun s =>
    let c := cluster s p
    match executing c with
    | none => s
    | some j =>
      if !(isReadout j && j.phase == .checked && c.flights.isEmpty) then s
      else if c.mat.any (fun k => k.phase == .draining && k.drained < roMCount k.desc) then
        countCl p 0x15 (cIds j.l.cmd) 1 s
      else
        let rows := List.range (roMCount j.desc)
        let hit := rows.filter (fun i => bad.contains i)
        settled p (
          if roScaleEn j.desc && spmBad s p (roScale j.desc) 1024 then
            matFail p j ccEcc (eccRead p (roScale j.desc) 1024 s)
          else if !rows.all (fun i => bitAt (fld s (rClMatStatus p) fClMatStatusAccValid) i) then matFail p j ccAccInvalid s
          else if !hit.isEmpty then matFail p j ccAccParity (setValid p hit false s)
          else copySlots p j s))

/-- The output code of column `n` of slot `i` of a draining readout, and whether it is not finite (02 R69; 03 R96). -/
def readoutValue (c : Cluster) (j : MatJob) (i n : Nat) : Nat × Bool :=
  let v := (tabGet (fun _ => (0 : BitVec 32)) c.shadow (16 * n + i)).toNat
  let v := if roScaleEn j.desc then mul32 v (leAt (48 + 4 * n) 4 j.desc) else if isNan32 v then nan32 else v
  let out := if roFmt j.desc = 0 then v
    else (convFloat (if roFmt j.desc = 1 then fpBf16 else fp16) .rne false (num32 v)).1
  let f := if roFmt j.desc = 0 then fp32 else if roFmt j.desc = 1 then fpBf16 else fp16
  (out, match decodeNum f out with | .fin _ _ _ => false | _ => true)

/-- The mask of a draining readout: the readout mask as it was at the copy. -/
def drainMask (j : MatJob) : Nat := leAt 16 32 j.desc

/-- The bytes one row of dot units writes for slot `i`: pairs of offset and bytes, enabled columns only. -/
def drainRow (c : Cluster) (j : MatJob) (i r : Nat) : List (Nat × List Byte) :=
  ((rangeFrom (16 * r) 16).filter (bitAt (drainMask j))).map (fun n =>
    (roDst j.desc + i * roStride j.desc + n * roElem j.desc, natLe (roElem j.desc) (readoutValue c j i n).1))

/-- Whether the words a row's write covers only in part include one with an uncorrectable error (05 R157). -/
def drainRowBad (s : State) (p : Nat) (ws : List (Nat × List Byte)) : Bool :=
  let covers (b : Nat) : Bool := ws.any (fun e => e.1 ≤ b && b < e.1 + e.2.length)
  (cluster s p).badWords.any (fun w =>
    let bs := (rangeFrom (8 * w) 8).map covers
    bs.any id && !bs.all id)

/-- Rows from `r` on write their outputs of slot `i`; a refused write ends the readout (05 R157). `false` where it ended. -/
def drainRows (p : Nat) (j : MatJob) (i : Nat) : List Nat → State → Bool × State
  | [], s => (true, s)
  | r :: t, s =>
    let ws := drainRow (cluster s p) j i r
    if drainRowBad s p ws then (false, s)
    else
      let lo := roDst j.desc + i * roStride j.desc + 16 * r * roElem j.desc
      let n := 16 * roElem j.desc
      let whole := ws.length == 16
      let s := if whole then spmStore p lo (ws.flatMap Prod.snd) s
        else ws.foldl (fun s e => spmStore p e.1 e.2 s) s
      let s := if whole then s else modCluster p (fun c => { c with badWords := c.badWords.filter (fun w =>
        !((rangeFrom (8 * w) 8).all (fun b => ws.any (fun e => e.1 ≤ b && b < e.1 + e.2.length)) && lo ≤ 8 * w && 8 * w < lo + n)) }) s
      drainRows p j i t s

/-- MAT_READOUT_DRAIN: one slot of the shadow is scaled, converted and written (02 R69, R70). -/
def execMatReadoutDrain (p : Nat) (s : State) : Host.Outcome State Fault Refusal :=
  onUnit p nClusters s (fun s =>
    match (cluster s p).mat.find? (fun j => j.phase == .draining && j.drained < roMCount j.desc) with
    | none => s
    | some j =>
      let i := j.drained
      let c := cluster s p
      let nf := (columnsOf (drainMask j)).any (fun n => (readoutValue c j i n).2)
      let s := if nf && !j.nonfinite then raiseArith p 0x20 (cIds j.l.cmd) s else s
      let (ok, s) := drainRows p j i (List.range 16) s
      if ok then putJob p { j with drained := i + 1, nonfinite := j.nonfinite || nf } s
      else settled p (matFail p j ccEcc s))

/-- MAT_READOUT_COMPLETE: the last write of a readout is accepted (02 R70). -/
def execMatReadoutComplete (p : Nat) (s : State) : Host.Outcome State Fault Refusal :=
  onUnit p nClusters s (fun s =>
    match (cluster s p).mat.find? (fun j => j.phase == .draining) with
    | none => s
    | some j => if j.drained < roMCount j.desc then s else settled p (matComplete p j s))

end Sys2Proof.Machine
end

