-- ==== Sys2Proof/Machine/Secure.lean ====
section
/-! DEFINITION. Identity, signing and attestation (17): signed objects and their verification, root keys and anti-rollback
counters, measurement, and the services of Table 17-12. -/
namespace Sys2Proof.Machine

/-! ### Signed objects (17 R488-R490) -/

def ohType (o : List Byte) : Nat := leAt 6 2 o
def ohSlot (o : List Byte) : Nat := leAt 8 1 o
def ohSvn (o : List Byte) : Nat := leAt 0xC 4 o
def ohLen (o : List Byte) : Nat := leAt 0x10 8 o
def ohSerial (o : List Byte) : Nat := leAt 0x18 8 o
def ohKey (o : List Byte) : List Byte := slice 0x20 64 o
def ohDigest (o : List Byte) : List Byte := slice 0x60 64 o
def ohPayload (o : List Byte) : List Byte := slice objHeader (ohLen o) o

/-- Bytes of the payload with its padding, and of a signed object with a payload of `n` bytes. -/
def paddedLen (n : Nat) : Nat := (n + 63) / 64 * 64
def sigBytes : Nat := 29792
def objBytes (n : Nat) : Nat := objHeader + paddedLen n + sigBytes

/-- Object types of Table 17-3. -/
def otCcFw : Nat := 1
def otCoreFw : Nat := 2
def otCidFw : Nat := 3
def otFidFw : Nat := 4
def otSeFw : Nat := 5
def otImage : Nat := 0x10
def otTok : Nat := 0x11
def otCalTable : Nat := 0x12
def otDefects : Nat := 0x13
def otCert : Nat := 0x20

/-- The usage bit of a type, and its SVN class where it has one (Table 17-3). -/
def usageBit (t : Nat) : Nat := if t < 6 then t - 1 else if t = 0x20 then 9 else t - 0x10 + 5
def svnClass (t : Nat) : Option Nat := if t = 0x20 then none else some (usageBit t)

/-- The offset of the first field of a header that makes it ill formed for an object of `len` bytes (cause BAD_OBJECT). -/
def headerFault (type len : Nat) (o : List Byte) : Option Nat :=
  if leAt 0 4 o ≠ 0x4F535846 then some 0
  else if leAt 4 2 o ≠ 1 then some 4
  else if ohType o ≠ type then some 6
  else if 3 < ohSlot o then some 8
  else if leAt 9 3 o ≠ 0 then some 9
  else if slice 0xA0 32 o ≠ List.replicate 32 0 then some 0xA0
  else if ohLen o = 0 ∨ 2 ^ 32 < ohLen o ∨ objBytes (ohLen o) ≠ len then some 0x10
  else none

/-- The fused hash of a root slot, and whether it may be used at all (17 R492). -/
def rootHash (k : Nat) : List Byte := (List.range 4).flatMap (fun w => natLe 8 (Config.fuseHash k w).toNat)
def rootUsable (s : State) (k : Nat) : Bool :=
  fld s (rSecRoot k) fSecRootRevoked == 0 && fld s (rSecRoot k) fSecRootBlank == 0

/-- The part serial (15 Table 15-2). -/
def partSerial : Nat := (Config.fuseEntry 0 0).toNat

/-- Causes of Table 17-4. -/
def vcOk : Nat := 0
def vcBadObject : Nat := 1
def vcKey : Nat := 2
def vcUsage : Nat := 3
def vcPart : Nat := 4
def vcDigest : Nat := 5
def vcSignature : Nat := 6
def vcSvn : Nat := 7

/-- The checks of Table 17-4 in order. -/
def verifyCause (s : State) (type len : Nat) (o : List Byte) : Nat :=
  let k := ohSlot o
  if (headerFault type len o).isSome then vcBadObject
  else if shake256 32 (ohKey o) ≠ rootHash k ∨ !rootUsable s k then vcKey
  else if !bitAt (fld s (rSecRoot k) fSecRootUsage) (usageBit type) then vcUsage
  else if ohSerial o ≠ 0 ∧ ohSerial o ≠ partSerial then vcPart
  else if shake256 64 (ohPayload o) ≠ ohDigest o then vcDigest
  else if !Config.slhVerify (ohKey o) (slice 0 objHeader o) (slice (objHeader + paddedLen (ohLen o)) sigBytes o) then vcSignature
  else if (svnClass type).any (fun c => decide (ohSvn o < fld s (rSecSvn c) fSecSvnCount)) then vcSvn
  else vcOk

/-- A verification's result written to SEC.VERIFY_LAST. -/
def noteVerify (o : List Byte) (cause : Nat) (s : State) : State :=
  let s := setFlds rSecVerifyLast [(fSecVerifyLastType, ohType o), (fSecVerifyLastSvn, ohSvn o),
    (fSecVerifyLastSlot, ohSlot o), (fSecVerifyLastCause, cause)] s
  if cause = vcOk then s else raise rSecVerifyLast 0 rSecVerifyLastCnt s

/-- An object verified: its cause. -/
def verify (type : Nat) (o : List Byte) (s : State) : Nat × State :=
  let c := verifyCause s type o.length o
  (c, noteVerify o c s)

/-! ### Flash -/

/-- The key of the second flash bank of CID firmware. -/
def bankB : Nat := 0x43

/-- A signed object in flash; empty where there is none. The part is shipped with firmware and a certificate, and with no
boot image, calibration table or defect map (log 12). -/
def flashObj (s : State) (t : Nat) : List Byte :=
  tabGet (fun k => if k ≤ 5 ∨ k = bankB ∨ k = otCert then Config.shipped k else []) s.flash t

/-- An object written to flash. -/
def setFlash (t : Nat) (o : List Byte) (s : State) : State := { s with flash := tabPut t o s.flash }

/-- The header of the firmware of a type that runs. -/
def runningHeader (s : State) (t : Nat) : List Byte := tabGet (fun _ => []) s.running t

/-- The flash key of the CID firmware in use. -/
def cidBank (s : State) : Nat := if fld s rSecStatus fSecStatusBank = 0 then otCidFw else bankB

/-! ### Measurement (17 R498-R500) -/

/-- A measurement register. -/
def measReg (s : State) (r : Nat) : List Byte := (List.range 8).flatMap (fun w => natLe 8 (rdN s (rSecMeas (8 * r + w))))

/-- A register extended with a 64-byte value. -/
def extend (r type svn : Nat) (d : List Byte) (s : State) : State :=
  let m := shake256 64 (measReg s r ++ d)
  let s := (List.range 8).foldl (fun s w => wr (rSecMeas (8 * r + w)) (BitVec.ofNat 64 (leAt (8 * w) 8 m)) s) s
  let n := fld s rSecStatus fSecStatusLogCount
  let s := if n < 16384 then { s with measLog := ⟨r, type, svn, s.beat, d⟩ :: s.measLog } else s
  setFlds rSecStatus [(fSecStatusLogCount, n + 1), (fSecStatusLogFull, bit (16384 ≤ n + 1))] s

/-- The register that measures an object of a type (Table 17-3); calibre images take 8 at start-up and 9 later. -/
def measOf (t : Nat) : Nat :=
  match t with
  | 1 => 3 | 2 => 2 | 3 => 1 | 4 => 5 | 5 => 4 | 0x10 => 9 | 0x11 => 10 | 0x12 => 7 | _ => 6

/-- An object measured by its header at the moment it takes effect (17 R499). -/
def measureIn (r : Nat) (header : List Byte) (s : State) : State :=
  extend r (ohType header) (ohSvn header) (shake256 64 (padTo objHeader header)) s
def measure (header : List Byte) (s : State) : State := measureIn (measOf (ohType header)) header s

/-- An entry of the measurement log as bytes. -/
def measBytes (m : Meas) : List Byte :=
  natLe 1 m.reg ++ natLe 1 m.type ++ natLe 2 0 ++ natLe 4 m.svn ++ natLe 8 m.beat ++ padTo 64 m.d ++ List.replicate 48 0

/-! ### Objects in use (17 R494, R496) -/

/-- The header of a signed object in HBM. -/
def headerAt (s : State) (a : Nat) : List Byte := hbmPeek s a objHeader

/-- The headers of objects that run, are held or are loaded, and of what flash holds beside firmware. -/
def objectsInUse (s : State) : List (List Byte) :=
  s.running.map (·.2) ++ s.images.map (fun e => headerAt s e.2.addr) ++ s.tokTables.map (fun e => headerAt s e.2.addr) ++
    ([otImage, otCalTable, otDefects].map (flashObj s)).filter (!·.isEmpty)

/-- The same with the firmware stored in flash. -/
def objectsStored (s : State) : List (List Byte) :=
  objectsInUse s ++ ([otCcFw, otCoreFw, otCidFw, bankB, otFidFw, otSeFw].map (flashObj s)).filter (!·.isEmpty)

/-! ### Services (17 Table 17-12) -/

/-- SEC.EXPERT_EN.ENABLE. -/
def secExpert (s : State) : Bool := rdN s (mbxExpertEn mbSec) % 2 == 1

/-- A service that the owner alone may call, grants notwithstanding (17 R494, R496). -/
def ownerService (b code rid : Nat) (args : List Nat) (body : State → Reply × State) (s : State) : State :=
  if isOwner s rid then service b code rid args body s else answerWith stNotOwner [] s

/-- The secret of the identity key (17 R501). -/
def identitySecret : List Byte :=
  shake256 48 (padTo 32 Config.deviceSecret ++ [0x46, 0x58, 0x49, 0x44] ++ [1])

/-- The attestation report before its signature (Table 17-6). -/
def reportBody (s : State) (nonce : List Byte) (mask : Nat) : List Byte :=
  natLe 4 0x54415846 ++ natLe 2 1 ++ natLe 2 mask ++ natLe 8 partSerial ++ natLe 8 (rdN s rModId) ++ natLe 8 s.beat ++
    padTo 32 nonce ++ natLe 4 (fld s (rCalSlot 0) fCalSlotGen) ++ natLe 4 (fld s (rCalSlot 1) fCalSlotGen) ++
    natLe 2 (if leaseLive s then fld s rSerOwner fSerOwnerRid else 0) ++ natLe 2 0 ++
    natLe 4 (fld s rSecStatus fSecStatusLogCount) ++ (List.range 16).flatMap (fun c => natLe 1 (fld s (rSecSvn c) fSecSvnCount)) ++
    natLe 8 (rdN s rModStatus) ++ List.replicate 24 0 ++ (bitsOf 16 mask).flatMap (measReg s)

/-- ATTEST. -/
def execAttest (rid a0 a1 a2 : Nat) (s : State) : Host.Outcome State Fault Refusal :=
  .next (service mbSec 0x1301 rid [a0, a1, a2] (fun s =>
    if fld s rSecStatus fSecStatusCertBad = 1 then (.done 0xB5 [], s)
    else match fwRead s a0 32 with
      | none => (.done stBadArg [], s)
      | some nonce =>
        let body := reportBody s nonce a1
        let report := body ++ padTo 17088 (Config.slhSign identitySecret body)
        if a0 % 64 ≠ 0 ∨ a2 % 64 ≠ 0 ∨ 65536 ≤ a1 ∨ hbmTop s < a2 + report.length then (.done stBadArg [], s)
        else (ok [report.length], fwWrite a2 report s)) s)

/-- CERT_READ. -/
def execCertRead (rid a0 : Nat) (s : State) : Host.Outcome State Fault Refusal :=
  .next (service mbSec 0x1302 rid [a0] (fun s =>
    let c := flashObj s otCert
    if hbmTop s < a0 + c.length then (.done stBadArg [], s) else (ok [c.length], fwWrite a0 c s)) s)

/-- LOG_READ: entries from the oldest, number 0; those past 16,384 are not held. -/
def execLogRead (rid a0 a1 a2 : Nat) (s : State) : Host.Outcome State Fault Refusal :=
  .next (service mbSec 0x1303 rid [a0, a1, a2] (fun s =>
    if a2 = 0 ∨ 16384 < a2 ∨ fld s rSecStatus fSecStatusLogCount < a1 + a2 ∨ hbmTop s < a0 + 128 * a2 then (.done stBadArg [], s)
    else
      let es := (s.measLog.reverse.drop a1).take a2
      (ok [es.length], fwWrite a0 (es.flatMap measBytes) s)) s)

/-- EXTEND. -/
def execExtend (rid a0 a1 : Nat) (s : State) : Host.Outcome State Fault Refusal :=
  .next (service mbSec 0x1304 rid [a0, a1] (fun s =>
    if 16 ≤ a0 then (.done stBadArg [], s)
    else if a0 < 12 then (.done 0xB4 [], s)
    else match fwRead s a1 64 with
      | none => (.done stBadArg [], s)
      | some d => (ok [], extend a0 0 0 d s)) s)

/-- SVN_COMMIT. -/
def execSvnCommit (rid a0 a1 : Nat) (s : State) : Host.Outcome State Fault Refusal :=
  .next (ownerService mbSec 0x1305 rid [a0, a1] (fun s =>
    if !secExpert s then (.done stExpertOff [], s)
    else if 9 ≤ a0 then (.done stBadArg [], s)
    else if 63 < a1 ∨ a1 ≤ fld s (rSecSvn a0) fSecSvnCount then (.done 0xB3 [], s)
    else match (objectsStored s).find? (fun h => svnClass (ohType h) == some a0 && ohSvn h < a1) with
      | some h => (.done 0xB2 [ohType h, ohSvn h], s)
      | none => (ok [], setFld (rSecSvn a0) fSecSvnCount a1 s)) s)

/-- Whether no other usable slot permits some type that slot `k` permits. -/
def lastKey (s : State) (k : Nat) : Bool :=
  (bitsOf 16 (fld s (rSecRoot k) fSecRootUsage)).any (fun b =>
    !(List.range 4).any (fun j => j != k && rootUsable s j && bitAt (fld s (rSecRoot j) fSecRootUsage) b))

/-- REVOKE. -/
def execRevoke (rid a0 : Nat) (s : State) : Host.Outcome State Fault Refusal :=
  .next (ownerService mbSec 0x1306 rid [a0] (fun s =>
    if !secExpert s then (.done stExpertOff [], s)
    else if 4 ≤ a0 then (.done stBadArg [], s)
    else if (objectsInUse s).any (fun h => ohSlot h == a0) then (.done 0xB0 [], s)
    else if lastKey s a0 then (.done 0xB1 [], s)
    else (ok [], setFld (rSecRoot a0) fSecRootRevoked 1 s)) s)

/-! ### Fuses (15 R445) -/

/-- An entry of a fuse field (15 Table 15-2; 17 R492, R495): none where the field or entry does not exist. -/
def fuseRead (s : State) (field e : Nat) : Option Nat :=
  match field with
  | 0 => if e < 1 then some partSerial else none
  | 1 => if e < 14 then some (Config.fuseEntry 1 e).toNat else none
  | 3 => if e < 864 then some (Config.fuseFmax e % 65536) else none
  | 7 =>
    if e < 16 then some (Config.fuseHash (e / 4) (e % 4)).toNat
    else if e < 20 then some (rdN s (rSecRoot (e - 16)) % 65536 + fld s (rSecRoot (e - 16)) fSecRootRevoked * 2 ^ 63) else none
  | 8 => if e < 16 then some (fld s (rSecSvn e) fSecSvnCount) else none
  | _ =>
    let most := if field = 2 then 4096 else if field = 4 then 256 else if field = 5 then 64 else if field = 6 then 16 else 0
    if e < min most (Config.fuseCount field) then some (Config.fuseEntry field e).toNat else none

/-- FUSE_READ of the BRU mailbox. -/
def execFuseRead (rid a0 a1 : Nat) (s : State) : Host.Outcome State Fault Refusal :=
  .next (service mbBru 0x1108 rid [a0, a1] (fun s =>
    match fuseRead s a0 a1 with
    | none => (.done stBadArg [], s)
    | some v => (ok [v], s)) s)

end Sys2Proof.Machine
end

