-- ==== Sys2Proof/Machine/Admit.lean ====
section
/-! DEFINITION. Admission of calibre images (08 R250-R266): the image's fields, and the checks of Table 08-4 in order, with those of
the COMPLICATIONS (10 R326), POWER (14 R438) and FABRIC_RATIOS (13 R375) sections. Every function reads the image in the
staging slot unless it is given another. -/
namespace Sys2Proof.Machine

/-- A refusal: its code and the results RES0 on. -/
abbrev Refusal1 := Option (Nat × List Nat)

/-- A refusal with a code, a section type and an entry. -/
def refuse (code sec entry : Nat) : Refusal1 := some (code, [sec, entry])

/-- The first refusal of a list of checks. -/
def firstOf (l : List (Unit → Refusal1)) : Refusal1 := l.foldl (fun r f => match r with | some x => some x | none => f ()) none

/-- The first index for which a condition fails. -/
def firstBadIdx (n : Nat) (ok : Nat → Bool) : Option Nat := (List.range n).find? (fun i => !ok i)

/-! ### The image's parts -/

def stg : Nat := 2

/-- Section types of Table 08-2. -/
def stClaims : Nat := 1
def stPlacement : Nat := 2
def stDetour : Nat := 3
def stSets : Nat := 4
def stWindows : Nat := 5
def stPrograms : Nat := 6
def stSchedule : Nat := 7
def stEngine : Nat := 8
def stCompl : Nat := 9
def stPower : Nat := 0xA
def stFabric : Nat := 0xB
def stBlobs : Nat := 0xC
def stSpares : Nat := 0xD

/-- Count, offset and length of a section; all 0 where it is absent. -/
def secCount (s : State) (im t : Nat) : Nat := ((imgSection s im t).map (·.1)).getD 0
def secOff (s : State) (im t : Nat) : Nat := ((imgSection s im t).map (·.2.1)).getD 0
def secLen (s : State) (im t : Nat) : Nat := ((imgSection s im t).map (·.2.2)).getD 0

/-- A field of entry `i` of a section with entries of `size` bytes. -/
def secLe (s : State) (im t size i off n : Nat) : Nat := imgLe s im (secOff s im t + size * i + off) n

/-- PLACEMENT: role and ranges of a logical cluster (08 R253). -/
def roleOf (s : State) (im l : Nat) : Nat := secLe s im stPlacement 8 l 0 1
def hintOf (s : State) (im l : Nat) : Nat := secLe s im stPlacement 8 l 2 2
def rangesOn (s : State) (im l : Nat) : Nat := secLe s im stPlacement 8 l 4 2 % 4096

/-- Clusters with a role. -/
def placed (s : State) (im : Nat) : List Nat := (List.range nLogical).filter (fun l => roleOf s im l != 0)

/-- Program blocks: logical cluster and payload offset of each, by walking the section (08 R259). -/
def walkBlocks (s : State) (im : Nat) : List Nat → Nat → List (Nat × Nat)
  | [], _ => []
  | l :: t, off => (l, off) :: walkBlocks s im t (off + 128 + 32 * imgLe s im (off + 2) 2)
def blocksOf (s : State) (im : Nat) : List (Nat × Nat) := walkBlocks s im (placed s im) (secOff s im stPrograms)

/-- A program block's fields. -/
def blkCount (s : State) (im off : Nat) : Nat := imgLe s im (off + 2) 2
def blkMask (s : State) (im off : Nat) : Nat := imgLe s im (off + 8) 8
def blkStart (s : State) (im off st : Nat) : Nat := imgLe s im (off + 0x10 + 2 * st) 2
def blkEnd (s : State) (im off st : Nat) : Nat := imgLe s im (off + 0x48 + 2 * st) 2
def blkCmd (s : State) (im off i : Nat) : Cmd := cmdOfBytes (imgRead s im (off + 128 + 32 * i) 32)

/-- Schedule entries as (cluster, command, period, offset). -/
def schedOf (s : State) (im : Nat) : List (Nat × Nat × Nat × Nat) :=
  (List.range (secCount s im stSchedule)).map (fun i =>
    (secLe s im stSchedule 16 i 0 2, secLe s im stSchedule 16 i 2 2, secLe s im stSchedule 16 i 4 4, secLe s im stSchedule 16 i 8 8))

/-- Windows as (cluster, window, flags, WIN_A, WIN_B). -/
def windowsOf (s : State) (im : Nat) : List (Nat × Nat × Nat × Nat × Nat) :=
  (List.range (secCount s im stWindows)).map (fun i =>
    (secLe s im stWindows 32 i 0 2, secLe s im stWindows 32 i 2 1, secLe s im stWindows 32 i 3 1,
     secLe s im stWindows 32 i 8 8, secLe s im stWindows 32 i 16 8))

/-- An entry of a detour table: router, index, value. -/
abbrev DetourEntry := Nat × Nat × Nat

/-- Detour entries from a payload offset. -/
def detourAt (s : State) (im off n : Nat) : List DetourEntry :=
  (List.range n).map (fun i => (imgLe s im (off + 16 * i) 2, imgLe s im (off + 16 * i + 2) 1, imgLe s im (off + 16 * i + 8) 8))
def activeDetours (s : State) (im : Nat) : List DetourEntry := detourAt s im (secOff s im stDetour) (secCount s im stDetour)

/-- A detour set: the routers it covers and its entries. -/
structure DetourSet where
  covered : List Nat
  entries : List DetourEntry
deriving DecidableEq, Repr

/-- The payload offsets of the set records. -/
def setOffs (s : State) (im : Nat) : Nat → Nat → List Nat
  | 0, _ => []
  | n + 1, off => off :: setOffs s im n (off + 16 + 16 * imgLe s im (off + 8) 2)
def detourSets (s : State) (im : Nat) : List DetourSet :=
  (setOffs s im (secCount s im stSets) (secOff s im stSets)).map (fun off =>
    ⟨((List.range 4).map (fun i => imgLe s im (off + 2 * i) 2)).filter (· != 0xFFFF), detourAt s im (off + 16) (imgLe s im (off + 8) 2)⟩)

/-- Engine settings of MSDn (08 R262). -/
def engLe (s : State) (im n off k : Nat) : Nat := secLe s im stEngine 256 n off k

/-! ### Check 1 (08 R250, R251) -/

/-- The image header's first field out of rule, by payload offset. -/
def imgHeadFault (s : State) : Option Nat :=
  let f := imgLe s stg
  let payload := match look s.images stg with
    | some i => leNat (hbmPeek s (i.addr + 0x10) 8)
    | none => 0
  if f 0 4 ≠ 0x4C414358 then some 0
  else if f 4 2 ≠ 1 then some 4
  else if f 6 2 = 0 ∨ 16 < f 6 2 then some 6
  else if f 8 4 = 0 then some 8
  else if f 0x28 8 ≠ payload ∨ 2 ^ 28 < f 0x28 8 then some 0x28
  else if f 0x30 8 < 1000 ∨ 1000000000 < f 0x30 8 then some 0x30
  else if 10000000000 < f 0x38 8 then some 0x38
  else if f 0x48 8 % 64 ≠ 0 ∨ hbmTop s < f 0x48 8 + 51200 then some 0x48
  else if 32 ≤ f 0x50 4 then some 0x50
  else if 1 < f 0x58 1 then some 0x58
  else if 1 < f 0x59 1 then some 0x59
  else if 1 < f 0x5A 1 then some 0x5A
  else if imgRead s stg 0x5B 37 ≠ List.replicate 37 0 then some 0x5B
  else none

/-- The entry size that Table 08-2 states as a figure, and the exact count. -/
def entrySize (t : Nat) : Option Nat :=
  match t with
  | 1 => some 16 | 2 => some 8 | 3 => some 16 | 5 => some 32 | 7 => some 16 | 8 => some 256 | 0xC => some 96 | 0xD => some 32 | _ => none
def entryCount (t : Nat) : Option Nat := match t with | 2 => some 800 | 8 => some 16 | _ => none

/-- The directory's first field out of rule. -/
def dirFault (s : State) : Option Nat :=
  let n := imgLe s stg 6 2
  let at_ (i o k : Nat) : Nat := imgLe s stg (0x80 + 16 * i + o) k
  (List.range 16).foldl (fun r i =>
    match r with
    | some x => some x
    | none =>
      let b := 0x80 + 16 * i
      let t := at_ i 0 2
      let off := at_ i 8 4
      let len := at_ i 12 4
      if n ≤ i then (if imgRead s stg b 16 = List.replicate 16 0 then none else some b)
      else if t = 0 ∨ 0xD < t ∨ (List.range i).any (fun j => at_ j 0 2 == t) = true then some b
      else if at_ i 2 2 ≠ 0 then some (b + 2)
      else if (entryCount t).any (· != at_ i 4 4) = true then some (b + 4)
      else if off % 64 ≠ 0 ∨ off < 0x180 ∨ imgLe s stg 0x28 8 < off + len ∨
          (List.range i).any (fun j => at_ j 8 4 < off + len && off < at_ j 8 4 + at_ j 12 4) = true then some (b + 8)
      else if (entrySize t).any (fun z => z * at_ i 4 4 != len) = true then some (b + 12)
      else none) none

/-- Required sections. -/
def requiredSections : List Nat := [1, 2, 4, 6, 8, 9, 0xA]

/-- The fields of the sections whose checks chapter 08 gives and whose failures have no code of their own. -/
def sectionFault (s : State) : Refusal1 :=
  let bad (t : Nat) (n : Nat) (ok : Nat → Bool) : Refusal1 := (firstBadIdx n ok).bind (fun i => refuse 0x10 t i)
  let detourOk (e : DetourEntry) : Bool :=
    let o := fget fClRtrDetourOutPort (BitVec.ofNat 64 e.2.2)
    e.1 < nClusters && e.2.1 < 32 && o != 4 && portPresent e.1 o
  firstOf [
    fun _ => bad stClaims (secCount s stg stClaims) (fun i =>
      let r := secLe s stg stClaims 16 i 0 2
      1 ≤ r && r ≤ 0xB && secLe s stg stClaims 16 i 4 4 == 0),
    fun _ => bad stPlacement nLogical (fun l =>
      roleOf s stg l ≤ 2 && secLe s stg stPlacement 8 l 1 1 == 0 && (hintOf s stg l < nClusters || hintOf s stg l == 0xFFFF) &&
        secLe s stg stPlacement 8 l 4 2 < 4096 && secLe s stg stPlacement 8 l 6 2 == 0),
    fun _ => bad stDetour (secCount s stg stDetour) (fun i =>
      secLe s stg stDetour 16 i 3 5 == 0 && detourOk ((activeDetours s stg).getD i (0, 0, 0))),
    fun _ =>
      let offs := setOffs s stg (secCount s stg stSets) (secOff s stg stSets)
      bad stSets offs.length (fun i =>
        let off := offs.getD i 0
        let n := imgLe s stg (off + 8) 2
        imgLe s stg (off + 10) 6 == 0 && off + 16 + 16 * n ≤ secOff s stg stSets + secLen s stg stSets &&
          (List.range 4).all (fun j => let c := imgLe s stg (off + 2 * j) 2; c < nClusters || c == 0xFFFF) &&
          (detourAt s stg (off + 16) n).all detourOk && (List.range n).all (fun j => imgLe s stg (off + 16 + 16 * j + 3) 5 == 0)),
    fun _ => bad stEngine nMsd (fun n =>
      (List.range 64).all (fun j => bitsAt 5 2 (engLe s stg n j 1) == 0) &&
        (List.range 32).all (fun q => let p := engLe s stg n (0x40 + 2 * q) 2; p < nLogical || p == 1023 || p == 0xFFFF) &&
        engLe s stg n 0x80 4 < 2 && imgRead s stg (secOff s stg stEngine + 256 * n + 0x88) 120 == List.replicate 120 0),
    fun _ => bad stBlobs (secCount s stg stBlobs) (fun i =>
      let f := secLe s stg stBlobs 96 i
      let a := f 8 8
      f 4 4 < 2 && 1 ≤ f 16 8 && f 16 8 ≤ 2 ^ 36 && f 88 8 == 0 &&
        (if f 4 4 = 0 then a % 65536 == 0 && a + f 16 8 ≤ hbmTop s else decide (companionBase ≤ a))),
    fun _ => bad stSpares (secCount s stg stSpares) (fun i =>
      let f := secLe s stg stSpares 32 i
      (f 0 2 < nLogical || f 0 2 == 0xFFFF) && 1 ≤ f 2 1 && f 2 1 ≤ 8 && f 3 5 == 0 && f 24 8 == 0 &&
        (List.range (f 2 1)).all (fun j => f (8 + 2 * j) 2 < nClusters) &&
        (List.range i).all (fun j => secLe s stg stSpares 32 j 0 2 != f 0 2))]

/-- Check 1 past the signed-object header. -/
def check1 (s : State) : Refusal1 :=
  firstOf [
    fun _ => (imgHeadFault s).bind (refuse 0x10 0),
    fun _ => (dirFault s).bind (refuse 0x10 0),
    fun _ => (requiredSections.find? (fun t => (imgSection s stg t).isNone)).bind (fun t => refuse 0x10 t 0),
    fun _ => sectionFault s]

/-! ### Checks 4 to 7 -/

def check4 (s : State) : Refusal1 :=
  if imgLe s stg 0x10 2 ≠ fld s rModId fModIdPart then refuse 0x13 0 0x10
  else if imgLe s stg 0x12 1 ≠ fld s rModId fModIdStepMajor then refuse 0x13 0 0x12
  else if imgLe s stg 0x13 1 ≠ fld s rModId fModIdStepMinor then refuse 0x13 0 0x13 else none

def check5 (s : State) : Refusal1 :=
  ([(otCcFw, 0x18), (otSeFw, 0x1C), (otCidFw, 0x20), (otFidFw, 0x24)].find? (fun e =>
    Config.fwVersion (runningHeader s e.1) < imgLe s stg e.2 4)).bind (fun e => refuse 0x14 0 e.2)

def check6 (s : State) : Refusal1 :=
  if [0, 1].any (fun i => fld s (rCalSlot i) fCalSlotState != 0 && fld s (rCalSlot i) fCalSlotGen == imgLe s stg 8 4) then
    refuse 0x15 0 8 else none

def check7 (s : State) : Refusal1 :=
  let p := imgLe s stg 0xC 4
  if p ≠ 0 ∧ p ≠ activeGen s then refuse 0x16 0 0xC else none

/-! ### Claims (08 R252, checks 8 and 9) -/

/-- The largest of a list. -/
def maxOf (l : List Nat) : Nat := l.foldl max 0

/-- The 64 KiB chunks that runs of bytes cover, counted once. -/
def insertRun (r : Nat × Nat) : List (Nat × Nat) → List (Nat × Nat)
  | [] => [r]
  | x :: t => if r.1 ≤ x.1 then r :: x :: t else x :: insertRun r t
def chunkCount (runs : List (Nat × Nat)) : Nat :=
  let cs := (runs.filter (fun r => 0 < r.2)).map (fun r => (r.1 / 65536, (r.1 + r.2 - 1) / 65536 + 1))
  ((cs.foldr insertRun []).foldl (fun (acc : Nat × Nat) r => (acc.1 + (r.2 - max r.1 acc.2), max r.2 acc.2)) (0, 0)).1

/-- Runs of HBM an image's object, blobs and generation map take. -/
def imageRuns (s : State) (im : Nat) : List (Nat × Nat) :=
  (match look s.images im with | some i => [(i.addr, i.len)] | none => []) ++ hbmBlobs s im

/-- The share of slice `j` on lane group `k` (13 Table 13-1). -/
def shareOf (s : State) (im j k : Nat) : Nat := secLe s im stFabric 1024 0 (0x128 + 32 * j + k) 1

/-- Resources and indices in the order of Table 08-3. -/
def resources : List (Nat × Nat) :=
  (rangeFrom 1 7).map (fun r => (r, 0)) ++ (List.range 16).map (fun n => (8, n)) ++ (List.range 16).map (fun n => (9, n)) ++
    (List.range 18).map (fun k => (0xA, k)) ++ [(0xB, 0)]

/-- The number of entries one router holds in a table, at most. -/
def mostPerRouter (es : List DetourEntry) : Nat := maxOf (es.map (fun e => (es.filter (fun x => x.1 == e.1)).length))

/-- The amount computed from the image's sections. -/
def computed (s : State) (r i : Nat) : Nat :=
  match r with
  | 1 => (placed s stg).length
  | 2 => ((List.range nLogical).filter (fun l => roleOf s stg l == 2)).length
  | 3 => maxOf ((List.range nLogical).map (fun l => 0x200000 * popcount 12 (rangesOn s stg l)))
  | 4 => maxOf ((List.range nLogical).map (fun l => ((windowsOf s stg).filter (fun w => w.1 == l)).length))
  | 5 => maxOf (mostPerRouter (activeDetours s stg) :: (detourSets s stg).map (fun z => mostPerRouter z.entries))
  | 6 => maxOf ((blocksOf s stg).map (fun b => blkCount s stg b.2))
  | 7 => maxOf ((List.range nLogical).map (fun l => ((schedOf s stg).filter (fun e => e.1 == l)).length))
  | 8 => ((List.range 64).filter (fun j => !bitAt (engLe s stg i j 1) 7)).length
  | 9 => engLe s stg i 0x84 4
  | 0xA => if (imgSection s stg stFabric).isNone then 0 else ((List.range 16).map (fun j => shareOf s stg j i)).foldl (· + ·) 0
  | _ => 65536 * chunkCount ((imgLe s stg 0x48 8, 51200) :: imageRuns s stg)

/-- The capacity of a resource (Table 08-3), and its refusal code. -/
def capacity (s : State) (r : Nat) : Nat :=
  match r with
  | 1 => 800 | 2 => 64 | 3 => 0x1800000 | 4 => 64 | 5 => 32 | 6 => 8192 | 7 => 256 | 8 => 64 | 9 => 0x2800000 | 0xA => 64
  | _ => hbmTop s - 65536 * chunkCount (imageRuns s 0 ++ imageRuns s 1)
def claimCode (r : Nat) : Nat :=
  match r with
  | 1 => 0x18 | 2 => 0x29 | 3 => 0x19 | 4 => 0x1A | 5 => 0x1B | 6 => 0x1C | 7 => 0x1D | 8 => 0x1E | 9 => 0x2A | 0xA => 0x27 | _ => 0x28

/-- Claim `i` as resource, index and amount. -/
def claimAt (s : State) (i : Nat) : Nat × Nat × Nat :=
  (secLe s stg stClaims 16 i 0 2, secLe s stg stClaims 16 i 2 2, secLe s stg stClaims 16 i 8 8)

def check8 (s : State) : Refusal1 :=
  let n := secCount s stg stClaims
  firstOf [
    fun _ => (firstBadIdx n (fun i =>
      let c := claimAt s i
      resources.contains (c.1, c.2.1) && c.2.2 == computed s c.1 c.2.1 &&
        (List.range i).all (fun j => let d := claimAt s j; !(d.1 == c.1 && d.2.1 == c.2.1)))).bind (refuse 0x17 stClaims),
    fun _ => (resources.find? (fun r => !(List.range n).any (fun i => let c := claimAt s i; c.1 == r.1 && c.2.1 == r.2))).bind
      (fun r => some (0x17, [stClaims, n, r.1, r.2]))]

/-- Whether the routes of two or more slices cross a lane group where one of them has a share of 0 (13 R388). -/
def shareZero (s : State) (k : Nat) : Bool :=
  let used (j : Nat) : Bool :=
    secLe s stg stFabric 1024 0 (0x120 + 32 * j) 2 ≤ secLe s stg stFabric 1024 0 (0x122 + 32 * j) 2 &&
      bitAt (secLe s stg stFabric 1024 0 (0x124 + 32 * j) 4) k
  let js := (List.range 16).filter used
  (imgSection s stg stFabric).isSome && 2 ≤ js.length && js.any (fun j => shareOf s stg j k == 0)

def check9 (s : State) : Refusal1 :=
  (resources.find? (fun r => capacity s r.1 < computed s r.1 r.2 || (r.1 == 0xA && shareZero s r.2))).bind (fun r =>
    refuse (claimCode r.1) stClaims (((List.range (secCount s stg stClaims)).find? (fun i =>
      let c := claimAt s i; c.1 == r.1 && c.2.1 == r.2)).getD 0))

/-! ### Checks 10 and 11 -/

/-- Hints that differ from the present holders (08 R254). -/
def drifting (s : State) : List Nat :=
  (List.range nLogical).filter (fun l => hintOf s stg l != 0xFFFF && hintOf s stg l != physOf s l)

def check10 (s : State) : Refusal1 :=
  firstOf [
    fun _ => ((placed s stg).find? (fun l => !held s l)).bind (refuse 0x1F stPlacement),
    fun _ => if imgLe s stg 0x5A 1 = 1 then (drifting s).head?.bind (refuse 0x20 stPlacement) else none,
    fun _ => (firstBadIdx nMsd (fun n => (List.range 32).all (fun q =>
      let p := engLe s stg n (0x40 + 2 * q) 2
      nLogical ≤ p || roleOf s stg p != 0))).bind (refuse 0x2E stEngine)]

/-- The first valid entry of a router in a table that matches a destination and channel: its output port. -/
def tableHit (es : List DetourEntry) (p q vc : Nat) : Option Nat :=
  (((List.range 32).filterMap (fun e => es.find? (fun x => x.1 == p && x.2.1 == e))).find? (fun x =>
    let v := BitVec.ofNat 64 x.2.2
    fget fClRtrDetourValid v == 1 && bitAt (fget fClRtrDetourVcMask v) vc && fget fClRtrDetourXLo v ≤ xOf q &&
      xOf q ≤ fget fClRtrDetourXHi v && fget fClRtrDetourYLo v ≤ yOf q && yOf q ≤ fget fClRtrDetourYHi v)).map (fun x =>
        fget fClRtrDetourOutPort (BitVec.ofNat 64 x.2.2))

/-- Whether a detoured packet never turns from east or south to west or north on its way (06 R189); `pos` says that its last
step was a positive one. A packet that leaves the mesh or comes back to a router without end keeps the rule. -/
def turnsOk (es : List DetourEntry) (q vc : Nat) : Nat → Nat → Bool → Bool
  | 0, _, _ => true
  | n + 1, p, pos =>
    if p = q then true
    else
      let o := (tableHit es p q vc).getD (orderPort p q)
      if o = 0 ∨ o = 3 then (if pos then false else turnsOk es q vc n (neighbour p o) false)
      else if o = 1 ∨ o = 2 then turnsOk es q vc n (neighbour p o) true
      else true

/-- A table that keeps the negative-first rule. -/
def tableOk (es : List DetourEntry) : Bool :=
  es.all (fun e => (List.range nClusters).all (fun q => (List.range 4).all (fun vc =>
    (tableHit es e.1 q vc).isNone || turnsOk es q vc 2000 e.1 false)))

/-- Check 11: the negative-first rule in the active table and in each set, and one own set for every router. -/
def check11 (s : State) : Refusal1 :=
  let act := activeDetours s stg
  let sets := detourSets s stg
  let firsts := (setOffs s stg (secCount s stg stSets) (secOff s stg stSets)).map (fun off => imgLe s stg off 2)
  firstOf [
    fun _ => if tableOk act then none else refuse 0x21 stDetour ((firstBadIdx act.length (fun i => tableOk (act.take (i + 1)))).getD 0),
    fun _ => (firstBadIdx sets.length (fun i => tableOk (((sets[i]?).map (·.entries)).getD []) &&
      (firsts.getD i 0 == 0xFFFF || !(firsts.take i).contains (firsts.getD i 0)))).bind (refuse 0x21 stSets),
    fun _ => if (List.range nClusters).all firsts.contains then none else refuse 0x21 stSets sets.length]

/-! ### Checks 12 to 14 -/

def check12 (s : State) : Refusal1 :=
  let ws := windowsOf s stg
  (firstBadIdx ws.length (fun i =>
    let w := ws.getD i (0, 0, 0, 0, 0)
    let a := BitVec.ofNat 64 w.2.2.2.1
    let b := BitVec.ofNat 64 w.2.2.2.2
    let base := fget fClWinABase a
    let len := fget fClWinALen a
    w.1 < nLogical && w.2.1 < 64 && w.2.2.1 < 2 && secLe s stg stWindows 32 i 4 4 == 0 && secLe s stg stWindows 32 i 24 8 == 0 &&
      (a &&& ~~~winARw) == 0 && (b &&& ~~~winBRw) == 0 && 1 ≤ len && base + len ≤ 393216 &&
      fget fClWinBSrcLo b ≤ fget fClWinBSrcHi b && (rangesOf (64 * base) (64 * len) &&& rangesOn s stg w.1) == rangesOf (64 * base) (64 * len) &&
      (ws.take i).all (fun x => !(x.1 == w.1 && x.2.1 == w.2.1)))).bind (refuse 0x2B stWindows)

/-- Whether a program block's head is in rule (08 R259). -/
def headOk (s : State) (l off : Nat) : Bool :=
  let n := blkCount s stg off
  let st (i : Nat) : Nat := blkStart s stg off i
  let en (i : Nat) : Nat := blkEnd s stg off i
  imgLe s stg off 2 == l && n ≤ 8192 && imgLe s stg (off + 4) 4 == 0 && blkMask s stg off < 2 ^ 56 &&
    off + 128 + 32 * n ≤ secOff s stg stPrograms + secLen s stg stPrograms &&
    (List.range 28).all (fun i => st i ≤ en i && en i ≤ n &&
      (List.range i).all (fun j => en i ≤ st i || en j ≤ st j || en i ≤ st j || en j ≤ st i))

/-- A command of an image: its refusal code, 0 where it passes. -/
def imgCmdCode (c : Cmd) : Nat :=
  if !isOpcode (cOpcode c) || !fieldsOk c then 0x2C
  else if operandCause c ≠ 0 then (if operandCause c = ccBadSem ∧ cOpcode c = opSemSignal then 0x22 else 0x2C)
  else if reservedCause c ≠ 0 then 0x22 else 0

def check13 (s : State) : Refusal1 :=
  (blocksOf s stg).foldl (fun r b =>
    match r with
    | some x => some x
    | none =>
      if !headOk s b.1 b.2 then some (0x2C, [stPrograms, b.1, 0xFFFFFFFF])
      else (firstBadIdx (blkCount s stg b.2) (fun i => imgCmdCode (blkCmd s stg b.2 i) == 0)).bind (fun i =>
        some (imgCmdCode (blkCmd s stg b.2 i), [stPrograms, b.1, i]))) none

/-- The timed commands of the programs, by cluster and index. -/
def timedCmds (s : State) (im : Nat) : List (Nat × Nat) :=
  (blocksOf s im).flatMap (fun b => ((List.range (blkCount s im b.2)).filter (fun i => cLaunch (blkCmd s im b.2 i) == 1)).map (fun i => (b.1, i)))

def check14 (s : State) : Refusal1 :=
  let es := schedOf s stg
  let timed := timedCmds s stg
  firstOf [
    fun _ => (firstBadIdx es.length (fun i =>
      let e := es.getD i (0, 0, 0, 0)
      timed.contains (e.1, e.2.1) && e.2.2.2 ≤ 2 ^ 40 && (es.take i).all (fun x => !(x.1 == e.1 && x.2.1 == e.2.1)))).bind (refuse 0x2D stSchedule),
    fun _ => if timed.all (fun t => es.any (fun e => e.1 == t.1 && e.2.1 == t.2)) then none else refuse 0x2D stSchedule es.length,
    fun _ => ((blocksOf s stg).flatMap (fun b => ((List.range (blkCount s stg b.2)).filter (fun i =>
      let c := blkCmd s stg b.2 i; cLaunch c == 1 && c.w1 != 0)).map (fun i => (b.1, i)))).head?.bind (fun e =>
        some (0x2D, [stPrograms, e.1, e.2]))]

/-! ### COMPLICATIONS (10 R305, R326) -/

/-- A finite FP32 code as a number to compare: +0 and −0 alike. -/
def finKey (x : Nat) : Int := if signOf32 x then -((x % 2 ^ 31 : Nat) : Int) else ((x % 2 ^ 31 : Nat) : Int)
/-- Whether an FP32 code is finite and lies from `lo` to `hi`. -/
def inRange32 (lo hi x : Nat) : Bool := isFin32 x && finKey lo ≤ finKey x && finKey x ≤ finKey hi

/-- FP32 codes of 1/16, 16 and −16. -/
def sixteenth32 : Nat := 0x3D800000
def sixteen32 : Nat := 0x41800000
def minus16 : Nat := 0xC1800000

/-- The first field of a generation parameter block out of its range (10 Table 10-2). -/
def paramFault (d : List Byte) (draftMax : Nat) : Option Nat :=
  let f (o : Nat) : Nat := leAt o 4 d
  if !inRange32 0 sixteen32 (f 0) then some 0
  else if 1024 < f 4 then some 4
  else if !(inRange32 0 one32 (f 8) && 0 < finKey (f 8)) then some 8
  else if !(inRange32 0 one32 (f 0xC) && finKey (f 0xC) < finKey one32) then some 0xC
  else if !inRange32 sixteenth32 sixteen32 (f 0x10) then some 0x10
  else if !inRange32 minus16 sixteen32 (f 0x14) then some 0x14
  else if !inRange32 minus16 sixteen32 (f 0x18) then some 0x18
  else if 65536 < f 0x1C then some 0x1C
  else if draftMax < leAt 0x30 1 d then some 0x30
  else if 1 < leAt 0x31 1 d then some 0x31
  else if slice 0x32 14 d ≠ List.replicate 14 0 then some 0x32
  else none

/-- A field of the COMPLICATIONS entry of an image. -/
def cplLe (s : State) (im off n : Nat) : Nat := secLe s im stCompl 1024 0 off n

/-- Page bytes of a shape byte (07 R239), and whether it is one of Table 07-9. -/
def shapePage (b : Nat) : Nat := 128 * (64 * 2 ^ (b % 4)) * (if b / 16 = 0 then 2 else 1)
def shapeOk (b : Nat) : Bool := b % 4 != 3 && b / 4 % 4 == 0 && (b / 16 == 0 || b / 16 == 2 || b / 16 == 3)

/-- Vocabulary size of a tokeniser slot's table. -/
def vocabOf (s : State) (slot : Nat) : Nat :=
  match look s.tokTables slot with
  | some t => leNat (hbmPeek s (t.addr + objHeader + 8) 4)
  | none => 0

/-- Extents of HBM the entry declares: field offset, address, bytes. -/
def cplExtents (s : State) (im : Nat) : List (Nat × Nat × Nat) :=
  let f := cplLe s im
  [(0x18, f 0x18 8, f 0x10 2 * f 0x12 2 * f 0x14 4 * shapePage (f 1 1)), (0x20, f 0x20 8, f 0x28 8)] ++
    (List.range 8).flatMap (fun i =>
      let o := 0x140 + 32 * i
      if f (o + 16) 4 = 0 then [] else [(o, f o 8, f (o + 16) 4 * f (o + 24) 4), (o + 8, f (o + 8) 8, 16 * f (o + 16) 4)]) ++
    (List.range 16).flatMap (fun i => let o := 0x240 + 16 * i; if f (o + 8) 4 = 0 then [] else [(o, f o 8, f (o + 8) 4)])

/-- An index's fields as for SE.TOPK (07 R245). -/
def indexFault (s : State) (im i : Nat) : Option Nat :=
  let o := 0x140 + 32 * i
  let f (k n : Nat) : Nat := cplLe s im (o + k) n
  if f 16 4 = 0 then none
  else if f 0 8 % 64 ≠ 0 then some o
  else if f 20 2 < 32 ∨ 4096 < f 20 2 ∨ f 20 2 % 32 ≠ 0 then some (o + 20)
  else if f 22 1 ≠ 2 ∧ f 22 1 ≠ 4 then some (o + 22)
  else if 1 < f 23 1 then some (o + 23)
  else if 2 ^ log2 (f 24 4) ≠ f 24 4 ∨ f 24 4 < f 20 2 + 4 * f 23 1 ∨ 65536 < f 24 4 then some (o + 24)
  else if f 28 4 ≠ 0 then some (o + 28) else none

/-- The first field of the entry out of its range (Table 10-7). -/
def cplFault (s : State) : Option Nat :=
  let f := cplLe s stg
  let zeros (o n : Nat) : Bool := imgRead s stg (secOff s stg stCompl + o) n == List.replicate n 0
  let out (o v lo hi : Nat) : Unit → Option Nat := fun _ => if v < lo ∨ hi < v then some o else none
  let chk (o : Nat) (ok : Bool) : Option Nat := if ok then none else some o
  let exts := cplExtents s stg
  let l : List (Unit → Option Nat) := [
    fun _ => chk 0 (f 0 1 < 4 && (look s.tokTables (f 0 1)).isSome),
    fun _ => chk 1 (shapeOk (f 1 1)), out 2 (f 2 1) 0 8, out 3 (f 3 1) 0 1, out 4 (f 4 4) 64 262144, out 8 (f 8 4) 1 16384,
    out 0xC (f 0xC 4) 64 65536, out 0x10 (f 0x10 2) 1 512, out 0x12 (f 0x12 2) 1 64, fun _ => chk 0x14 (f 0x14 4 != 0),
    fun _ => chk 0x18 (f 0x18 8 % 65536 == 0), fun _ => chk 0x20 (f 0x20 8 % 65536 == 0), fun _ => chk 0x28 (f 0x28 8 % 4096 == 0),
    fun _ => chk 0x30 ((f 0x30 8 == 0) == (f 0x38 8 == 0) && (f 0x30 8 == 0 || (f 0x30 8 % 4096 == 0 && companionBase ≤ f 0x30 8))),
    fun _ => chk 0x38 (f 0x38 8 % 4096 == 0), fun _ => chk 0x40 (f 0x40 4 < f 0x14 4), out 0x44 (f 0x44 2) 1 64,
    out 0x48 (f 0x48 4) 1000 100000000, fun _ => chk 0x4C (f 0x4C 4 < vocabOf s (f 0 1)),
    fun _ => chk 0x50 (f 0x50 8 == 0 || 1000000 ≤ f 0x50 8), fun _ => chk 0x58 (zeros 0x58 40),
    fun _ => (paramFault (imgRead s stg (secOff s stg stCompl + 0x80) 64) (f 2 1)).map (0x80 + ·),
    fun _ => ((List.range 8).find? (fun i => f (0xC2 + 16 * i) 2 != 0)).map (fun i => 0xC2 + 16 * i),
    fun _ => (List.range 8).findSome? (indexFault s stg),
    fun _ => ((List.range 16).find? (fun i => f (0x240 + 16 * i + 12) 4 != 0)).map (fun i => 0x240 + 16 * i + 12),
    fun _ => chk 0x340 (zeros 0x340 192),
    fun _ => ((List.range exts.length).find? (fun i =>
      let e := exts.getD i (0, 0, 0)
      hbmTop s < e.2.1 + e.2.2 || (exts.take i).any (fun x => x.2.1 < e.2.1 + e.2.2 && e.2.1 < x.2.1 + x.2.2))).map (fun i =>
        (exts.getD i (0, 0, 0)).1)]
  l.foldl (fun r g => match r with | some x => some x | none => g ()) none

/-- The fields of the page pool in which an image with kv_compat 1 must equal the active one, by offset and size. -/
def compatFields : List (Nat × Nat) := [(1, 1), (0x10, 2), (0x12, 2), (0x14, 4), (0x18, 8), (0x20, 8)]

def checkCompl (s : State) : Refusal1 :=
  firstOf [
    fun _ => if secLen s stg stCompl = 1024 ∧ secCount s stg stCompl = 1 then none else refuse 0x23 stCompl 0,
    fun _ => (cplFault s).bind (refuse 0x23 stCompl),
    fun _ => if (List.range nLogical).any (fun l => roleOf s stg l == 2) then none else refuse 0x23 stPlacement 800,
    fun _ => if imgLe s stg 0x59 1 = 1 ∧ (look s.images 0).isSome = true then
        (compatFields.find? (fun e => cplLe s stg e.1 e.2 != cplLe s 0 e.1 e.2)).bind (fun e => refuse 0x23 stCompl e.1)
      else none]

/-! ### POWER (14 R438) and FABRIC_RATIOS (13 R375) -/

def checkPower (s : State) : Refusal1 :=
  let f (o n : Nat) : Nat := secLe s stg stPower 1664 0 o n
  firstOf [
    fun _ => if secLen s stg stPower = 1664 ∧ secCount s stg stPower = 1 then none else refuse 0x24 stPower 0,
    fun _ => if f 0 4 < 6000 ∨ 18000 < f 0 4 then refuse 0x24 stPower 0 else none,
    fun _ => if 1 < f 4 1 then refuse 0x24 stPower 4 else none,
    fun _ => if 64 < f 5 1 then refuse 0x24 stPower 5 else none,
    fun _ => if f 6 1 = 0 ∨ 64 < f 6 1 then refuse 0x24 stPower 6 else none,
    fun _ => if 1 < f 7 1 then refuse 0x24 stPower 7 else none,
    fun _ => if imgRead s stg (secOff s stg stPower + 8) 56 = List.replicate 56 0 then none else refuse 0x24 stPower 8,
    fun _ => (firstBadIdx nLogical (fun l =>
      let v := f (0x40 + 2 * l) 2
      v == 0 || (500 ≤ v && v ≤ 1200 && v % 10 == 0))).bind (fun l => refuse 0x24 stPower (0x40 + 2 * l))]

/-- The slot a side lane group reaches by R370. -/
def sideSlot (s : State) (k : Nat) : Nat := (ownSlot s + k + 1) % 16
/-- Whether a lane group carries the side link to a member of the group. -/
def sideLane (s : State) (k : Nat) : Bool := k < 15 && sideSlot s k < groupSize s

def fabFault (s : State) : Option Nat :=
  let f (o n : Nat) : Nat := secLe s stg stFabric 1024 0 o n
  let role (k : Nat) : Nat := f (16 * k) 1
  let lane (k : Nat) : Option Nat :=
    if 3 < role k ∨ (role k = 3 ∧ ownRole s = 0) ∨ (role k = 2 ∧ sideLane s k = true) ∨ (role k = 1 ∧ sideLane s k = false) then some (16 * k)
    else if 3 < f (16 * k + 1) 1 ∨ (role k ≠ 3 ∧ f (16 * k + 1) 1 ≠ 0) then some (16 * k + 1)
    else if role k = 1 ∧ f (16 * k + 2) 1 ≠ sideSlot s k then some (16 * k + 2)
    else if role k = 1 ∧ f (16 * k + 3) 1 ≠ 14 - k then some (16 * k + 3)
    else none
  let reaches (g : Nat) : Bool := (List.range 18).any (fun k => role k == 3 && (List.range (2 ^ f (16 * k + 1) 1)).any (fun i =>
    f (16 * k + 8 + i) 1 == g))
  let lo (j : Nat) : Nat := f (0x120 + 32 * j) 2
  let hi (j : Nat) : Nat := f (0x122 + 32 * j) 2
  let used (j : Nat) : Bool := lo j ≤ hi j
  let ring := f 0x320 8
  let rb := f 0x348 8
  let rn := f 0x350 8
  let l : List (Unit → Option Nat) := [
    fun _ => (List.range 18).findSome? lane,
    fun _ => if ownRole s = 2 ∧ 1 < groupCount s ∧ !(rangeFrom 1 (groupCount s - 1)).all reaches then some 8 else none,
    fun _ => ((List.range 16).find? (fun j => used j && (nLogical ≤ hi j ||
      (List.range j).any (fun i => used i && lo i ≤ hi j && lo j ≤ hi i)))).map (fun j => 0x120 + 32 * j),
    fun _ => if ring % 65536 ≠ 0 ∨ hbmTop s < ring + 0x110000 then some 0x320 else none,
    fun _ => ((List.range 16).find? (fun q =>
      let p := f (0x328 + 2 * q) 2
      !(p == 0xFFFF || p == 1023 || (p < nLogical && roleOf s stg p != 0)))).map (fun q => 0x328 + 2 * q),
    fun _ => if rn = 0 ∧ rb = 0 then none
      else if rn = 0 ∨ rb % 65536 ≠ 0 ∨ hbmTop s < rb + rn ∨ (rb < ring + 0x110000 ∧ ring < rb + rn) then some 0x348 else none,
    fun _ => if 3 < f 0x35C 4 then some 0x35C else none,
    fun _ => if imgRead s stg (secOff s stg stFabric + 0x360) 160 = List.replicate 160 0 then none else some 0x360]
  l.foldl (fun r g => match r with | some x => some x | none => g ()) none

def checkFabric (s : State) : Refusal1 :=
  if (imgSection s stg stFabric).isNone then none
  else if secLen s stg stFabric ≠ 1024 ∨ secCount s stg stFabric ≠ 1 then refuse 0x25 stFabric 0
  else (fabFault s).bind (refuse 0x25 stFabric)

/-! ### Blobs (08 R263, check 16) -/

/-- The digest of a blob of HBM. -/
def blobDigest (s : State) (id a n : Nat) : List Byte :=
  shake256 64 ([0x42, 0x4C, 0x4F, 0x42] ++ natLe 4 id ++ natLe 8 0 ++ hbmPeek s a n)

/-- The first blob of an image whose bytes differ from its digest. `bad` names the blobs of companion memory that do, as
they were read over Serica. -/
def blobFault (s : State) (im : Nat) (bad : List Nat) : Option Nat :=
  (List.range (secCount s im stBlobs)).find? (fun i =>
    let f := secLe s im stBlobs 96 i
    if f 4 4 % 2 = 1 then bad.contains i
    else blobDigest s (f 0 4) (f 8 8) (f 16 8) != imgRead s im (secOff s im stBlobs + 96 * i + 24) 64)

/-! ### Admission (08 R266) -/

/-- The staging object's bytes. -/
def stagedObject (s : State) : List Byte :=
  match look s.images stg with
  | some i => hbmPeek s i.addr i.len
  | none => []

/-- The checks of Table 08-4 on the image in the staging slot: the refusal, none where it passes, and the state with the
verification noted. -/
def admission (bad : List Nat) (s : State) : Refusal1 × State :=
  let o := stagedObject s
  match headerFault otImage o.length o with
  | some off => (refuse 0x11 0 off, noteVerify o vcBadObject s)
  | none =>
    match check1 s with
    | some r => (some r, s)
    | none =>
      let c := verifyCause s otImage o.length o
      let c := if c = vcOk ∧ imgLe s stg 0x14 4 ≠ ohSvn o then vcSvn else c
      let s := noteVerify o c s
      if c = vcSvn then (refuse 0x12 0 0xC, s)
      else if c ≠ vcOk then
        (refuse 0x11 0 (if c = vcKey ∨ c = vcUsage then 8 else if c = vcPart then 0x18 else if c = vcDigest then 0x60 else objHeader + paddedLen (ohLen o)), s)
      else
        (firstOf [fun _ => check4 s, fun _ => check5 s, fun _ => check6 s, fun _ => check7 s, fun _ => check8 s, fun _ => check9 s,
          fun _ => check10 s, fun _ => check11 s, fun _ => check12 s, fun _ => check13 s, fun _ => check14 s, fun _ => checkCompl s,
          fun _ => checkPower s, fun _ => checkFabric s, fun _ => (blobFault s stg bad).bind (refuse 0x26 stBlobs)], s)

/-- A slot emptied: its image's protection ends (08 R264, R268). -/
def emptySlot (i : Nat) (s : State) : State :=
  wr (rCalSlot i) 0 { s with images := tabDel i s.images }

/-- A slot in a state of Table 08-5. -/
def setSlot (i st : Nat) (s : State) : State := setFld (rCalSlot i) fCalSlotState st s

/-- Admission carried through: ADMITTED, or EMPTY with the refusal in CAL.LAST. -/
def admitImage (bad : List Nat) (s : State) : Refusal1 × State :=
  match admission bad s with
  | (none, s) => (none, setFld rCalLast fCalLastDrift (drifting s).length (setSlot stg 2 s))
  | (some (c, r), s) =>
    let s := setFlds rCalLast [(fCalLastEntry, r.getD 1 0), (fCalLastSection, r.getD 0 0), (fCalLastCode, c)] s
    (some (c, r), emptySlot stg (raise rCalLast 0 rCalLastCnt s))

/-- An object placed in the staging slot, LOADING. -/
def stageImage (a n : Nat) (s : State) : State :=
  let s := { s with images := tabPut stg ⟨a, n⟩ s.images }
  setFlds (rCalSlot stg) [(fCalSlotState, 1), (fCalSlotGen, imgLe s stg 8 4)] s

end Sys2Proof.Machine
end

