-- ==== Sys2Proof/Machine/Vector.lean ====
section
/-! DEFINITION. The vector unit: the checks of a command, its functions row by row, and its completion (04 R130-R136), with
the arithmetic of 03 R97-R103. -/
namespace Sys2Proof.Machine

/-! ### Checks (04 R131, R132, R135) -/

/-- Functions of each vector opcode, 0x30 up (Table 04-7). -/
def vFuncs (o : Nat) : Nat :=
  match o with
  | 0x30 => 6 | 0x31 => 8 | 0x32 => 5 | 0x33 => 2 | 0x34 => 2 | 0x35 => 5 | _ => 3

/-- FP32, BF16 or FP16. -/
def vPlain (f : Nat) : Bool := f == 0 || f == 1 || f == 0xC

/-- A floating-point format that is no MX format. -/
def vFloat (f : Nat) : Bool := f ≤ 3 || f == 0xC

/-- Whether the formats go with the function (04 R131, R132; the combinations of VEC.CVT are log 22). -/
def vFormatsOk (o f sf df : Nat) : Bool :=
  if 0xD ≤ sf ∨ 0xD ≤ df then false
  else match o, f with
    | 0x35, 0 => !isMx sf && !isMx df
    | 0x35, 1 => vPlain sf && isMx df
    | 0x35, 2 => isMx sf && vFloat df
    | 0x35, 3 => vPlain sf && isInt df
    | 0x35, _ => isInt sf && vFloat df
    | 0x32, _ => vPlain sf && df == 0xC
    | 0x36, 1 => vPlain sf && vPlain df
    | 0x36, _ => vPlain sf && sf == df
    | _, _ => vPlain sf && vPlain df

/-- Reserved fields and ranges (04 Table 04-6, R132). -/
def vDescOk (o f : Nat) (d : List Byte) : Bool :=
  vMode d < 16 && leAt 0x32 2 d == 0 && leAt 0x38 8 d == 0 && !(vRow1 d && vImmS d) &&
  1 ≤ vLen d && 1 ≤ vRows d && vRows d ≤ 4096 &&
  (!(o == 0x35 && (f == 1 || f == 2)) || vLen d % 32 == 0) &&
  (!(o == 0x36 && f == 2) || (vLen d % 16 == 0 && vRows d % 16 == 0))

/-- Alignment of bases and strides (04 R130, Table 04-6). -/
def vAlignOk (d : List Byte) : Bool :=
  vSrc0 d % 64 == 0 && vSrc1 d % 64 == 0 && vDst d % 64 == 0 && vAux d % 64 == 0 && vAux2 d % 64 == 0 &&
  vSt0 d % 64 == 0 && vStD d % 64 == 0 && vSt1 d % (if vRow1 d then 4 else 64) == 0

/-- Bytes of a row of `n` elements. -/
def rowBytes (code n : Nat) : Nat := (n * elemBits code + 7) / 8

/-- Whether a function takes a second operand from src1, and whether it takes the per-row value of MULADD. -/
def usesB (o : Nat) : Bool := o == 0x30

/-- The bytes row `r` reads: pairs of offset and length. -/
def rowReads (o f : Nat) (d : List Byte) (r : Nat) : List (Nat × Nat) :=
  let src := (vSrc0 d + r * vSt0 d, rowBytes (vSf d) (vLen d))
  let b : List (Nat × Nat) :=
    if !usesB o || vImmS d then []
    else if vRow1 d then [(vSrc1 d + r * vSt1 d, 4)] else [(vSrc1 d + r * vSt1 d, rowBytes (vSf d) (vLen d))]
  if o = 0x36 ∧ f = 1 then []
  else
    [src] ++ b ++
    (if o = 0x30 ∧ f = 5 ∧ vRow1 d then [(vAux d + 4 * r, 4)] else []) ++
    (if o = 0x33 ∧ f = 1 then [(vAux d + 16 * r, 8)] else []) ++
    (if o = 0x34 then [(vAux d, 4 * vLen d)] else []) ++
    (if o = 0x34 ∧ f = 1 then [(vAux2 d, 4 * vLen d)] else []) ++
    (if o = 0x35 ∧ f = 2 then [(vAux2 d + r * (vLen d / 32), vLen d / 32)] else []) ++
    (if o = 0x35 ∧ 3 ≤ f then [(vAux d + 4 * r, 4)] else [])

/-- The bytes row `r` writes. TRANSPOSE writes one element of each destination row. -/
def rowWrites (o f : Nat) (d : List Byte) (r : Nat) : List (Nat × Nat) :=
  if o = 0x32 then [(vDst d + 4 * r, 4)]
  else if o = 0x36 ∧ f = 2 then
    (List.range (vLen d)).map (fun j => (vDst d + j * vStD d + r * (elemBits (vDf d) / 8), elemBits (vDf d) / 8))
  else
    [(vDst d + r * vStD d, rowBytes (vDf d) (vLen d))] ++
    (if o = 0x33 ∧ f = 1 then [(vAux d + 16 * r, 12)] else []) ++
    (if o = 0x35 ∧ f = 1 then [(vAux2 d + r * (vLen d / 32), vLen d / 32)] else [])

/-- The ranges of every byte a command reads or writes. -/
def vRanges (o f : Nat) (d : List Byte) : Nat :=
  (List.range (vRows d)).foldl (fun m r =>
    (rowReads o f d r ++ rowWrites o f d r).foldl (fun m e => m ||| rangesOf e.1 e.2) m) 0

/-- The cause for which a vector command is refused, in the order of R135; 0 where it passes. -/
def vecCause (s : State) (p : Nat) (c : Cmd) : Nat :=
  let o := cOpcode c
  let f := cOpB c
  let a := cOpA c
  let d := spmRead s p a 64
  if vFuncs o ≤ f then ccBadFunc
  else if a % 64 ≠ 0 then ccAlign
  else if !spmOpen s p a 64 then ccRange
  else if spmBad s p a 64 then ccEcc
  else if !vFormatsOk o f (vSf d) (vDf d) then ccBadFormat
  else if !vDescOk o f d then ccBadDesc
  else if !vAlignOk d then ccAlign
  else if !rangesOpen s p (vRanges o f d) then ccRange
  else 0

/-! ### Rows -/

/-- Element codes packed into bytes as in R56; the bits after the last element come from `pad`. -/
def packRow (code : Nat) (xs : List Nat) (pad : Nat) : List Byte :=
  let w := elemBits code
  natLe (rowBytes code xs.length) (xs.foldr (fun x acc => x % 2 ^ w + 2 ^ w * acc) pad)

/-- The element codes of a row. -/
def rowCodes (s : State) (p base code n : Nat) : List Nat :=
  let l := spmRead s p base (rowBytes code n)
  (List.range n).map (fun k => packedElem code k l)

/-- The elements of a row widened exactly to FP32 (04 R131). -/
def rowIn (s : State) (p base code n : Nat) : List Nat := (rowCodes s p base code n).map (fun x => to32 (elemNum code x))

/-- The FP32 code at an offset. -/
def at32 (s : State) (p o : Nat) : Nat := leNat (spmRead s p o 4)

/-- What a row works out: the writes in order, and the arithmetic flags it meets. -/
structure RowWork where
  writes : List (Nat × List Byte)
  flags : Nat
  elems : Nat
deriving DecidableEq, Repr

/-- The OR of flag masks. -/
def orAll (l : List Nat) : Nat := l.foldl (· ||| ·) 0

/-- Results in FP32 converted to the destination and packed; `flags` are those of the operations. -/
def rowOut (s : State) (d : List Byte) (r : Nat) (ys : List Nat) (flags : Nat) : RowWork :=
  let cs := (List.range ys.length).map (fun j => convOut (vDf d) (vCvt d) (vSeed d) (r * vLen d + j) (num32 (ys.getD j 0)))
  ⟨[(vDst d + r * vStD d, packRow (vDf d) (cs.map Conv.code) (Config.freeValue s.free).toNat)],
    flags ||| orAll (cs.map Conv.flags), ys.length⟩

/-- VEC.EW on row `r` (Table 04-7). -/
def rowEw (s : State) (p f : Nat) (d : List Byte) (r : Nat) : RowWork :=
  let n := vLen d
  let a := rowIn s p (vSrc0 d + r * vSt0 d) (vSf d) n
  let b := if vImmS d then List.replicate n (vImm0 d)
    else if vRow1 d then List.replicate n (at32 s p (vSrc1 d + r * vSt1 d))
    else rowIn s p (vSrc1 d + r * vSt1 d) (vSf d) n
  let c := if vRow1 d then at32 s p (vAux d + 4 * r) else vImm1 d
  let op (x y : Nat) : Nat := match f with
    | 0 => add32 x y | 1 => sub32 x y | 2 => mul32 x y | 3 => max32 x y | 4 => min32 x y
    | _ => add32 (mul32 x y) c
  let ys := List.zipWith op a b
  let fl := List.zipWith (fun (xy : Nat × Nat) y => opFlags (if f = 5 then [xy.1, xy.2, c] else [xy.1, xy.2]) y) (a.zip b) ys
  rowOut s d r ys (orAll fl)

/-- VEC.SFU on row `r`. -/
def rowSfu (s : State) (p f : Nat) (repro : Bool) (d : List Byte) (r : Nat) : RowWork :=
  let a := rowIn s p (vSrc0 d + r * vSt0 d) (vSf d) (vLen d)
  let ys := a.map (sfu32 repro f)
  rowOut s d r ys (orAll (List.zipWith (fun x y => opFlags [x] y) a ys))

/-- The index of the first element that `ok` holds of, or 0. -/
def firstIdx (ok : Nat → Bool) (l : List Nat) : Nat := l.findIdx ok % (l.length + 1)

/-- VEC.RED on row `r`: one 4-byte result (Table 04-7). -/
def rowRed (s : State) (p f : Nat) (d : List Byte) (r : Nat) : RowWork :=
  let a := rowIn s p (vSrc0 d + r * vSt0 d) (vSf d) (vLen d)
  let y := match f with
    | 0 => sum32 a | 1 => maxRow a | 2 => minRow a | 3 => sum32 (a.map (fun x => mul32 x x))
    | _ => if a.any isNan32 then firstIdx isNan32 a else (let m := maxRow a; firstIdx (fun x => ordKey32 x == ordKey32 m) a)
  ⟨[(vDst d + 4 * r, natLe 4 y)], if f = 4 then 0 else opFlags a y, 1⟩

/-- VEC.SMAX on row `r`: SOFTMAX, or ONLINE continued from the record at aux (Table 04-7, 03 R100). -/
def rowSmax (s : State) (p f : Nat) (repro : Bool) (d : List Byte) (r : Nat) : RowWork :=
  let a := rowIn s p (vSrc0 d + r * vSt0 d) (vSf d) (vLen d)
  if f = 0 then
    let ys := softmax32 repro a
    rowOut s d r ys (orAll (ys.map (opFlags a)))
  else
    let o := vAux d + 16 * r
    let m0 := at32 s p o
    let s0 := at32 s p (o + 4)
    let (m, t) := softRow repro (m0, s0) a
    let ys := if m = ninf32 then a.map (fun _ => 0) else a.map (fun x => exp32 repro (sub32 x m))
    let fac := if m0 = ninf32 ∧ s0 = 0 then 0 else exp32 repro (sub32 m0 m)
    let w := rowOut s d r ys (orAll (ys.map (opFlags (m0 :: s0 :: a))) ||| opFlags (m0 :: s0 :: a) t)
    { w with writes := w.writes ++ [(o, natLe 4 m ++ natLe 4 t ++ natLe 4 fac)] }

/-- VEC.NORM on row `r` (04 R133). -/
def rowNorm (s : State) (p f : Nat) (repro : Bool) (d : List Byte) (r : Nat) : RowWork :=
  let n := vLen d
  let a := rowIn s p (vSrc0 d + r * vSt0 d) (vSf d) n
  let g := rowIn s p (vAux d) 0xC n
  let h := rowIn s p (vAux2 d) 0xC n
  let c := recipInt32 n
  let sumsq (l : List Nat) : Nat := sum32 (l.map (fun x => mul32 x x))
  let ys := if f = 0 then
      let k := rsqrt32 repro (add32 (mul32 (sumsq a) c) (vImm0 d))
      List.zipWith (fun x w => mul32 (mul32 x k) w) a g
    else
      let mu := mul32 (sum32 a) c
      let dl := a.map (fun x => sub32 x mu)
      let k := rsqrt32 repro (add32 (mul32 (sumsq dl) c) (vImm0 d))
      List.zipWith add32 (List.zipWith (fun x w => mul32 (mul32 x k) w) dl g) h
  let ops := if f = 0 then vImm0 d :: (a ++ g) else vImm0 d :: (a ++ g ++ h)
  rowOut s d r ys (orAll (ys.map (opFlags ops)))

/-- Results given as exact values, each rounded once to the destination. -/
def rowOutNum (s : State) (d : List Byte) (r : Nat) (ys : List Num) : RowWork :=
  let cs := (List.range ys.length).map (fun j => convOut (vDf d) (vCvt d) (vSeed d) (r * vLen d + j) (ys.getD j .nan))
  ⟨[(vDst d + r * vStD d, packRow (vDf d) (cs.map Conv.code) (Config.freeValue s.free).toNat)],
    orAll (cs.map Conv.flags), ys.length⟩

/-- VEC.CVT on row `r` (Table 04-7). -/
def rowCvt (s : State) (p f : Nat) (d : List Byte) (r : Nat) : RowWork :=
  let n := vLen d
  let src := vSrc0 d + r * vSt0 d
  let codes := rowCodes s p src (vSf d) n
  let q := at32 s p (vAux d + 4 * r)
  match f with
  | 0 => rowOutNum s d r (codes.map (elemNum (vSf d)))
  | 1 =>
    let a := rowIn s p src (vSf d) n
    let bl := (List.range (n / 32)).map (fun b =>
      mxQuant (vDf d) (vCvt d) (vSeed d) (r * n + 32 * b) ((a.drop (32 * b)).take 32))
    ⟨[(vDst d + r * vStD d, packRow (vDf d) (bl.flatMap (fun x => x.2.1)) 0),
      (vAux2 d + r * (n / 32), bl.map (fun x => BitVec.ofNat 8 x.1))],
      bit (bl.any (fun x => x.2.2.1)) + 16 * bit (bl.any (fun x => x.2.2.2)), n⟩
  | 2 =>
    let sc := spmRead s p (vAux2 d + r * (n / 32)) (n / 32)
    rowOutNum s d r ((List.range n).map (fun j => mxElem (vSf d) (sc.getD (j / 32) 0).toNat (codes.getD j 0)))
  | 3 =>
    let a := rowIn s p src (vSf d) n
    let ys := a.map (fun x => mul32 x q)
    rowOut s d r ys (orAll (List.zipWith (fun x y => opFlags [x, q] y) a ys))
  | _ =>
    let a := codes.map (fun x => to32 (elemNum (vSf d) x))
    let ys := a.map (fun x => mul32 x q)
    rowOut s d r ys (orAll (List.zipWith (fun x y => opFlags [x, q] y) a ys))

/-- VEC.MOVE on row `r`: COPY and TRANSPOSE move bits unchanged (Table 04-7). -/
def rowMove (s : State) (p f : Nat) (d : List Byte) (r : Nat) : RowWork :=
  let n := vLen d
  let e := elemBits (vDf d) / 8
  let src := vSrc0 d + r * vSt0 d
  match f with
  | 0 => ⟨[(vDst d + r * vStD d, spmRead s p src (rowBytes (vSf d) n))], 0, n⟩
  | 1 => rowOut s d r (List.replicate n (vImm0 d)) 0
  | _ => ⟨(List.range n).map (fun j => (vDst d + j * vStD d + r * e, spmRead s p (src + j * e) e)), 0, n⟩

/-- The work of row `r` of a vector command. -/
def rowWork (s : State) (p o f : Nat) (repro : Bool) (d : List Byte) (r : Nat) : RowWork :=
  match o with
  | 0x30 => rowEw s p f d r
  | 0x31 => rowSfu s p f repro d r
  | 0x32 => rowRed s p f d r
  | 0x33 => rowSmax s p f repro d r
  | 0x34 => rowNorm s p f repro d r
  | 0x35 => rowCvt s p f d r
  | _ => rowMove s p f d r

/-- A row's writes applied. A transposition reads its whole source before it writes, so that it can work in place (R136). -/
def applyWrites (p : Nat) (ws : List (Nat × List Byte)) (s : State) : State :=
  ws.foldl (fun s e => spmStore p e.1 e.2 s) s

/-- Rows one after another: a source word with an uncorrectable error, or a partial write of such a word, ends the command
and the rows already written stay (04 R135, 05 R157). `src` is the state sources are read from. -/
def vecRows (p o f : Nat) (repro : Bool) (d : List Byte) (src : Option State) : List Nat → Nat → State → Nat × Nat × State
  | [], fl, s => (0, fl, s)
  | r :: t, fl, s =>
    match (rowReads o f d r).find? (fun e => spmBad s p e.1 e.2) with
    | some e => (ccEcc, fl, eccRead p e.1 e.2 s)
    | none =>
      let w := rowWork (src.getD s) p o f repro d r
      if w.writes.any (fun e => spmPartBad s p e.1 e.2.length) then (ccEcc, fl, s)
      else vecRows p o f repro d src t (fl ||| w.flags) { applyWrites p w.writes s with free := s.free + 1 }

/-- A vector command becomes the executing command and runs: its cause, 0 where it ends well (04 R135). -/
def vecRun (p : Nat) (j : VecJob) (s : State) : Nat × State :=
  let c := j.l.cmd
  let o := cOpcode c
  let f := cOpB c
  let cause := vecCause s p c
  if cause ≠ 0 then (cause, if cause = ccEcc then eccRead p (cOpA c) 64 s else s)
  else
    let d := spmRead s p (cOpA c) 64
    let (cause, fl, s) := vecRows p o f j.repro d (if o = 0x36 ∧ f = 2 then some s else none) (List.range (vRows d)) 0 s
    let s := raiseArith p fl (cIds c) s
    let s := countCl p 0x21 (cIds c) (if o = 0x32 then vRows d else vRows d * vLen d) s
    (cause, s)

/-- The queue's head runs when it is the executing command; commands that fail leave the queue (04 R118). -/
def vecAdvance (p : Nat) : Nat → State → State
  | 0, s => s
  | n + 1, s =>
    match (cluster s p).vec with
    | [] => s
    | j :: t =>
      if j.ran then s
      else
        let (cause, s) := vecRun p j s
        if cause = 0 then
          let d := spmRead s p (cOpA j.l.cmd) 64
          modCluster p (fun c => { c with
            vec := { j with ran := true, ranges := vRanges (cOpcode j.l.cmd) (cOpB j.l.cmd) d } :: t }) s
        else vecAdvance p n (cmdFail p j.l 2 cause (modCluster p (fun c => { c with vec := t }) s))

/-- Room in the vector queue: 4 places behind the executing command (04 R118). -/
def vecRoom (p : Nat) (s : State) (_ : Cmd) : Option (Nat × Nat) :=
  if (cluster s p).vec.length ≤ 4 then none else some (3, 2)

/-- A launched vector command queued, with the mode its cluster is in (03 R106). -/
def vecEnqueue (p : Nat) (l : Launched) (s : State) : State :=
  let j : VecJob := ⟨l, fld s (rClArithCtrl p) fClArithCtrlRepro == 1, false, 0⟩
  let s := modCluster p (fun c => { c with vec := c.vec ++ [j] }) s
  vecAdvance p (cluster s p).vec.length s

/-- The launch of a vector command with opcode `o`. -/
def launchVec (p st b o : Nat) (s : State) : State :=
  launch p st (· == o) (vecRoom p) (vecEnqueue p) (advanceTo b s)

/-- VEC.EW. -/
def execVecEw (p st b : Nat) (s : State) : Host.Outcome State Fault Refusal :=
  onUnits p nClusters st 32 s (launchVec p st b opVecEw)

/-- VEC.SFU. -/
def execVecSfu (p st b : Nat) (s : State) : Host.Outcome State Fault Refusal :=
  onUnits p nClusters st 32 s (launchVec p st b opVecSfu)

/-- VEC.RED. -/
def execVecRed (p st b : Nat) (s : State) : Host.Outcome State Fault Refusal :=
  onUnits p nClusters st 32 s (launchVec p st b opVecRed)

/-- VEC.SMAX. -/
def execVecSmax (p st b : Nat) (s : State) : Host.Outcome State Fault Refusal :=
  onUnits p nClusters st 32 s (launchVec p st b opVecSmax)

/-- VEC.NORM. -/
def execVecNorm (p st b : Nat) (s : State) : Host.Outcome State Fault Refusal :=
  onUnits p nClusters st 32 s (launchVec p st b opVecNorm)

/-- VEC.CVT. -/
def execVecCvt (p st b : Nat) (s : State) : Host.Outcome State Fault Refusal :=
  onUnits p nClusters st 32 s (launchVec p st b opVecCvt)

/-- VEC.MOVE. -/
def execVecMove (p st b : Nat) (s : State) : Host.Outcome State Fault Refusal :=
  onUnits p nClusters st 32 s (launchVec p st b opVecMove)

/-- VEC_COMPLETE: the executing command's last write is accepted; the next one begins (04 R118, R119). -/
def execVecComplete (p : Nat) (s : State) : Host.Outcome State Fault Refusal :=
  onUnit p nClusters s (fun s =>
    match (cluster s p).vec with
    | [] => s
    | j :: t =>
      if !j.ran then s
      else
        let s := complete p j.l (modCluster p (fun c => { c with vec := t }) s)
        vecAdvance p t.length s)

end Sys2Proof.Machine
end

