-- ==== Sys2Proof/Machine/Token.lean ====
section
/-! DEFINITION. The tokeniser, the detokeniser and the sampler (10 R308-R310, R319-R322). -/
namespace Sys2Proof.Machine

/-! ### UTF-8 -/

/-- Whether a byte continues a UTF-8 sequence. -/
def isCont (b : Byte) : Bool := b.toNat / 64 == 2

/-- The length of the sequence a byte starts; 0 where it can start none. -/
def seqLen (b : Byte) : Nat :=
  let n := b.toNat
  if n < 0x80 then 1 else if n < 0xC2 then 0 else if n < 0xE0 then 2 else if n < 0xF0 then 3 else if n < 0xF5 then 4 else 0

/-- Whether a second byte may follow a first one: no overlong form, no surrogate, nothing above U+10FFFF. -/
def secondOk (a b : Byte) : Bool :=
  isCont b && !(a == 0xE0 && b.toNat < 0xA0) && !(a == 0xED && 0xA0 ≤ b.toNat) && !(a == 0xF0 && b.toNat < 0x90) &&
    !(a == 0xF4 && 0x90 ≤ b.toNat)

/-- Whether bytes are the start, or the whole, of a valid sequence. -/
def utf8Start : List Byte → Bool
  | [] => true
  | [a] => seqLen a != 0
  | a :: b :: t => secondOk a b && t.length + 2 ≤ seqLen a && t.all isCont

/-- Whether bytes are one whole character. -/
def utf8Char (l : List Byte) : Bool := utf8Start l && l.length == seqLen (l.headD 0) && !l.isEmpty

/-- The code point of a whole character. -/
def codePoint (l : List Byte) : Nat :=
  match l with
  | [] => 0
  | a :: t => t.foldl (fun n b => n * 64 + b.toNat % 64) (if t.isEmpty then a.toNat else a.toNat % 2 ^ (6 - t.length))

/-- Text as characters, each with its bytes; an invalid byte stands alone without a code point. -/
def charsOf : Nat → List Byte → List (Option Nat × List Byte)
  | 0, _ => []
  | _, [] => []
  | fuel + 1, a :: t =>
    let c := (a :: t).take (seqLen a)
    if utf8Char c then (some (codePoint c), c) :: charsOf fuel ((a :: t).drop c.length)
    else (none, [a]) :: charsOf fuel t

/-! ### Tokeniser tables (10 R308) -/

/-- A table's fields at its payload. -/
structure Tok where
  base : Nat
  kind : Nat
  pretok : Nat
  flags : Nat
  vocab : Nat
  bos : Nat
  eos : Nat
  unk : Nat
  merges : Nat
  tokOff : Nat
  strOff : Nat
  byteOff : Nat
  ruleOff : Nat
deriving DecidableEq, Repr

/-- What marks an absent token. -/
def noTok : Nat := 0xFFFFFFFF

/-- The table of a slot. -/
def tokOf (s : State) (slot : Nat) : Tok :=
  let b := ((look s.tokTables slot).map (·.addr)).getD 0 + objHeader
  let f (o n : Nat) : Nat := leNat (hbmPeek s (b + o) n)
  ⟨b, f 4 1, f 5 1, f 6 1, f 8 4, f 0xC 4, f 0x10 4, f 0x18 4, f 0x1C 4, f 0x20 8, f 0x28 8, f 0x30 8, f 0x38 8⟩

/-- A token's string and whether it is SPECIAL. -/
def tokStr (s : State) (t : Tok) (id : Nat) : List Byte :=
  let e := hbmPeek s (t.base + t.tokOff + 8 * id) 8
  hbmPeek s (t.base + t.strOff + leAt 0 4 e) (leAt 4 2 e)
def tokSpecial (s : State) (t : Tok) (id : Nat) : Bool := bitAt (leNat (hbmPeek s (t.base + t.tokOff + 8 * id + 6) 2)) 0

/-- A byte's token. -/
def byteTok (s : State) (t : Tok) (b : Byte) : Nat := leNat (hbmPeek s (t.base + t.byteOff + 4 * b.toNat) 4)

/-- Merge entry of rank `r`: left, right and result. -/
def mergeAt (s : State) (t : Tok) (r : Nat) : Nat × Nat × Nat :=
  let e := hbmPeek s (t.base + t.ruleOff + 12 * r) 12
  (leAt 0 4 e, leAt 4 4 e, leAt 8 4 e)

/-- A unigram score. -/
def scoreAt (s : State) (t : Tok) (id : Nat) : Nat := leNat (hbmPeek s (t.base + t.ruleOff + 4 * id) 4)

/-! ### Encoding (10 R309) -/

/-- Whether two neighbouring characters stay in one piece. An invalid byte is a piece of its own. -/
def joins (pretok : Nat) (a b : Option Nat × List Byte) : Bool :=
  match a.1, b.1 with
  | some x, some y => if pretok = 1 then y != 0x20 else if pretok = 2 then Config.charClass x == Config.charClass y else true
  | _, _ => false

/-- Characters gathered into pieces. -/
def piecesOf (pretok : Nat) : List (Option Nat × List Byte) → List (List (Option Nat × List Byte))
  | [] => []
  | a :: t =>
    match piecesOf pretok t with
    | [] => [[a]]
    | [] :: r => [a] :: r
    | (b :: q) :: r => if joins pretok a b then (a :: b :: q) :: r else [a] :: (b :: q) :: r

/-- The rank of an adjacent pair. -/
def rankOf (s : State) (t : Tok) (a b : Nat) : Option Nat :=
  (List.range t.merges).find? (fun r => (mergeAt s t r).1 == a && (mergeAt s t r).2.1 == b)

/-- The place and rank of the pair of lowest rank, the leftmost on ties. -/
def bestPair (s : State) (t : Tok) : Nat → List Nat → Option (Nat × Nat)
  | i, a :: b :: r =>
    match rankOf s t a b, bestPair s t (i + 1) (b :: r) with
    | some k, some (j, k') => if k ≤ k' then some (i, k) else some (j, k')
    | some k, none => some (i, k)
    | none, x => x
  | _, _ => none

/-- Byte-pair merging until no listed pair remains. -/
def mergeAll (s : State) (t : Tok) : Nat → List Nat → List Nat
  | 0, l => l
  | fuel + 1, l =>
    match bestPair s t 0 l with
    | none => l
    | some (i, r) => mergeAll s t fuel (l.take i ++ (mergeAt s t r).2.2 :: l.drop (i + 2))

/-- Vocabulary strings that may stand at the front of a text, the longest first and the lower ID first among equals; special
tokens are none of them. -/
def prefixesOf (s : State) (t : Tok) (l : List Byte) : List (Nat × List Byte) :=
  let all := (List.range t.vocab).filterMap (fun id =>
    let w := tokStr s t id
    if !w.isEmpty && !tokSpecial s t id && l.take w.length == w then some (id, w) else none)
  all.foldl (fun acc x => acc.filter (fun y => x.2.length ≤ y.2.length) ++ x :: acc.filter (fun y => y.2.length < x.2.length)) []

/-- A finite or infinite FP32 number below another. -/
def lt32 (a b : Nat) : Bool := !isNan32 a && !isNan32 b && decide (finKey a < finKey b)

/-- The best segmentation of a piece: the largest sum of scores added left to right; among equals the one found first, longer
tokens being tried first. -/
def segment (s : State) (t : Tok) : Nat → List Byte → Nat → Option (Nat × List Nat)
  | 0, _, _ => none
  | _, [], acc => some (acc, [])
  | fuel + 1, l, acc =>
    (prefixesOf s t l).foldl (fun best e =>
      match segment s t fuel (l.drop e.2.length) (add32 acc (scoreAt s t e.1)) with
      | none => best
      | some (v, ids) =>
        match best with
        | none => some (v, e.1 :: ids)
        | some (w, _) => if lt32 w v then some (v, e.1 :: ids) else best) none

/-- A piece's tokens; none where the request is refused with BAD_TEXT. -/
def encodePiece (s : State) (t : Tok) (p : List (Option Nat × List Byte)) : Option (List Nat) :=
  let bytes := p.flatMap (·.2)
  if p.any (fun c => c.1.isNone) then (if bitAt t.flags 0 then some (bytes.map (byteTok s t)) else none)
  else if t.kind = 2 then
    match segment s t (bytes.length + 1) bytes 0 with
    | some (_, ids) => some ids
    | none => if t.unk = noTok then none else some [t.unk]
  else some (mergeAll s t bytes.length (bytes.map (byteTok s t)))

/-- Every part of a list, or none where one is absent. -/
def allOf {α : Type} : List (Option α) → Option (List α)
  | [] => some []
  | none :: _ => none
  | some x :: t => (allOf t).map (x :: ·)

/-- Plain text's tokens. -/
def encodePlain (s : State) (t : Tok) (l : List Byte) : Option (List Nat) :=
  (allOf ((piecesOf t.pretok (charsOf l.length l)).map (encodePiece s t))).map List.flatten

/-- The longest special-token string at the front of a text. -/
def specialAt (s : State) (t : Tok) (l : List Byte) : Option (Nat × Nat) :=
  (List.range t.vocab).foldl (fun best id =>
    if tokSpecial s t id then
      let w := tokStr s t id
      if !w.isEmpty && l.take w.length == w && (best.map (·.2)).getD 0 < w.length then some (id, w.length) else best
    else best) none

/-- Text cut at its special-token strings: plain runs and special tokens. -/
def cutSpecial (s : State) (t : Tok) : Nat → List Byte → List Byte → List (List Byte × Option Nat)
  | 0, run, _ => [(run, none)]
  | _, run, [] => [(run, none)]
  | fuel + 1, run, a :: r =>
    match specialAt s t (a :: r) with
    | some (id, n) => (run, some id) :: cutSpecial s t fuel [] ((a :: r).drop n)
    | none => cutSpecial s t fuel (run ++ [a]) r

/-- A text's tokens; none where it is not encodable. -/
def encode (s : State) (t : Tok) (l : List Byte) : Option (List Nat) :=
  if bitAt t.flags 1 then
    (allOf ((cutSpecial s t l.length [] l).map (fun e => (encodePlain s t e.1).map (· ++ e.2.toList)))).map List.flatten
  else encodePlain s t l

/-! ### The detokeniser (10 R310) -/

/-- U+FFFD. -/
def replacement : List Byte := [0xEF, 0xBF, 0xBD]

/-- One more byte of a stream: the bytes emitted and the partial sequence held. -/
def utf8Feed (hold : List Byte) (b : Byte) : List Byte × List Byte :=
  if utf8Char (hold ++ [b]) then (hold ++ [b], [])
  else if utf8Start (hold ++ [b]) then ([], hold ++ [b])
  else
    let out := if hold.isEmpty then [] else replacement
    if utf8Char [b] then (out ++ [b], []) else if utf8Start [b] then (out, [b]) else (out ++ replacement, [])

/-- Bytes fed to a stream. -/
def utf8FeedAll : List Byte → List Byte → List Byte × List Byte
  | hold, [] => ([], hold)
  | hold, b :: t =>
    let (o, h) := utf8Feed hold b
    let (o', h') := utf8FeedAll h t
    (o ++ o', h')

/-! ### The sampler (10 R319-R322) -/

/-- samp_rand, and the draw value r as FP32 (10 R321). -/
def sampRand (seed pos j : Nat) : Nat :=
  let w := 2 ^ 64
  let z := (seed + 0x9E3779B97F4A7C15 * (pos * 4 + j + 1)) % w
  let z := ((z ^^^ (z >>> 30)) * 0xBF58476D1CE4E5B9) % w
  let z := ((z ^^^ (z >>> 27)) * 0x94D049BB133111EB) % w
  z ^^^ (z >>> 31)
def drawOf (seed pos j : Nat) : Nat := to32 (.fin false (sampRand seed pos j >>> 40) (-24))

/-- What a choice depends on beside the logits: the parameter block, the seed, the arithmetic mode, the prompt, the tokens
chosen so far, the grammar table with its state, and the tokens that end the answer. -/
structure Samp where
  d : List Byte
  seed : Nat
  repro : Bool
  vocab : Nat
  prompt : List Nat
  gen : List Nat
  table : Option (List Byte)
  gram : Nat
  ends : List Nat
deriving DecidableEq, Repr

def pTemp (d : List Byte) : Nat := leAt 0 4 d
def pTopK (d : List Byte) : Nat := leAt 4 4 d
def pTopP (d : List Byte) : Nat := leAt 8 4 d
def pMinP (d : List Byte) : Nat := leAt 0xC 4 d
def pRep (d : List Byte) : Nat := leAt 0x10 4 d
def pPresence (d : List Byte) : Nat := leAt 0x14 4 d
def pFrequency (d : List Byte) : Nat := leAt 0x18 4 d
def pWindow (d : List Byte) : Nat := leAt 0x1C 4 d
def pStops (d : List Byte) : List Nat := ((List.range 4).map (fun i => leAt (0x20 + 4 * i) 4 d)).filter (· != noTok)
def pDraft (d : List Byte) : Nat := leAt 0x30 1 d
def pPrompt (d : List Byte) : Bool := bitAt (leAt 0x31 1 d) 0

/-- Temperature 0, of either sign. -/
def greedy (d : List Byte) : Bool := pTemp d % 2 ^ 31 == 0

/-- How often a token counts in the penalty window. -/
def seen (c : Samp) (t : Nat) : Nat :=
  let all := if pPrompt c.d then c.prompt ++ c.gen else c.gen
  let win := if pWindow c.d = 0 then all else all.drop (all.length - pWindow c.d)
  win.count t

/-- Step 1: a logit under the penalties. -/
def penalise (c : Samp) (t x : Nat) : Nat :=
  let n := seen c t
  if n = 0 then x
  else
    let x := if pRep c.d = one32 then x else if lt32 0 x then mul32 x (recip32 c.repro (pRep c.d)) else mul32 x (pRep c.d)
    sub32 (sub32 x (pPresence c.d)) (mul32 (to32 (.fin false n 0)) (pFrequency c.d))

/-- Step 2: whether the grammar leaves a token. -/
def permitted (c : Samp) (t : Nat) : Bool :=
  match c.table with
  | none => true
  | some g => Config.grammarAllows g c.gram t && (Config.grammarAccepts g c.gram || !c.ends.contains t)

/-- Steps 1 and 2 over every token. -/
def masked (c : Samp) (logits : List Nat) : List (Nat × Nat) :=
  (List.range c.vocab).map (fun t => (t, if permitted c t then penalise c t (logits.getD t 0) else ninf32))

/-- A token put into an order of decreasing value, lower IDs first on ties. -/
def orderIn (x : Nat × Nat) : List (Nat × Nat) → List (Nat × Nat)
  | [] => [x]
  | y :: t => if lt32 y.2 x.2 || (!lt32 x.2 y.2 && x.1 < y.1) then x :: y :: t else y :: orderIn x t
def inOrder (l : List (Nat × Nat)) : List (Nat × Nat) := l.foldl (fun acc x => orderIn x acc) []

/-- The shortest prefix whose running sum, added in order, reaches a bound. -/
def reach (bound : Nat) : List (Nat × Nat) → Nat → List (Nat × Nat)
  | [], _ => []
  | x :: t, acc => if lt32 (add32 acc x.2) bound then x :: reach bound t (add32 acc x.2) else [x]

/-- Steps 3 to 7: the kept tokens with their probabilities, in the order of step 6. -/
def keptOf (c : Samp) (l : List (Nat × Nat)) : List (Nat × Nat) :=
  let l := l.map (fun e => (e.1, mul32 e.2 (recip32 c.repro (pTemp c.d))))
  let l := if pTopK c.d = 0 then l else
    let best := (inOrder l).take (pTopK c.d)
    l.filter (fun e => best.any (fun x => x.1 == e.1))
  let m := maxRow (l.map (·.2))
  let es := l.map (fun e => (e.1, exp32 c.repro (sub32 e.2 m)))
  let r := recip32 c.repro (sum32 (es.map (·.2)))
  let ps := inOrder (es.map (fun e => (e.1, mul32 e.2 r)))
  let ps := if pTopP c.d = one32 then ps else reach (pTopP c.d) ps 0
  let top := (ps.map (·.2)).headD 0
  if pMinP c.d % 2 ^ 31 = 0 then ps else ps.filter (fun e => !lt32 e.2 (mul32 (pMinP c.d) top))

/-- A running sum. -/
def runSum (l : List (Nat × Nat)) : Nat := l.foldl (fun a e => add32 a e.2) 0

/-- The first token whose running sum exceeds `u`, or the last one. -/
def walk (u : Nat) : List (Nat × Nat) → Nat → Nat → Nat
  | [], _, last => last
  | x :: t, acc, _ => if lt32 u (add32 acc x.2) then x.1 else walk u t (add32 acc x.2) x.1

/-- The greedy choice (step 3). -/
def greedyOf (l : List (Nat × Nat)) : Nat :=
  let xs := l.map (·.2)
  if xs.any isNan32 then firstIdx isNan32 xs else firstIdx (fun x => ordKey32 x == ordKey32 (maxRow xs)) xs

/-- What a choice comes to: a token, or that the grammar leaves none. -/
inductive Choice where
  | token (t : Nat)
  | dead
deriving DecidableEq, Repr

/-- The position to be chosen next. -/
def nextPos (c : Samp) : Nat := c.prompt.length + c.gen.length

/-- A draw from kept tokens in order, with the value of role `j`; where no probability is a number, or none is above 0, the
spec states no result and the token is a free value. -/
def drawFrom (c : Samp) (ps : List (Nat × Nat)) (j : Nat) (s : State) : Nat × State :=
  if ps.any (fun e => isNan32 e.2) || ps.all (fun e => !lt32 0 e.2) then
    let (v, s) := takeFree 18 s
    (v % max 1 c.vocab, s)
  else (walk (mul32 (drawOf c.seed (nextPos c) j) (runSum ps)) ps 0 0, s)

/-- Whether the grammar, where there is one, leaves no finite logit. -/
def deadEnd (c : Samp) (l : List (Nat × Nat)) : Bool := c.table.isSome && l.all (fun e => !isFin32 e.2)

/-- A choice under R319. -/
def choose (c : Samp) (logits : List Nat) (s : State) : Choice × State :=
  let l := masked c logits
  if deadEnd c l then (.dead, s)
  else if greedy c.d then (.token (greedyOf l), s)
  else let (t, s) := drawFrom c (keptOf c l) 0 s; (.token t, s)

/-- A token taken: the sequence and the grammar state move on. -/
def took (c : Samp) (t : Nat) : Samp :=
  { c with gen := c.gen ++ [t], gram := match c.table with
    | none => c.gram
    | some g => (Config.grammarNext g c.gram t).getD c.gram }

/-- The probability of a token among kept ones, 0 for a dropped one. -/
def probOf (ps : List (Nat × Nat)) (t : Nat) : Nat := ((ps.find? (fun e => e.1 == t)).map (·.2)).getD 0

/-- Probabilities after step 7, renormalised. -/
def renorm (c : Samp) (ps : List (Nat × Nat)) : List (Nat × Nat) :=
  let r := recip32 c.repro (runSum ps)
  ps.map (fun e => (e.1, mul32 e.2 r))

/-- The residual after a rejection, in increasing token ID (10 R322). -/
def residual (c : Samp) (ps qs : List (Nat × Nat)) : List (Nat × Nat) :=
  (List.range c.vocab).map (fun t =>
    let d := sub32 (probOf ps t) (probOf qs t)
    (t, if isNan32 d then d else if lt32 0 d then d else 0))

/-- Drafts verified in order, each with its draft logits; the tokens committed and whether the grammar ended the request. -/
def verifyDrafts (c : Samp) : List (Nat × List Nat) → List (List Nat) → State → List Nat × Bool × State
  | [], rows, s =>
    match choose c (rows.headD []) s with
    | (.dead, s) => ([], true, s)
    | (.token t, s) => ([t], false, s)
  | (d, q) :: ds, rows, s =>
    let l := masked c (rows.headD [])
    if deadEnd c l then ([], true, s)
    else if greedy c.d then
      if greedyOf l = d then
        let (ts, dead, s) := verifyDrafts (took c d) ds rows.tail s
        (d :: ts, dead, s)
      else ([greedyOf l], false, s)
    else
      let ps := renorm c (keptOf c l)
      let qs := keptOf c (masked c q)
      if lt32 (mul32 (drawOf c.seed (nextPos c) 1) (probOf qs d)) (probOf ps d) then
        let (ts, dead, s) := verifyDrafts (took c d) ds rows.tail s
        (d :: ts, dead, s)
      else
        let (t, s) := drawFrom c (residual c ps qs) 2 s
        ([t], false, s)

end Sys2Proof.Machine
end

