-- ==== Sys2Proof/Machine/Svc.lean ====
section
/-! DEFINITION. Complications, the on-part services (10): rings and intake, batching, key/value pages, retrieval, the streamer, and
the SVC mailbox. -/
namespace Sys2Proof.Machine

/-! ### The active image's settings (10 Table 10-7) -/

/-- A field of the active image's COMPLICATIONS entry. -/
def cpl (s : State) (off n : Nat) : Nat := cplLe s 0 off n
/-- Whether an image is active. -/
def imageActive (s : State) : Bool := (look s.images 0).isSome && fld s (rCalSlot 0) fCalSlotState != 0
/-- The tokeniser table in force, and the mode of the sampler's arithmetic. -/
def tokNow (s : State) : Tok := tokOf s (cpl s 0 1)
/-- Weight, places and wait limit of a class. -/
def clsWeight (s : State) (c : Nat) : Nat := cpl s (0xC0 + 16 * c) 2
def clsSeqs (s : State) (c : Nat) : Nat := cpl s (0xC4 + 16 * c) 4
def clsWait (s : State) (c : Nat) : Nat := cpl s (0xC8 + 16 * c) 8
/-- Pages of a page set, bytes of a page and of a page set (10 R314). -/
def kvPairs (s : State) : Nat := cpl s 0x10 2 * cpl s 0x12 2
def kvPage (s : State) : Nat := shapePage (cpl s 1 1)
def setBytes (s : State) : Nat := kvPairs s * kvPage s

/-! ### Requests -/

/-- End reasons (Table 10-5). -/
def erStop : Nat := 1
def erLength : Nat := 2
def erContext : Nat := 3
def erCancelled : Nat := 4
def erSwitched : Nat := 5
def erWaitLimit : Nat := 6
def erRingFull : Nat := 7
def erDataLost : Nat := 8
def erGrammar : Nat := 9
def erBadDesc : Nat := 0x10
def erBadParams : Nat := 0x11
def erBadText : Nat := 0x12
def erTooLong : Nat := 0x13
def erBadRing : Nat := 0x14
def erBadIndex : Nat := 0x15
def erDupId : Nat := 0x16
def erNotFound : Nat := 0x17

/-- Phases: those of REQ_STATUS, and 4 for a request whose place and pages are released. -/
def phWaiting : Nat := 0
def phPrefill : Nat := 1
def phDecode : Nat := 2
def phPreempted : Nat := 3
def phReleased : Nat := 4

/-- A live request: its END record is not written. -/
def reqOf (s : State) (ring id : Nat) : Option Req := s.reqs.find? (fun r => r.ring == ring && r.id == id && !r.isOver)
/-- A request that waits for the batcher, and one that holds a place. -/
def waiting (r : Req) : Bool := r.phase == phWaiting && r.ended == 0
def placed? (r : Req) : Bool := phPrefill ≤ r.phase && r.phase ≤ phPreempted
/-- Requests live on a ring. -/
def liveOn (s : State) (ring : Nat) : Nat := (s.reqs.filter (fun r => r.ring == ring && !r.isOver)).length +
  (s.routed.filter (fun r => r.taken.ring == ring)).length

/-- A request changed. -/
def modReq (r : Req) (f : Req → Req) (s : State) : State :=
  { s with reqs := s.reqs.map (fun x => if x.ring == r.ring && x.id == r.id && !x.isOver then f x else x) }
/-- Every request changed. -/
def modReqs (f : Req → Req) (s : State) : State := { s with reqs := s.reqs.map f }

/-- A request ended for a reason at a beat; a first reason stands, and a held partial sequence becomes one U+FFFD (10 R310). -/
def endReq (reason beat : Nat) (r : Req) : Req :=
  if r.ended ≠ 0 then r
  else
    let tail := if r.hold.isEmpty || bitAt r.flags 1 then [] else [(noTok, replacement)]
    { r with ended := reason, endBeat := beat, due := false, pend := r.pend ++ tail, hold := [] }

/-! ### What the SVC registers show -/

/-- Whether intake may read descriptors (Table 10-8). -/
def admitting (s : State) : Bool :=
  !s.cidLost && fld s rModStatus fModStatusReady == 1 && imageActive s && !admissionStopped s && fld s rSvcAdmitCtl fSvcAdmitCtlAdmit == 1

/-- Page sets in use: of requests and of the prefix cache. -/
def usedSets (s : State) : List Nat := (s.reqs.flatMap (·.sets) ++ s.prefixes.map (·.set)).eraseDups
/-- Free page sets of the pool. -/
def freeSets (s : State) : List Nat :=
  let used := usedSets s
  if imageActive s then (List.range (cpl s 0x14 4)).filter (fun j => !used.contains j) else []

/-- SVC.STATUS, SVC.COUNTS and SVC.RING as they read. -/
def svcStatus (s : State) : Word :=
  fset fSvcStatusAdmitting (fset fSvcStatusAdmit (fset fSvcStatusFaultStop (rd s rSvcStatus) (bit (admissionStopped s)))
    (fld s rSvcAdmitCtl fSvcAdmitCtlAdmit)) (bit (admitting s))
def svcCounts (s : State) : Word :=
  fset fSvcCountsFreeSets (fset fSvcCountsWaiting (fset fSvcCountsActive (rd s rSvcCounts)
    (s.reqs.filter placed?).length) (s.intake.length + (s.reqs.filter waiting).length)) (freeSets s).length
def svcRing (s : State) (r : Nat) : Word :=
  match look s.reqRings r with
  | none => 0
  | some q => fset fSvcRingState (fset fSvcRingLog2 (fset fSvcRingLive (fset fSvcRingConsumer 0 q.mine) (liveOn s r)) q.log2) 1

/-- An intake error (10 R302, R306, R307; Table 10-11). -/
def intakeErr (ring reason id : Nat) (s : State) : State :=
  let s := setFlds rSvcIntakeErr [(fSvcIntakeErrRing, ring), (fSvcIntakeErrReason, reason)] s
  let s := wr rSvcIntakeErrId (BitVec.ofNat 64 id) s
  raise rSvcIntakeErr 0 rSvcIntakeErrCnt s

/-! ### Intake (10 R301-R307) -/

/-- Descriptor fields (Table 10-1). -/
def rqKind (d : List Byte) : Nat := leAt 0 1 d
def rqFlags (d : List Byte) : Nat := leAt 1 1 d
def rqTokens (d : List Byte) : Bool := bitAt (rqFlags d) 0
def rqRetrieve (d : List Byte) : Bool := bitAt (rqFlags d) 2
def rqClass (d : List Byte) : Nat := leAt 2 1 d
def rqAns (d : List Byte) : Nat := leAt 3 1 d
def rqGrammar (d : List Byte) : Nat := leAt 4 2 d
def rqId (d : List Byte) : Nat := leAt 8 8 d
def rqInput (d : List Byte) : Nat := leAt 0x10 8 d
def rqInLen (d : List Byte) : Nat := leAt 0x18 4 d
def rqMaxNew (d : List Byte) : Nat := leAt 0x1C 4 d
def rqParams (d : List Byte) : Nat := leAt 0x20 8 d
def rqQuery (d : List Byte) : Nat := leAt 0x28 8 d
def rqSeed (d : List Byte) : Nat := leAt 0x30 8 d
/-- Bytes of the input. -/
def rqBytes (d : List Byte) : Nat := if rqTokens d then 4 * rqInLen d else rqInLen d

/-- The unit that intake's, and an answer ring's, requests on Serica Link belong to. -/
def intakeUnit (r : Nat) : Nat := 2 ^ 20 + r
def answerUnit (r : Nat) : Nat := 2 ^ 20 + 0x1000 + r
def indexUnit (r : Nat) : Nat := 2 ^ 20 + 0x2000 + r
def svcUnit : Nat := 2 ^ 20 + 0x3000

/-- Whether every field of a descriptor that R306 checks first is in order. -/
def descOk (s : State) (d : List Byte) : Bool :=
  if rqKind d = 1 then
    bitsAt 4 3 (rqFlags d) == 0 && rqClass d < 8 && leAt 6 2 d == 0 && leAt 0x38 8 d == 0 &&
      (rqGrammar d == 0xFFFF || (rqGrammar d < 16 && cpl s (0x248 + 16 * rqGrammar d) 4 != 0)) &&
      1 ≤ rqMaxNew d && rqMaxNew d ≤ 65536 && 1 ≤ rqInLen d &&
      (if rqTokens d then rqInLen d ≤ cpl s 4 4 else rqInLen d ≤ 4194304)
  else
    rqKind d == 2 && rqFlags d % 128 == 0 && slice 2 1 d == [0] && slice 4 4 d == [0, 0, 0, 0] &&
      slice 0x10 48 d == List.replicate 48 0

/-- The blocks that a descriptor names, read in turn: address and length of each. -/
def blocksToRead (s : State) (d : List Byte) : List (Nat × Nat) :=
  if rqKind d ≠ 1 ∨ descOk s d = false then [(0, 0), (0, 0), (0, 0)]
  else [if rqParams d = 0 ∨ rqParams d % 64 ≠ 0 then (0, 0) else (rqParams d, 64),
        if rqRetrieve d then (rqQuery d, 64) else (0, 0), (rqInput d, rqBytes d)]

/-- Blocks read: none while one of them has to wait; a block that is refused is empty. -/
def readBlocks (unit : Nat) : List (Nat × Nat) → State → Option (List (List Byte)) × State
  | [], s => (some [], s)
  | (a, n) :: t, s =>
    if n = 0 then
      let (r, s) := readBlocks unit t s
      (r.map ([] :: ·), s)
    else match devRead srcCore unit a n s with
      | (.wait, s) => (none, (readBlocks unit t s).2)
      | (.no _, s) => let (r, s) := readBlocks unit t s; (r.map ([] :: ·), s)
      | (.ok l, s) => let (r, s) := readBlocks unit t s; (r.map (l :: ·), s)

/-- A request ring's consumer index moved on in its control line and in SVC.RING. -/
def advanceRing (r : Nat) (q : Ring) (upto other : Nat) (s : State) : State :=
  match devWrite srcFirmware (intakeUnit r) (q.base + 4) (natLe 4 upto) s with
  | (.ok _, s) => { s with reqRings := tabPut r { q with mine := upto % 2 ^ 32, other := other } s.reqRings }
  | (_, s) => s

/-- INTAKE_DESCRIPTOR: one visit to ring `r`. -/
def execIntakeDescriptor (r : Nat) (s : State) : Host.Outcome State Fault Refusal :=
  onUnit r 64 s (fun s =>
    match look s.reqRings r with
    | none => s
    | some q =>
      if !admitting s || 65536 ≤ s.intake.length + (s.reqs.filter (fun x => waiting x || placed? x)).length ||
        (fld s (rFabStatus 0) fFabStatusExpelled == 1 && 3 * 2 ^ 13 ≤ q.rid) then s
      else match devRead srcCore (intakeUnit r) q.base 4 s with
        | (.ok pb, s) =>
          let prod := leNat pb
          let n := subMod 32 prod q.mine
          if 2 ^ q.log2 < n then
            let s' := advanceRing r q prod prod s
            if (look s'.reqRings r).map (·.mine) == some (prod % 2 ^ 32) then intakeErr r erBadDesc 0 s' else s'
          else if n = 0 then s
          else match devRead srcCore (intakeUnit r) (q.base + 64 + 64 * (q.mine % 2 ^ q.log2)) 64 s with
            | (.ok d, s) =>
              if bit (bitAt (rqFlags d) 7) ≠ q.mine / 2 ^ q.log2 % 2 then s
              else match readBlocks (intakeUnit r) (blocksToRead s d) s with
                | (none, s) => s
                | (some bs, s) =>
                  let s' := advanceRing r q (q.mine + 1) prod s
                  if (look s'.reqRings r).map (·.mine) == some ((q.mine + 1) % 2 ^ 32) then
                    { s' with intake := s'.intake ++ [⟨r, d, bs.getD 0 [], bs.getD 1 [], bs.getD 2 [], s.beat⟩] }
                  else s'
            | (_, s) => s
        | (_, s) => s)

/-- The oldest descriptor taken of a kind (any other kind goes with SUBMIT), and the rest. -/
def nextTaken (s : State) (cancel : Bool) : Option Taken := s.intake.find? (fun t => (rqKind t.desc == 2) == cancel)

/-- A new request; it has ended already where `reason` is not 0. -/
def newReq (t : Taken) (params : List Byte) (prompt : List Nat) (reason beat : Nat) (retr : Bool) : Req :=
  let d := t.desc
  { ring := t.ring, id := rqId d, flags := rqFlags d, cls := rqClass d, ans := rqAns d, grammar := rqGrammar d,
    maxNew := rqMaxNew d, seed := rqSeed d, params := params, query := t.query, beat := t.beat, retr := retr, passages := 0,
    prompt := prompt, gen := [], prefilled := 0, phase := phWaiting, due := false, order := 0, sets := [], shared := 0,
    ptab := 0, gram := 0, cancel := false, ended := reason, endBeat := if reason = 0 then 0 else beat, isOver := false,
    streamed := 0, pend := [], hold := [], first := none, full := none, swap := none }

/-- Whether a ring was opened for this device's manager, whose streamer writes its answers (13 R399). -/
def fromManager (s : State) (ring : Nat) : Bool :=
  match look s.reqRings ring with
  | some q => ownRole s == 0 && q.rid == 3 * 2 ^ 13 + 16 * ownGroup s
  | none => false

/-- Whether the answer ring is open and permits the requestor of a request ring. -/
def ansOk (s : State) (ring ans : Nat) : Bool :=
  fromManager s ring ||
    match look s.reqRings ring, look s.ansRings ans with
    | some q, some a => q.rid == a.rid
    | _, _ => false

/-- The parameter block in force for a descriptor, if it passes Table 10-2. -/
def paramsFor (s : State) (t : Taken) : Option (List Byte) :=
  let d := if rqParams t.desc = 0 then imgRead s 0 (secOff s 0 stCompl + 0x80) 64 else t.params
  if d.length ≠ 64 ∨ (paramFault d (cpl s 2 1)).isSome then none else some d

/-- Whether a query block passes Table 10-4. -/
def queryOk (s : State) (q : List Byte) : Bool :=
  q.length == 64 && leAt 0 1 q < 8 && cpl s (0x140 + 32 * leAt 0 1 q + 16) 4 != 0 && 1 ≤ leAt 1 1 q && leAt 1 1 q ≤ 64 &&
    leAt 1 1 q ≤ leAt 2 2 q && leAt 2 2 q ≤ 1024 && isFin32 (leAt 4 4 q) && slice 0x10 48 q == List.replicate 48 0

/-- The input's tokens. Token IDs given must be of the vocabulary. -/
def inputTokens (s : State) (t : Taken) : Option (List Nat) :=
  let tk := tokNow s
  if t.input.length ≠ rqBytes t.desc then none
  else if rqTokens t.desc then
    let ids := (List.range (rqInLen t.desc)).map (fun i => leAt (4 * i) 4 t.input)
    if ids.all (· < tk.vocab) then some ids else none
  else encode s tk t.input

/-- The token that stands before a text prompt. -/
def bosOf (s : State) (flags : Nat) : List Nat :=
  if bitAt flags 0 || (tokNow s).bos == noTok then [] else [(tokNow s).bos]

/-- A SUBMIT checked in the order of R306: the request it makes, or that it is recorded only. -/
def submitReq (s : State) (t : Taken) : Option Req :=
  let d := t.desc
  let bad (reason : Nat) : Option Req := if ansOk s t.ring (rqAns d) then some (newReq t [] [] reason s.beat false) else none
  if !descOk s d then bad erBadDesc
  else if (reqOf s t.ring (rqId d)).isSome || s.routed.any (fun r => r.taken.ring == t.ring && rqId r.taken.desc == rqId d) then bad erDupId
  else if !ansOk s t.ring (rqAns d) then none
  else match paramsFor s t with
    | none => bad erBadParams
    | some p =>
      if rqRetrieve d && !queryOk s t.query then bad erBadIndex
      else match inputTokens s t with
        | none => bad erBadText
        | some ids =>
          if rqRetrieve d then some (newReq t p ids 0 s.beat true)
          else if cpl s 4 4 < (bosOf s (rqFlags d) ++ ids).length + rqMaxNew d then some (newReq t p (bosOf s (rqFlags d) ++ ids) erTooLong s.beat false)
          else some (newReq t p (bosOf s (rqFlags d) ++ ids) 0 s.beat false)

/-- A SUBMIT taken into the batcher. -/
def submitTaken (t : Taken) (s : State) : State :=
  match submitReq s t with
  | some r => { s with reqs := s.reqs ++ [r] }
  | none => intakeErr t.ring (if !descOk s t.desc then erBadDesc else if (reqOf s t.ring (rqId t.desc)).isSome then erDupId else erBadRing)
      (rqId t.desc) s

/-- REQ_SUBMIT: the oldest descriptor taken that is no CANCEL. -/
def execReqSubmit (s : State) : Host.Outcome State Fault Refusal :=
  match nextTaken s false with
  | none => .next s
  | some t => .next (submitTaken t { s with intake := s.intake.erase t })

/-- A cancel of a request: whether it is live. -/
def cancelReq (ring id : Nat) (s : State) : Bool × State :=
  match reqOf s ring id with
  | none => (false, s)
  | some r => (true, modReq r (fun x => { x with cancel := true }) s)

/-- REQ_CANCEL: the oldest CANCEL taken. -/
def execReqCancel (s : State) : Host.Outcome State Fault Refusal :=
  match nextTaken s true with
  | none => .next s
  | some t =>
    let s := { s with intake := s.intake.erase t }
    if !descOk s t.desc then .next (intakeErr t.ring erBadDesc (rqId t.desc) s)
    else match cancelReq t.ring (rqId t.desc) s with
      | (true, s) => .next s
      | (false, s) => .next (intakeErr t.ring erNotFound (rqId t.desc) s)

/-- WAIT_LIMIT_TIMEOUT at beat `b`: requests that have waited wait_limit beats since intake read them (10 R312). -/
def execWaitLimitTimeout (b : Nat) (s : State) : Host.Outcome State Fault Refusal :=
  let s := advanceTo b s
  .next (modReqs (fun r =>
    if waiting r && clsWait s r.cls != 0 && r.beat + clsWait s r.cls ≤ s.beat then endReq erWaitLimit s.beat r else r) s)

/-! ### Retrieval (10 R317, R318) -/

/-- The merged list: records in the order of R245, without NaN scores and empty places. -/
def mergeLists (ls : List (List (Nat × Nat))) : List (Nat × Nat) :=
  (ls.flatten.filter (fun e => !isNan32 e.1 && e.2 != 0xFFFFFFFF)).foldl (fun acc e =>
    acc.filter (fun x => scoreBefore x e) ++ e :: acc.filter (fun x => !scoreBefore x e)) []

/-- The tokens of a passage-table entry; none while its bytes have to be waited for; an unreadable or unencodable passage
has no tokens. -/
def passageTokens (entry : List Byte) (s : State) : Option (List Nat) × State :=
  match devRead srcCore svcUnit (leAt 0 8 entry) (leAt 8 4 entry) s with
  | (.wait, s) => (none, s)
  | (.no _, s) => (some [], s)
  | (.ok l, s) =>
    if bitAt (leAt 12 4 entry) 0 then (some ((List.range (l.length / 4)).map (fun i => leAt (4 * i) 4 l)), s)
    else (some ((encode s (tokNow s) l).getD []), s)

/-- Passages added while their tokens, each with its separator, fit; the tokens and the number used. -/
def addPassages (base : Nat) : List (Nat × Nat) → Nat → State → Option (List Nat × Nat) × State
  | [], _, s => (some ([], 0), s)
  | e :: t, room, s =>
    match passageTokens (hbmPeek s (base + 16 * e.2) 16) s with
    | (none, s) => (none, s)
    | (some ids, s) =>
      let ids := ids ++ [cpl s 0x4C 4]
      if room < ids.length then (some ([], 0), s)
      else match addPassages base t (room - ids.length) s with
        | (none, s) => (none, s)
        | (some (r, n), s) => (some (ids ++ r, n + 1), s)

/-- RETRIEVAL_MERGE: the 16 lists of (score, index) records for a request have arrived. -/
def execRetrievalMerge (ring id : Nat) (lists : List (List (Nat × Nat))) (s : State) : Host.Outcome State Fault Refusal :=
  match reqOf s ring id with
  | none => .next s
  | some r =>
    if !r.retr then .next s
    else
      let q := r.query
      match addPassages (cpl s (0x148 + 32 * leAt 0 1 q) 8) ((mergeLists lists).take (leAt 1 1 q)) (cpl s 0x46 2) s with
      | (none, s) => .next s
      | (some (ids, n), s) =>
        let prompt := bosOf s r.flags ++ ids ++ r.prompt
        let f (x : Req) : Req := { x with retr := false, prompt := prompt, passages := n }
        .next (modReq r (fun x => if cpl s 4 4 < prompt.length + x.maxNew then endReq erTooLong s.beat (f x) else f x) s)

/-! ### Page sets (10 R313-R316) -/

/-- Cached prefix sets that no request refers to, least recently used last. -/
def unreferenced (s : State) : List Prefix := s.prefixes.filter (fun p => !s.reqs.any (fun r => r.sets.contains p.set))

/-- The least recently used unreferenced cached set freed. -/
def evictOne (s : State) : Option State := (unreferenced s).getLast?.map (fun p => { s with prefixes := s.prefixes.erase p })

/-- Cached sets freed until `n` sets can be taken without going below low_water, or none is left. -/
def makeRoom (n : Nat) : Nat → State → State
  | 0, s => s
  | fuel + 1, s =>
    if cpl s 0x40 4 + n ≤ (freeSets s).length then s
    else match evictOne s with
      | none => s
      | some s => makeRoom n fuel s
def makeRoomFor (n : Nat) (s : State) : State := makeRoom n s.prefixes.length s
/-- Whether `n` sets can be taken. -/
def canTake (s : State) (n : Nat) : Bool := cpl s 0x40 4 + n ≤ (freeSets s).length

/-- Entries of a request's page table for each (layer, head), and its 4 KiB units (10 R314). -/
def ptabEntries (r : Req) : Nat := (r.prompt.length + r.maxNew + 63) / 64
def ptabUnits (s : State) (r : Req) : Nat := (kvPairs s * 8 * ptabEntries r + 4095) / 4096

/-- The lowest run of free units of the page-table region. -/
def ptabFit (s : State) (n : Nat) : Option Nat :=
  let used := (s.reqs.filter placed?).map (fun r => (r.ptab, ptabUnits s r))
  (0 :: used.map (fun u => u.1 + u.2)).foldl (fun best a =>
    if (a + n) * 4096 ≤ cpl s 0x28 8 && used.all (fun u => a + n ≤ u.1 || u.1 + u.2 ≤ a) &&
      (best.all (fun b => a < b)) then some a else best) none

/-- The page of pair `i` of set `j`. -/
def pageAddr (s : State) (i j : Nat) : Nat := cpl s 0x18 8 + (i * cpl s 0x14 4 + j) * kvPage s

/-- Page-table entries written for the sets of a request from its `k`-th on. -/
def writeTable (r : Req) (k : Nat) (s : State) : State :=
  (List.range (kvPairs s)).foldl (fun s i =>
    (List.range (r.sets.length - k)).foldl (fun s x =>
      let j := k + x
      fwWrite (cpl s 0x20 8 + r.ptab * 4096 + i * 8 * ptabEntries r + 8 * j)
        (natLe 8 (2 ^ 63 + pageAddr s i (r.sets.getD j 0) / 4096)) s) s) s

/-- Sets taken for a request, the lowest free ones, and its tables written. -/
def takeSets (r : Req) (n : Nat) (s : State) : State :=
  let r' := { r with sets := r.sets ++ (freeSets s).take n }
  writeTable r' r.sets.length (modReq r (fun _ => r') s)

/-- Prefix keys of the sets that a prompt fills (10 R315). -/
def keyStart (s : State) : List Byte := shake256 32 ([0x4B, 0x56, 0x50, 0x58] ++ natLe 4 (activeGen s))
def setTokens (prompt : List Nat) (j : Nat) : List Nat := (prompt.drop (64 * j)).take 64
def keysFrom (prompt : List Nat) : Nat → Nat → List Byte → List (List Byte)
  | 0, _, _ => []
  | n + 1, j, k =>
    let k' := shake256 32 (k ++ (setTokens prompt j).flatMap (natLe 4))
    k' :: keysFrom prompt n (j + 1) k'
def prefixKeys (s : State) (prompt : List Nat) : List (List Byte) := keysFrom prompt (prompt.length / 64) 0 (keyStart s)

/-- The longest run of leading sets that the cache holds, leaving one prompt token at least to prefill. -/
def sharedRun (s : State) (r : Req) : List Prefix :=
  if cpl s 3 1 % 2 = 0 || bitAt r.flags 3 then []
  else
    let ks := (prefixKeys s r.prompt).take ((r.prompt.length - 1) / 64)
    let hits := (List.range ks.length).map (fun j =>
      s.prefixes.find? (fun p => p.key == ks.getD j [] && p.tokens == setTokens r.prompt j))
    (hits.takeWhile Option.isSome).filterMap id

/-- Completed prompt sets of a request entered in the cache. -/
def cacheSets (r : Req) (s : State) : State :=
  if cpl s 3 1 % 2 = 0 then s
  else
    let ks := prefixKeys s r.prompt
    (List.range (min (r.prefilled / 64) ks.length)).foldl (fun s j =>
      let k := ks.getD j []
      if j < r.shared || s.prefixes.any (fun p => p.key == k) then s
      else { s with prefixes := ⟨k, setTokens r.prompt j, r.sets.getD j 0⟩ :: s.prefixes }) s

/-! ### Preemption (10 R313) -/

/-- The lowest place in the swap area with room for `n` sets. -/
def swapFit (s : State) (n : Nat) : Option Nat :=
  let used := s.reqs.filterMap (fun r => r.swap.map (fun a => (a, (r.sets.length, r))))
  let runs := used.map (fun u => (u.1, setBytes s * ((u.2.2.prompt.length + u.2.2.gen.length + 63) / 64 - u.2.2.shared)))
  (0 :: runs.map (fun u => u.1 + u.2)).foldl (fun best a =>
    if a + n * setBytes s ≤ cpl s 0x38 8 && runs.all (fun u => a + n * setBytes s ≤ u.1 || u.1 + u.2 ≤ a) &&
      best.all (fun b => a < b) then some a else best) none

/-- Sets of its own that a request holds. -/
def privateSets (r : Req) : List Nat := r.sets.drop r.shared

/-- The sets a sequence needs for the positions it has. -/
def setsNeeded (r : Req) : Nat := (r.prompt.length + r.gen.length + 63) / 64

/-- A sequence preempted: its private sets are copied to the swap area, where it has room, and freed. -/
def preempt (r : Req) (s : State) : State :=
  let mine := (privateSets r).take (setsNeeded r - r.shared)
  let place := if r.phase = phPrefill then none else swapFit s mine.length
  let s := match place with
    | none => s
    | some a => (List.range mine.length).foldl (fun s k =>
        (List.range (kvPairs s)).foldl (fun s i =>
          (devWrite srcFirmware svcUnit (cpl s 0x30 8 + a + k * setBytes s + i * kvPage s)
            (hbmPeek s (pageAddr s i (mine.getD k 0)) (kvPage s)) s).2) s) s
  modReq r (fun x => { x with phase := phPreempted, due := false, sets := x.sets.take x.shared, swap := place }) s

/-- The sequence to preempt for another: the most recently admitted one of the class of lowest weight. -/
def victimFor (s : State) : Option Req :=
  let cs := s.reqs.filter (fun r => (r.phase == phPrefill || r.phase == phDecode) && r.ended == 0)
  cs.foldl (fun best r => match best with
    | none => some r
    | some b =>
      if clsWeight s r.cls < clsWeight s b.cls || (clsWeight s r.cls == clsWeight s b.cls && b.order < r.order) then some r
      else some b) none

/-- One more set for a sequence, preempting others, or itself, as far as it must. -/
def growSet : Nat → Req → State → State
  | 0, _, s => s
  | fuel + 1, r, s =>
    match reqOf s r.ring r.id with
    | none => s
    | some r =>
      if r.phase = phPreempted then s
      else
        let s := makeRoomFor 1 s
        if canTake s 1 then takeSets r 1 s
        else match victimFor s with
          | none => s
          | some v => growSet fuel r (preempt v s)

/-- A sequence's sets brought up to the positions of its next step. -/
def growReq (s : State) (r : Req) : State :=
  let need := (r.prompt.length + r.gen.length + pDraft r.params + 1 + 63) / 64
  (List.range (min (need - r.sets.length) (ptabEntries r - r.sets.length))).foldl (fun s _ => growSet (s.reqs.length + 1) r s) s

/-! ### The step boundary (10 R311, R312) -/

/-- Whether an active number with a role is vacant, so that no batch is stepped (15 R456). -/
def vacantRole (s : State) : Bool := (placed s 0).any (fun l => !held s l)

/-- Whether the batcher starts a step: an image is active, no switch has reached its stop beat (08 R271), no role is vacant, no
replay runs (15 R454). -/
def mayStep (s : State) : Bool :=
  imageActive s && fld s rCalSwitchStat fCalSwitchStatPhase < 2 && !vacantRole s && s.replay.isNone

/-- Places and pages of ended requests released; one whose END record is written is gone. -/
def releaseEnded (s : State) : State :=
  { s with reqs := (s.reqs.map (fun r => if r.ended ≠ 0 ∧ r.phase ≤ phPreempted then
      { r with phase := phReleased, sets := [], swap := none } else r)).filter (fun r => !(r.isOver && r.phase == phReleased)) }

/-- Requests put in order by a comparison, equal ones staying as they are. -/
def sortReqs (before : Req → Req → Bool) (l : List Req) : List Req :=
  l.foldl (fun acc r => acc.takeWhile (fun x => !before r x) ++ r :: acc.dropWhile (fun x => !before r x)) []

/-- One preempted request restored: from the swap area, or to be prefilled again; none where pages do not suffice or its bytes
have to be waited for. -/
def restoreOne (r : Req) (s : State) : Bool × State :=
  let n := setsNeeded r - r.shared
  let s := makeRoomFor n s
  if !canTake s n then (false, s)
  else match r.swap with
    | none =>
      let s := takeSets r n s
      (true, modReq r (fun x => { x with phase := phPrefill, prefilled := 64 * x.shared }) s)
    | some a =>
      match devRead srcFirmware svcUnit (cpl s 0x30 8 + a) (n * setBytes s) s with
      | (.ok l, s) =>
        let s := takeSets r n s
        let mine := (((reqOf s r.ring r.id).map privateSets).getD [])
        let s := (List.range n).foldl (fun s k => (List.range (kvPairs s)).foldl (fun s i =>
          fwWrite (pageAddr s i (mine.getD k 0)) (slice (k * setBytes s + i * kvPage s) (kvPage s) l) s) s) s
        (true, modReq r (fun x => { x with phase := phDecode, swap := none }) s)
      | (_, s) => (false, s)

/-- Preempted requests restored, classes in decreasing weight, then the oldest first, while pages suffice. -/
def restoreAll : List Req → State → State
  | [], s => s
  | r :: t, s =>
    match restoreOne r s with
    | (true, s) => restoreAll t s
    | (false, s) => s

/-- A class's oldest waiting request. -/
def oldestOf (s : State) (c : Nat) : Option Req := s.reqs.find? (fun r => waiting r && !r.retr && r.cls == c)
def deficitOf (s : State) (c : Nat) : Nat := tabGet (fun _ => 0) s.deficits c
def setDeficit (c n : Nat) (s : State) : State := { s with deficits := tabSet (fun _ => 0) s.deficits c n }

/-- Whether a class may admit its oldest waiting request as far as deficit and places go. -/
def mayAdmit (s : State) (c : Nat) : Option Req :=
  match oldestOf s c with
  | none => none
  | some r =>
    if clsWeight s c = 0 ∨ deficitOf s c < r.prompt.length ∨ cpl s 8 4 ≤ (s.reqs.filter placed?).length ∨
      clsSeqs s c ≤ (s.reqs.filter (fun x => placed? x && x.cls == c)).length then none else some r

/-- A waiting request admitted, with the shared sets it takes and the others its prompt needs; none where pages or page-table
space lack. -/
def admitReq (r : Req) (s : State) : Option State :=
  let run := sharedRun s r
  let s := { s with prefixes := run.reverse.foldl (fun l p => p :: l.erase p) s.prefixes }
  let r1 := { r with sets := run.map (·.set), shared := run.length }
  let s1 := modReq r (fun _ => r1) s
  let n := (r.prompt.length + 63) / 64 - run.length
  let s1 := makeRoomFor n s1
  match ptabFit s1 (ptabUnits s1 r) with
  | none => none
  | some u =>
    if !canTake s1 n then none
    else
      let r2 := { r1 with phase := phPrefill, order := s1.nAdmit + 1, ptab := u, prefilled := 64 * run.length }
      let s2 := modReq r (fun _ => r2) { s1 with nAdmit := s1.nAdmit + 1, lastCls := r.cls }
      let s2 := takeSets r2 n (writeTable r2 0 s2)
      some (setDeficit r.cls (deficitOf s2 r.cls - r.prompt.length) s2)

/-- Admissions of one boundary: classes in turn from one past the last admitted, until none can or pages lack. -/
def admitAll : Nat → State → State
  | 0, s => s
  | fuel + 1, s =>
    match ((List.range 8).map (fun i => (s.lastCls + 1 + i) % 8)).findSome? (mayAdmit s) with
    | none => s
    | some r =>
      match admitReq r s with
      | none => s
      | some s => admitAll fuel s

/-- Whether an answer ring has no free slot, as far as its consumer index has been read. -/
def ansFull (s : State) (ans : Nat) : Bool :=
  match look s.ansRings ans with
  | none => false
  | some q => 2 ^ q.log2 ≤ subMod 32 q.mine q.other
/-- Whether a request is paused by its answer ring. -/
def paused (s : State) (r : Req) : Bool := !fromManager s r.ring && ansFull s r.ans

/-- The consumer index of an answer ring read from its control line. -/
def readConsumer (ans : Nat) (s : State) : State :=
  match look s.ansRings ans with
  | none => s
  | some q =>
    match devRead srcCore (indexUnit ans) (q.base + 4) 4 s with
    | (.ok l, s) => { s with ansRings := tabPut ans { q with other := leNat l } s.ansRings }
    | (_, s) => s

/-- Prompt chunks assigned, the oldest admitted request first, within the budget; a request whose last chunk runs samples its
first token in this step. -/
def assignChunks : List Req → Nat → State → State
  | [], _, s => s
  | r :: t, budget, s =>
    let want := r.prompt.length + r.gen.length - r.prefilled
    let n := min budget want
    let r' := { r with prefilled := r.prefilled + n, phase := if n = want then phDecode else phPrefill }
    assignChunks t (budget - n) (cacheSets r' (modReq r (fun _ => r') s))

/-- STEP_BOUNDARY at beat `b`. -/
def execStepBoundary (b : Nat) (s : State) : Host.Outcome State Fault Refusal :=
  let s := advanceTo b s
  if !mayStep s then .next s
  else
    let s := modReqs (fun r => if r.cancel then endReq erCancelled s.beat r else r) s
    let s := releaseEnded s
    let s := restoreAll (sortReqs (fun x y => clsWeight s y.cls < clsWeight s x.cls ||
      (clsWeight s x.cls == clsWeight s y.cls && x.order < y.order)) (s.reqs.filter (fun r => r.phase == phPreempted))) s
    let s := (List.range 8).foldl (fun s c =>
      setDeficit c (if (oldestOf s c).isSome then deficitOf s c + 64 * clsWeight s c else 0) s) s
    let s := admitAll s.reqs.length s
    let s := s.ansRings.foldl (fun s e => if ansFull s e.1 then readConsumer e.1 s else s) s
    let old := s.reqs.filter (fun r => r.phase == phDecode && !paused s r)
    let s := assignChunks (sortReqs (fun x y => x.order < y.order) (s.reqs.filter (fun r => r.phase == phPrefill && !paused s r)))
      (cpl s 0xC 4) s
    let s := old.foldl growReq s
    let stopped := (s.reqs.filter (fun r => (r.phase == phPrefill || r.phase == phDecode) && paused s r)).length
    let s := setFld rSvcCounts fSvcCountsRingFull (min 0xFF (fld s rSvcCounts fSvcCountsRingFull + stopped)) s
    let s := { s with steps := s.steps + 1, aborted := [] }
    .next (modReqs (fun r =>
      if (r.phase == phPrefill || r.phase == phDecode) && paused s r then
        { r with due := false, full := some (r.full.getD s.beat) }
      else { r with due := r.phase == phDecode && r.ended == 0, full := none }) s)

/-! ### Sampling and committing (10 R300, R310, R319-R322) -/

/-- What a request's choice depends on. -/
def sampOf (s : State) (r : Req) : Samp :=
  let table := if r.grammar = 0xFFFF then none else
    some (hbmPeek s (cpl s (0x240 + 16 * r.grammar) 8) (cpl s (0x248 + 16 * r.grammar) 4))
  ⟨r.params, r.seed, reproMode s, (tokNow s).vocab, r.prompt, r.gen, table, r.gram, (tokNow s).eos :: pStops r.params⟩

/-- A token committed: its text joins the stream, and it may end the request. -/
def commitToken (s : State) (r : Req) (t : Nat) : Req :=
  if r.ended ≠ 0 then r
  else
    let c := sampOf s r
    let stop := c.ends.contains t
    let (text, hold) := if stop || bitAt r.flags 1 || tokSpecial s (tokNow s) t then ([], r.hold)
      else utf8FeedAll r.hold (tokStr s (tokNow s) t)
    let r := { r with gen := r.gen ++ [t], gram := (took c t).gram, pend := r.pend ++ [(t, text)], hold := hold,
                      first := some (r.first.getD s.beat) }
    if stop then endReq erStop s.beat r
    else if r.maxNew ≤ r.gen.length then endReq erLength s.beat r
    else if cpl s 4 4 ≤ r.prompt.length + r.gen.length then endReq erContext s.beat r else r

/-- SAMPLE_TOKEN: the sampler turns the logits of a sequence's positions, and the draft tokens with their draft logits, into
committed tokens at beat `b`. -/
def execSampleToken (ring id : Nat) (logits : List (List Nat)) (drafts : List (Nat × List Nat)) (b : Nat) (s : State) :
    Host.Outcome State Fault Refusal :=
  let s := advanceTo b s
  match reqOf s ring id with
  | none => .next s
  | some r =>
    if !r.due || s.replay.isSome then .next s
    else
      let (ts, dead, s) := verifyDrafts (sampOf s r) (drafts.take (pDraft r.params)) logits s
      .next (modReq r (fun x =>
        let x := ts.foldl (commitToken s) { x with due := false }
        if dead then endReq erGrammar s.beat x else x) s)

/-! ### Streaming (10 R323, R324; 12 R354) -/

/-- The largest cut of a text of whole characters at or below `n` bytes. -/
def cutAt (l : List Byte) : Nat → Nat
  | 0 => 0
  | n + 1 => if n + 1 < l.length ∧ isCont (l.getD (n + 1) 0) then cutAt l n else min (n + 1) l.length

/-- Text taken for a record of at most `room` bytes: the bytes, the tokens covered, and what is left. -/
def takeText : Nat → List (Nat × List Byte) → List Byte × Nat × List (Nat × List Byte)
  | _, [] => ([], 0, [])
  | room, (t, l) :: r =>
    if l.length ≤ room then
      let (x, n, rest) := takeText (room - l.length) r
      (l ++ x, n + (if t = noTok then 0 else 1), rest)
    else (l.take (cutAt l room), 0, (t, l.drop (cutAt l room)) :: r)

/-- Pending text bytes and pending committed tokens. -/
def pendBytes (r : Req) : Nat := (r.pend.map (·.2.length)).sum
def pendTokens (r : Req) : Nat := (r.pend.filter (fun e => e.1 != noTok)).length

/-- Whether a TEXT record is to be written (10 R323). -/
def textDue (s : State) (r : Req) : Bool :=
  !r.pend.isEmpty && (r.ended != 0 || (if bitAt r.flags 1 then 10 ≤ pendTokens r else 40 ≤ pendBytes r) ||
    cpl s 0x44 2 ≤ pendTokens r)

/-- The next record of a request: TEXT while something is pending, then END (Table 10-6), without its PHASE; and the request
after it. -/
def nextRecord (s : State) (r : Req) : List Byte × Req :=
  if r.pend.isEmpty then
    (natLe 8 r.id ++ [2, 0] ++ natLe 1 r.ended ++ [0] ++ natLe 4 r.prompt.length ++ natLe 4 r.passages ++
      natLe 4 r.gen.length ++ padTo 40 (natLe 8 r.endBeat), { r with isOver := true })
  else
    let ids := bitAt r.flags 1
    let (data, n, rest) := if ids then
        let p := r.pend.take 10
        (p.flatMap (fun e => natLe 4 e.1), p.length, r.pend.drop 10)
      else takeText 40 r.pend
    (natLe 8 r.id ++ [1] ++ natLe 1 (if ids then n else data.length) ++ [0, 0] ++ natLe 4 (r.prompt.length + r.streamed) ++ natLe 4 n ++
      natLe 4 0 ++ padTo 40 data,
     { r with pend := rest, streamed := r.streamed + n, first := if rest.isEmpty then none else some s.beat })

/-- A record as an ANSWER packet to the manager (13 R399): the answer ring in its address field. -/
def answerPacket (r : Req) (rcd : List Byte) (s : State) : State :=
  fabSend { headTo s ptAnswer vcBulk (16 * ownGroup s) 0 with addr := r.ring * 2 ^ 8 + r.ans } .none rcd s

/-- A record put into an answer ring: into its next slot with the slot's PHASE, its index still to be written. -/
def putRecord (ans : Nat) (rcd : List Byte) (s : State) : State :=
  match look s.ansRings ans with
  | none => s
  | some q =>
    let rcd := listSet rcd 0xB (BitVec.ofNat 8 (128 * (q.mine / 2 ^ q.log2 % 2)))
    let s := { s with ansPend := tabPut ans rcd s.ansPend }
    companionWrite (q.base + 64 + 64 * (q.mine % 2 ^ q.log2)) rcd (answerUnit ans) s

/-- Whether an answer ring takes a record now. -/
def ansRoom (s : State) (ans : Nat) : Bool := (look s.ansPend ans).isNone && !ansFull s ans && anyPortUp s

/-- A record of a request written where there is room; a ring closed with its port (12 R358) refuses it. -/
def writeRecord (r : Req) (s : State) : State :=
  let s := if ansFull s r.ans && !fromManager s r.ring then readConsumer r.ans s else s
  let (rcd, r') := nextRecord s r
  if fromManager s r.ring then modReq r (fun _ => r') (answerPacket r rcd s)
  else if (look s.ansRings r.ans).isNone then modReq r (fun _ => r') s
  else if ansRoom s r.ans then modReq r (fun _ => r') (putRecord r.ans rcd s) else s

/-- ANSWER_RECORD_WRITE: the streamer writes the next record of a request that is due. -/
def execAnswerRecordWrite (ring id : Nat) (s : State) : Host.Outcome State Fault Refusal :=
  match reqOf s ring id with
  | none => .next s
  | some r =>
    let s' := if (textDue s r || (r.pend.isEmpty && r.ended != 0)) && r.phase != phPreempted then writeRecord r s else s
    .next { s' with reqs := s'.reqs.filter (fun x => !(x.isOver && (x.phase == phWaiting || x.phase == phReleased))) }

/-- ANSWER_FLUSH_TIMEOUT at beat `b`: flush_beats have passed since the first pending byte. -/
def execAnswerFlushTimeout (ring id b : Nat) (s : State) : Host.Outcome State Fault Refusal :=
  let s := advanceTo b s
  match reqOf s ring id with
  | none => .next s
  | some r => .next (whenS (!r.pend.isEmpty && r.phase != phPreempted && r.first.any (fun f => f + cpl s 0x48 4 ≤ s.beat))
      (writeRecord r) s)

/-- An EVT on every port that is UP and asks for answers' events (12 R354). -/
def answerEvt (ans : Nat) (s : State) : State :=
  [0, 1].foldl (fun s p =>
    if portState s p = psUp ∧ fld s (rSerPortCtl p) fSerPortCtlEvtAnswer = 1 then send .evt p [1, ans] [] s else s) s

/-- ANSWER_INDEX_WRITE: the record's CMP has come: the producer index is written; a record whose write failed is written again. -/
def execAnswerIndexWrite (ans : Nat) (s : State) : Host.Outcome State Fault Refusal :=
  onUnit ans 256 s (fun s =>
    match look s.ansPend ans, look s.ansRings ans with
    | some rcd, some q =>
      if serBusy s (answerUnit ans) then s
      else if s.serErrs.contains (answerUnit ans) then
        putRecord ans rcd { s with serErrs := s.serErrs.filter (· != answerUnit ans) }
      else match devWrite srcFirmware (indexUnit ans) q.base (natLe 4 (q.mine + 1)) s with
        | (.ok _, s) => answerEvt ans { s with ansPend := tabDel ans s.ansPend,
                                               ansRings := tabPut ans { q with mine := (q.mine + 1) % 2 ^ 32 } s.ansRings }
        | (_, s) => s
    | _, _ => s)

/-- ANSWER_STALL_TIMEOUT at beat `b`: a request whose answer ring has stayed full for answer_stall_beats. -/
def execAnswerStallTimeout (ring id b : Nat) (s : State) : Host.Outcome State Fault Refusal :=
  let s := advanceTo b s
  match reqOf s ring id with
  | none => .next s
  | some r => .next (whenS (cpl s 0x50 8 != 0 && paused s r && r.full.any (fun f => f + cpl s 0x50 8 ≤ s.beat))
      (modReq r (endReq erRingFull s.beat)) s)

/-- CORE_FAIL: a service core is out of service and its work moves; a record not yet accepted is written again (10 R299). -/
def execCoreFail (k : Nat) (s : State) : Host.Outcome State Fault Refusal :=
  onUnit k 16 s (fun s =>
    let up := fld s rSvcStatus fSvcStatusCoresUp
    whenS (bitAt up k) (fun s =>
      let s := setFld rSvcStatus fSvcStatusCoresUp (up - 2 ^ k) s
      let s := addRecord (mkRecord 3 7 k 0xC 0) s
      s.ansPend.foldl (fun s e => if serBusy s (answerUnit e.1) then s else putRecord e.1 e.2 s) s) s)

/-! ### The SVC mailbox (10 R327) -/

def sxRingLimit : Nat := 0x50
def sxRingBusy : Nat := 0x51
def sxTableInUse : Nat := 0x52
def sxSignature : Nat := 0x53
def sxNotFound : Nat := 0x54

/-- Whether a base suits a ring: HBM on 64 KiB, or companion memory on 64 bytes (10 R301). -/
def ringBaseOk (s : State) (kind base n : Nat) : Bool :=
  let bytes := 64 + 64 * 2 ^ n
  6 ≤ n && n ≤ 16 && (if kind = 0 then base % 65536 == 0 && base + bytes ≤ hbmTop s
    else base % 64 == 0 && companionBase ≤ base && base + bytes ≤ 2 ^ 48)

/-- RING_OPEN. -/
def execRingOpen (rid a0 a1 a2 a3 : Nat) (s : State) : Host.Outcome State Fault Refusal :=
  .next (service mbSvc 0x0A01 rid [a0, a1, a2, a3] (fun s =>
    if 1 < a0 ∨ 65536 ≤ a3 ∨ 16 < a2 then (.done stBadArg [], s)
    else if !ringBaseOk s a0 a1 a2 then (.done stBadArg [], s)
    else
      let q : Ring := ⟨a1, a2, a3, 0, 0⟩
      if a0 = 0 then match (List.range 64).find? (fun r => (look s.reqRings r).isNone) with
        | none => (.done sxRingLimit [], s)
        | some r => (ok [r], { s with reqRings := tabPut r q s.reqRings })
      else match (List.range 256).find? (fun r => (look s.ansRings r).isNone) with
        | none => (.done sxRingLimit [], s)
        | some r => (ok [r], { s with ansRings := tabPut r q s.ansRings })) s)

/-- The producer index of a request ring as it stands in HBM. -/
def producerOf (s : State) (q : Ring) : Nat := leNat (hbmPeek s q.base 4)

/-- Requests that name an answer ring. -/
def namesAns (s : State) (ans : Nat) : Bool :=
  s.reqs.any (fun r => !r.isOver && r.ans == ans && !fromManager s r.ring) || s.routed.any (fun r => rqAns r.taken.desc == ans) ||
    (look s.ansPend ans).isSome

/-- RING_CLOSE. -/
def execRingClose (rid a0 a1 : Nat) (s : State) : Host.Outcome State Fault Refusal :=
  .next (service mbSvc 0x0A02 rid [a0, a1] (fun s =>
    if a0 = 0 then match look s.reqRings a1 with
      | none => (.done stBadArg [], s)
      | some q =>
        if producerOf s q ≠ q.mine ∨ liveOn s a1 ≠ 0 ∨ s.intake.any (fun t => t.ring == a1) then (.done sxRingBusy [], s)
        else (ok [], { s with reqRings := tabDel a1 s.reqRings })
    else match look s.ansRings a1 with
      | none => (.done stBadArg [], s)
      | some _ =>
        if a0 ≠ 1 then (.done stBadArg [], s) else if namesAns s a1 then (.done sxRingBusy [], s)
        else (ok [], { s with ansRings := tabDel a1 s.ansRings })) s)

/-- RING_STATUS. -/
def execRingStatus (rid a0 a1 : Nat) (s : State) : Host.Outcome State Fault Refusal :=
  .next (serviceRead mbSvc 0x0A03 rid [a0, a1] (fun s =>
    match (if a0 = 0 then look s.reqRings a1 else look s.ansRings a1) with
    | none => [0, 0, 0, 0]
    | some q =>
      let st := 2 ^ 62 + q.log2 * 2 ^ 52
      if a0 = 0 then [st, producerOf s q, q.mine, liveOn s a1]
      else [st, q.mine, q.other, (s.reqs.filter (fun r => !r.isOver && r.ans == a1)).length]) s)

/-- Whether an image in a slot names a tokeniser table slot. -/
def tokNamed (s : State) (t : Nat) : Bool :=
  [0, stg].any (fun im => fld s (rCalSlot im) fCalSlotState != 0 && (imgSection s im stCompl).isSome && cplLe s im 0 1 == t)

/-- TOK_LOAD: the object is verified, measured and protected. -/
def execTokLoad (rid a0 a1 a2 : Nat) (s : State) : Host.Outcome State Fault Refusal :=
  .next (service mbSvc 0x0A04 rid [a0, a1, a2] (fun s =>
    if 4 ≤ a0 ∨ hbmTop s < a1 + a2 ∨ a1 % 64 ≠ 0 then (.done stBadArg [], s)
    else if tokNamed s a0 then (.done sxTableInUse [], s)
    else
      let o := hbmPeek s a1 a2
      let (c, s) := verify otTok o s
      if c ≠ 0 then (.done sxSignature [], s)
      else (ok [], measure (o.take objHeader) { s with tokTables := tabPut a0 ⟨a1, a2⟩ s.tokTables })) s)

/-- TOK_UNLOAD. -/
def execTokUnload (rid a0 : Nat) (s : State) : Host.Outcome State Fault Refusal :=
  .next (service mbSvc 0x0A05 rid [a0] (fun s =>
    if 4 ≤ a0 then (.done stBadArg [], s)
    else if tokNamed s a0 then (.done sxTableInUse [], s)
    else (ok [], { s with tokTables := tabDel a0 s.tokTables })) s)

/-- SVC_CANCEL. -/
def execSvcCancel (rid a0 a1 : Nat) (s : State) : Host.Outcome State Fault Refusal :=
  .next (service mbSvc 0x0A06 rid [a0, a1] (fun s =>
    match cancelReq a0 a1 s with
    | (true, s) => (ok [], s)
    | (false, s) => (.done sxNotFound [], s)) s)

/-- REQ_STATUS. -/
def execReqStatus (rid a0 a1 : Nat) (s : State) : Host.Outcome State Fault Refusal :=
  .next (service mbSvc 0x0A07 rid [a0, a1] (fun s =>
    match reqOf s a0 a1 with
    | none => (.done sxNotFound [], s)
    | some r => (ok [r.phase % 4, r.prompt.length + r.gen.length - 1, r.prompt.length + r.streamed - 1, r.sets.length], s)) s)

/-- SVC_ADMIT. -/
def execSvcAdmit (rid a0 : Nat) (s : State) : Host.Outcome State Fault Refusal :=
  .next (service mbSvc 0x0A08 rid [a0] (fun s =>
    if 1 < a0 then (.done stBadArg [], s) else (ok [], setFld rSvcAdmitCtl fSvcAdmitCtlAdmit a0 s)) s)

/-- PREFIX_FLUSH. -/
def execPrefixFlush (rid : Nat) (s : State) : Host.Outcome State Fault Refusal :=
  .next (service mbSvc 0x0A09 rid [] (fun s =>
    let free := unreferenced s
    (ok [free.length], { s with prefixes := s.prefixes.filter (fun p => !free.contains p) })) s)

/-- SVC_STATS. -/
def execSvcStats (rid : Nat) (s : State) : Host.Outcome State Fault Refusal :=
  .next (service mbSvc 0x0A0A rid [] (fun s =>
    (ok [(svcStatus s).toNat, (svcCounts s).toNat], setFld rSvcCounts fSvcCountsRingFull 0 s)) s)

end Sys2Proof.Machine
end

