-- ==== Sys2Proof/Machine/Calibre.lean ====
section
/-! DEFINITION. Calibre images on the part (08): admission by LOAD, the slots, switching, the watch, rollback, and the CAL mailbox. -/
namespace Sys2Proof.Machine

/-! ### Names -/

/-- Slot states of Table 08-5. -/
def slEmpty : Nat := 0
def slLoading : Nat := 1
def slAdmitted : Nat := 2
def slArmed : Nat := 3
def slWatch : Nat := 4
def slActive : Nat := 5
def slPrevious : Nat := 6
def slotState (s : State) (i : Nat) : Nat := fld s (rCalSlot i) fCalSlotState

/-- Status codes of R279. -/
def sxNoStaging : Nat := 0x30
def sxTooSoon : Nat := 0x31
def sxArmed : Nat := 0x32
def sxDraining : Nat := 0x33
def sxNoPrevious : Nat := 0x34
def sxSlotBusy : Nat := 0x35
def sxWatchOpen : Nat := 0x36
def sxSwitchLate : Nat := 0x38
def sxSpareMove : Nat := 0x39

/-- Fields of the image header in a slot (Table 08-1). -/
def drainBeats (s : State) (im : Nat) : Nat := imgLe s im 0x30 8
def warmupBeats (s : State) (im : Nat) : Nat := imgLe s im 0x38 8
def watchBeats (s : State) (im : Nat) : Nat := if imgLe s im 0x40 8 = 0 then 5000000000 else imgLe s im 0x40 8
def healthMask (s : State) (im : Nat) : Nat := imgLe s im 0x50 4
def kvCompat (s : State) (im : Nat) : Bool := imgLe s im 0x59 1 == 1

/-- CAL.SWITCH_STAT's phase, and whether a rollback is armed. -/
def swPhase (s : State) : Nat := fld s rCalSwitchStat fCalSwitchStatPhase
def swRollback (s : State) : Bool := fld s rCalSwitchStat fCalSwitchStatRollback == 1 && swPhase s != 0
/-- The slot an armed switch activates. -/
def swSource (s : State) : Nat := if swRollback s then 1 else stg

/-! ### Admission (08 R266) -/

/-- IMAGE_LOAD: the call runs until ADMISSION_COMPLETE. -/
def execImageLoad (rid a0 a1 : Nat) (s : State) : Host.Outcome State Fault Refusal :=
  .next (service mbCal 0x0801 rid [a0, a1] (fun s =>
    if a0 % 65536 ≠ 0 ∨ a1 = 0 ∨ hbmTop s < a0 + a1 then (.done stBadArg [], s)
    else if slotState s stg ≠ slEmpty then (.done sxSlotBusy [], s)
    else (.runs [], stageImage a0 a1 s)) s)

/-- ADMISSION_COMPLETE: the checks of Table 08-4 end; `bad` are the companion-memory blobs whose digest differs. -/
def execAdmissionComplete (bad : List Nat) (s : State) : Host.Outcome State Fault Refusal :=
  .next (whenS ((look s.calls mbCal).any (fun c => c.code == 0x0801)) (fun s =>
    match admitImage bad s with
    | (none, s) => endCall mbCal stOk [] s
    | (some (code, res), s) => endCall mbCal code res s) s)

/-- DISCARD. -/
def execImageDiscard (rid : Nat) (s : State) : Host.Outcome State Fault Refusal :=
  .next (service mbCal 0x0802 rid [] (fun s =>
    if slotState s stg = slArmed then (.done sxArmed [], s) else (ok [], emptySlot stg s)) s)

/-! ### Arming (08 R270, R272, R275) -/

/-- A switch armed for beat `S`: T and V are set from the drain of the outgoing image. -/
def armSwitch (S : Nat) (rollback auto_ : Bool) (s : State) : State :=
  let T := if imageActive s then S - drainBeats s 0 - 1000000 else S - 1000000
  let s := { s with stopBeat := T, actBeat := S - 1000000, drained := false, autoRoll := auto_ }
  let s := wr rCalSwitchBeat (BitVec.ofNat 64 S) s
  setFlds rCalSwitchStat [(fCalSwitchStatPhase, 1), (fCalSwitchStatRollback, bit rollback)] s

/-- Whether the stop beat of a switch at `S` would come too soon. -/
def tooSoon (s : State) (S : Nat) : Bool :=
  decide (S < (if imageActive s then drainBeats s 0 else 0) + 1000000 + (s.beat + 100000))

/-- IMAGE_SWITCH. -/
def execImageSwitch (rid a0 : Nat) (s : State) : Host.Outcome State Fault Refusal :=
  .next (service mbCal 0x0803 rid [a0] (fun s =>
    if swRollback s then (.done sxArmed [], s)
    else if slotState s stg ≠ slAdmitted then (.done sxNoStaging [], s)
    else if slotState s 0 = slWatch then (.done sxWatchOpen [], s)
    else if tooSoon s a0 then (.done sxTooSoon [], s)
    else
      let s := armSwitch a0 false false (setSlot stg slArmed s)
      (ok [s.stopBeat, s.actBeat], s)) s)

/-- CAL_CANCEL. -/
def execCalCancel (rid : Nat) (s : State) : Host.Outcome State Fault Refusal :=
  .next (service mbCal 0x0804 rid [] (fun s =>
    if swRollback s then (.done sxArmed [], s)
    else if slotState s stg ≠ slArmed then (.done sxNoStaging [], s)
    else if s.stopBeat ≤ s.beat then (.done sxDraining [], s)
    else (ok [], setFld rCalSwitchStat fCalSwitchStatPhase 0 (setSlot stg slAdmitted s))) s)

/-- IMAGE_ROLLBACK. -/
def execImageRollback (rid a0 : Nat) (s : State) : Host.Outcome State Fault Refusal :=
  .next (service mbCal 0x0805 rid [a0] (fun s =>
    if slotState s 1 ≠ slPrevious then (.done sxNoPrevious [], s)
    else if swPhase s ≠ 0 then (.done sxArmed [], s)
    else if tooSoon s a0 then (.done sxTooSoon [], s)
    else
      let s := armSwitch a0 true false s
      (ok [s.stopBeat, s.actBeat], s)) s)

/-! ### The watch (08 R274, R275) -/

/-- The watch ends well. -/
def endWatch (s : State) : State := wr rCalWatchEnd 0 (setSlot 0 slActive s)

/-- ABORTED set with an outcome. -/
def aborted (outcome : Nat) (s : State) : State :=
  raise rCalSwitchStat 0 rCalSwitchStatCnt (setFld rCalSwitchStat fCalSwitchStatOutcome outcome s)

/-- BRU fault ROLLBACK_BLOCKED (08 R275, R276; 15 R464). -/
def rollbackBlocked (s : State) : State :=
  addRecord { mkRecord 5 9 0 0x12 0 with action := 7 } (setFld rBruFault fBruFaultRollbackBlocked 1 s)

/-- A failed watch: an automatic rollback is armed for the first whole millisecond that R275 allows, or blocked. -/
def failWatch (b : Nat) (s : State) : State :=
  let s := setFld rCalSwitchStat fCalSwitchStatHealthBit (b + 1) s
  if slotState s 1 ≠ slPrevious then endWatch (rollbackBlocked (aborted sxNoPrevious s))
  else armSwitch ((s.beat + drainBeats s 0 + 1100000 + 999999) / 1000000 * 1000000) true true (wr rCalWatchEnd 0 s)

/-- Whether the watch is open. -/
def watching (s : State) : Bool := slotState s 0 == slWatch && !swRollback s && rdN s rCalWatchEnd != 0

/-- CONFIRM. -/
def execConfirm (rid : Nat) (s : State) : Host.Outcome State Fault Refusal :=
  .next (service mbCal 0x0806 rid [] (fun s =>
    if slotState s 0 ≠ slWatch then (.done stBadArg [], s) else (ok [], endWatch s)) s)

/-- HEALTH_FAIL. -/
def execHealthFail (rid : Nat) (s : State) : Host.Outcome State Fault Refusal :=
  .next (service mbCal 0x0807 rid [] (fun s =>
    if slotState s 0 ≠ slWatch then (.done stBadArg [], s)
    else (ok [], whenS (bitAt (healthMask s 0) 4 && watching s) (failWatch 4) s)) s)

/-- WATCH_END at beat `b`. -/
def execWatchEnd (b : Nat) (s : State) : Host.Outcome State Fault Refusal :=
  let s := advanceTo b s
  .next (whenS (watching s && rdN s rCalWatchEnd ≤ s.beat) endWatch s)

/-- Whether a health condition of Table 08-7 is met; a stream's error that hardware caused does not count. -/
def unhealthy (s : State) (c : Nat) : Bool :=
  match c with
  | 0 => (List.range nLogical).any (fun l => held s l && !hwCause (fld s (rClCmdErr (physOf s l)) fClCmdErrCause) &&
      (List.range 28).any (fun st => streamState s (physOf s l) st == ssError))
  | 1 => decide (imgLe s 0 0x54 4 < s.lateSince)
  | 2 => (List.range nMsd).any (fun n => (List.range 32).any (fun q =>
      tabGet (fun _ => noPhys) s.producers (32 * n + q) != 0xFFFF && fld s (rMsdQueue n q) fMsdQueueState == qsError))
  | 3 => s.reqs.any waiting && decide (rdN s rCalSwitchBeat + warmupBeats s 0 + 1000000000 ≤ s.beat)
  | _ => false

/-- WATCH_FAIL: condition `c` is met at beat `b`. That no token has been streamed for the second of condition 3 is the
command's own report. -/
def execWatchFail (c b : Nat) (s : State) : Host.Outcome State Fault Refusal :=
  let s := advanceTo b s
  .next (whenS (watching s && c < 4 && bitAt (healthMask s 0) c && unhealthy s c && s.beat < rdN s rCalWatchEnd) (failWatch c) s)

/-- RELEASE_PREVIOUS. -/
def execReleasePrevious (rid : Nat) (s : State) : Host.Outcome State Fault Refusal :=
  .next (service mbCal 0x0808 rid [] (fun s =>
    if swRollback s then (.done sxArmed [], s) else (ok [], emptySlot 1 s)) s)

/-- STORE_BOOT: the flash keeps one boot image. -/
def execStoreBoot (rid a0 : Nat) (s : State) : Host.Outcome State Fault Refusal :=
  .next (service mbCal 0x0809 rid [a0] (fun s =>
    if (a0 ≠ 0 ∧ a0 ≠ 2) ∨ slotState s a0 ≤ slLoading then (.done stBadArg [], s)
    else match look s.images a0 with
      | none => (.done stBadArg [], s)
      | some i => (ok [], setFlash otImage (hbmPeek s i.addr i.len) s)) s)

/-- CAL_STATUS. -/
def execCalStatus (rid : Nat) (s : State) : Host.Outcome State Fault Refusal :=
  .next (serviceRead mbCal 0x080A rid [] (fun s =>
    [rdN s (rCalSlot 0), rdN s (rCalSlot 1), rdN s (rCalSlot 2), rdN s rCalSwitchStat]) s)

/-! ### What an image loads (08 R256-R262, R271) -/

/-- A range brought to the state an image gives it: OPEN in both images keeps its contents, a range coming from OFF reads 0, and
a range taken off loses its bytes (05 R164, R165). -/
def rangeTo (p k : Nat) (on : Bool) (s : State) : State :=
  let st := rangeState s p k
  if on then
    if st = rsOpen then s else if st = rsClosed then setRange p k rsOpen s else setRange p k rsOpen (zeroRange p k s)
  else if st = rsOff then s else setRange p k rsOff (zeroRange p k s)

/-- Every range of a cluster as spm_ranges_on gives it. -/
def rangesTo (p mask : Nat) (s : State) : State := (List.range 12).foldl (fun s k => rangeTo p k (bitAt mask k) s) s

/-- A program block's commands in command memory, timed ones with the switch beat added to their offset (08 R261). -/
def blockWords (s : State) (im l off S : Nat) : List (Nat × Word) :=
  let sched := (schedOf s im).filter (fun e => e.1 == l)
  (List.range (blkCount s im off)).foldl (fun m i =>
    let c := blkCmd s im off i
    let w1 := match sched.find? (fun e => e.2.1 == i) with
      | some e => BitVec.ofNat 64 (S + e.2.2.2)
      | none => c.w1
    let put (m : List (Nat × Word)) (j : Nat) (w : Word) := tabSet (fun _ => 0) m (4 * i + j) w
    put (put (put (put m 0 c.w0) 1 w1) 2 c.w2) 3 c.w3) []

/-- A cluster's program block loaded: command memory, periods, remote semaphores and stream ranges; without one it runs
nothing (08 R255, R259). -/
def loadProgram (im l p S : Nat) (s : State) : State :=
  let blk := (blocksOf s im).find? (fun e => e.1 == l)
  let fw := (cluster s p).streams.filter (fun e => 28 ≤ e.1)
  match blk with
  | none => modCluster p (fun c => { c with cmdMem := [], periods := [], semRemote := 0, streams := fw }) s
  | some (_, off) =>
    let words := blockWords s im l off S
    let periods := ((schedOf s im).filter (fun e => e.1 == l && e.2.2.1 != 0)).foldl (fun m e => tabSet (fun _ => 0) m e.2.1 e.2.2.1) []
    let mine := ((List.range 28).filter (fun st => blkStart s im off st != blkEnd s im off st)).map (fun st =>
      (st, (⟨blkStart s im off st, blkEnd s im off st, [0, 0, 0, 0], [], .none⟩ : Stream)))
    let mask := blkMask s im off
    modCluster p (fun c => { c with cmdMem := words, periods := periods, semRemote := mask, streams := mine ++ fw }) s

/-- Streams 0-27 of a cluster stopped, semaphores 0-55 and loop counters 0 (08 R271). -/
def clearStreams (p : Nat) (s : State) : State :=
  let s := (List.range 28).foldl (fun s st => wr (rClStreamSince p st) 0 (wr (rClStream p st) 0 s)) s
  let s := (List.range 56).foldl (fun s i => wr (rClSem p i) 0 s) s
  modCluster p (fun c => { c with streams := c.streams.map (fun e => (e.1, { e.2 with ctr := [0, 0, 0, 0] })) }) s

/-- Every window of a cluster closed and its accepted accesses carried out (05 R173). -/
def shutWindows (p : Nat) (s : State) : State :=
  let s := drainIngress p ((List.range 64).foldl (fun s w => closeWindow p w s) s)
  (List.range 64).foldl (fun s w => setFld (rClWinA p w) fClWinAState wsClosed s) s

/-- The windows an image gives a cluster: their registers, and those marked OPEN_AT_START opened (08 R257). -/
def loadWindows (im l p : Nat) (s : State) : State :=
  ((windowsOf s im).filter (fun e => e.1 == l)).foldl (fun s e =>
    let w := e.2.1
    let s := wr (rClWinB p w) (BitVec.ofNat 64 e.2.2.2.2 &&& winBRw)
      (wr (rClWinA p w) ((rd s (rClWinA p w) &&& ~~~winARw) ||| (BitVec.ofNat 64 e.2.2.2.1 &&& winARw)) s)
    if bitAt e.2.2.1 0 then setFld (rClWinA p w) fClWinAState wsOpen s else s) s

/-- The streams of a cluster that have a program started (08 R271). -/
def startStreams (p : Nat) (s : State) : State :=
  (cluster s p).streams.foldl (fun s e => if e.1 < 28 ∧ e.2.first < e.2.last then jumpTo p e.1 e.2.first s else s) s

/-- The detour tables in force under an image: its active entries, with those of the set that covers the faulty routers over
them (06 R190-R193; 08 R256). -/
def coveringSet (s : State) (im : Nat) : Option DetourSet :=
  (detourSets s im).find? (fun d => d.covered.all (s.badRouters.contains ·) && s.badRouters.all (d.covered.contains ·))
def detoursUnder (s : State) (im : Nat) : List DetourEntry :=
  let covers := if s.badRouters.isEmpty then [] else ((coveringSet s im).map (·.entries)).getD []
  (activeDetours s im).filter (fun e => !covers.any (fun x => x.1 == e.1 && x.2.1 == e.2.1)) ++ covers

/-- Every router's shadow table written and its commit armed for a beat. -/
def armDetours (es : List DetourEntry) (S : Nat) (s : State) : State :=
  (List.range nClusters).foldl (fun s p =>
    let s := (List.range 32).foldl (fun s e => wr (rClRtrDetour p e) 0 s) s
    let s := (es.filter (fun e => e.1 == p)).foldl (fun s e => wr (rClRtrDetour p e.2.1) (BitVec.ofNat 64 e.2.2) s) s
    setFlds (rClRtrCommit p) [(fClRtrCommitArmed, 1), (fClRtrCommitBeat, S)] s) s

/-- A stack engine's slot table, producers and WORK_CONSERVE (08 R262). -/
def loadEngine (im n : Nat) (s : State) : State :=
  let s := (List.range 8).foldl (fun s i =>
    let w := BitVec.ofNat 64 (engLe s im n (8 * i) 8)
    wr (rMsdSlot n i) w { s with slotTab := tabSet (fun j => regReset (rMsdSlot 0 (j % 8))) s.slotTab (8 * n + i) w }) s
  let s := (List.range 32).foldl (fun s q =>
    { s with producers := tabSet (fun _ => noPhys) s.producers (32 * n + q) (engLe s im n (0x40 + 2 * q) 2) }) s
  setFld (rMsdSlotCtl n) fMsdSlotCtlWorkConserve (engLe s im n 0x80 1 % 2) s

/-- The window generation map written whole (08 R258). -/
def writeGenMap (s : State) : State :=
  match s.genMap with
  | none => s
  | some g => fwWrite g ((List.range nLogical).flatMap (fun l => (List.range 64).map (fun w =>
      BitVec.ofNat 8 (if held s l then fld s (rClWinA (physOf s l) w) fClWinAGen else 0)))) s

/-- A field of an image's FABRIC_RATIOS entry (13 Table 13-1); 0 without one. -/
def ratio (s : State) (im off n : Nat) : Nat := if (imgSection s im stFabric).isSome then secLe s im stFabric 1024 0 off n else 0
/-- Whether an image accepts routed requests. -/
def routedOn (s : State) (im : Nat) : Bool := bitAt (ratio s im 0x35C 4) 1

/-- The fields of FABRIC_RATIOS that take effect at an activation (13 R374): slices, collective rings, routing area; and the
ring a worker opens for its manager (13 R399). -/
def loadRatios (im : Nat) (s : State) : State :=
  let has := (imgSection s im stFabric).isSome
  let s := { s with
    slices := if has then (List.range 16).map (fun j => (ratio s im (0x120 + 32 * j) 2, ratio s im (0x122 + 32 * j) 2)) else []
    collBase := if has then some (ratio s im 0x320 8) else none
    collProd := (List.range 16).foldl (fun m q =>
      tabSet (fun _ => noPhys) m q (if has then ratio s im (0x328 + 2 * q) 2 else noPhys)) []
    routeBase := ratio s im 0x348 8
    routeBytes := ratio s im 0x350 8 }
  let mgr := 3 * 2 ^ 13 + 16 * ownGroup s
  if routedOn s im && ownRole s == 0 && s.routeBytes != 0 && !s.reqRings.any (fun e => e.2.rid == mgr) then
    match (List.range 64).find? (fun r => (look s.reqRings r).isNone),
        ((List.range 11).map (fun i => 16 - i)).find? (fun n => 64 + 64 * 2 ^ n ≤ s.routeBytes / 2) with
    | some r, some n => { s with reqRings := tabPut r ⟨s.routeBase, n, mgr, 0, 0⟩ s.reqRings }
    | _, _ => s
  else s

/-! ### The switch (08 R271-R273, R276) -/

/-- Whether the outgoing image is drained (08 R271). -/
def drainedNow (s : State) : Bool :=
  (List.range nLogical).all (fun l => !held s l ||
    (let c := cluster s (physOf s l)
     c.mat.isEmpty && c.vec.isEmpty && c.signals.isEmpty && c.subs.isEmpty && c.streams.all (fun e => 28 ≤ e.1 || e.2.fence.isNone) &&
       (List.range 60).all (fun x => ctxState s (physOf s l) x == dxIdle))) &&
  (List.range nMsd).all (fun n => (List.range 32).all (fun q =>
    tabGet (fun _ => noPhys) s.producers (32 * n + q) == 0xFFFF || tabGet (fun _ => noPhys) s.producers (32 * n + q) == noPhys ||
      (fld s (rMsdQueue n q) fMsdQueuePending == 0 && (look s.engines (32 * n + q)).isNone))) &&
  !s.reqs.any (·.due)

/-- SWITCH_STOP_BEAT at beat `b`: T is reached. -/
def execSwitchStopBeat (b : Nat) (s : State) : Host.Outcome State Fault Refusal :=
  let s := advanceTo b s
  .next (whenS (swPhase s == 1 && s.stopBeat ≤ s.beat) (setFld rCalSwitchStat fCalSwitchStatPhase 2) s)

/-- SWITCH_DRAINED. -/
def execSwitchDrained (s : State) : Host.Outcome State Fault Refusal :=
  .next (whenS (swPhase s == 2 && drainedNow s) (fun s => { s with drained := true }) s)

/-- A switch aborted before its activation: the outgoing image stays, and staging returns to ADMITTED. -/
def abortSwitch (cause : Nat) (s : State) : State :=
  setFld rCalSwitchStat fCalSwitchStatPhase 0 (aborted cause (setSlot stg slAdmitted s))

/-- A rollback whose target fails its check: the current image stays (08 R276). -/
def refuseRollback (cause : Nat) (s : State) : State :=
  let s := aborted cause s
  let s := if s.autoRoll then rollbackBlocked s else s
  let s := if slotState s 0 = slWatch then endWatch s else s
  setFlds rCalSwitchStat [(fCalSwitchStatPhase, 0), (fCalSwitchStatRollback, 0)] s

/-- Commands that have not begun to execute discarded in every unit: what a rollback does at V (08 R275). -/
def discardQueued (p : Nat) (s : State) : State :=
  let s := (List.range 60).foldl (fun s c => setQueue p c ((ctxQueue s p c).filter (·.started)) s) s
  modCluster p (fun c => { c with
    mat := c.mat.filter (fun j => released j || (queued c).head? == some j), vec := c.vec.take 1, subs := [],
    signals := [], streams := c.streams.map (fun e => (e.1, { e.2 with fence := .none, block := [] })) }) s
/-- An engine queue emptied; a command that executes runs to completion. -/
def emptyQueue (n q : Nat) (s : State) : State :=
  let s := { s with engines := s.engines.map (fun e => if e.1 = 32 * n + q then (e.1, { e.2 with queued := false }) else e) }
  setFlds (rMsdQueue n q) [(fMsdQueueConsumer, producerIdx s n q), (fMsdQueuePending, 0)] s

/-- Every engine queue emptied. -/
def discardEngines (s : State) : State :=
  (List.range nMsd).foldl (fun s n => (List.range 32).foldl (fun s q => emptyQueue n q s) s) s

/-- Whether a move is in progress (08 R273). -/
def moveBusy (s : State) : Bool := !(toMove s).isEmpty || !s.mapChanges.isEmpty

/-- Requests whose streams a switch to image `im` ends, and the prefix sets it frees (08 R271; 10 R315). -/
def carryOver (im : Nat) (s : State) : State :=
  let keep := kvCompat s im
  let s := modReqs (fun r => if placed? r && !keep then endReq erSwitched s.beat r else { r with due := false }) s
  if keep then { s with prefixes := s.prefixes.filter (fun p => s.reqs.any (fun r => r.sets.contains p.set)) }
  else { s with prefixes := [], reqs := s.reqs.map (fun r => if placed? r then { r with sets := [], phase := phReleased, swap := none } else r) }

/-- The activation of the image in slot `im` for beat `S` (08 R271 step 4). -/
def activate (im S : Nat) (s : State) : State :=
  let on := (List.range nLogical).filter (held s)
  let s := on.foldl (fun s l => shutWindows (physOf s l) (clearStreams (physOf s l) s)) s
  let s := on.foldl (fun s l =>
    let p := physOf s l
    setFld (rClArithCtrl p) fClArithCtrlRepro (imgLe s im 0x58 1)
      (rangesTo p (if roleOf s im l = 0 then 0 else rangesOn s im l) (loadProgram im l p S s))) s
  let s := (List.range nMsd).foldl (fun s n => loadEngine im n s) s
  let s := loadRatios im (carryOver im (armDetours (detoursUnder s im) S s))
  let s := writeGenMap { s with genMap := some (imgLe s im 0x48 8) }
  on.foldl (fun s l => loadWindows im l (physOf s l) s) s

/-- SWITCH_ACTIVATION_START at beat `b`: V is reached; `bad` are the companion-memory blobs of a rollback's target whose digest
differs. -/
def execSwitchActivationStart (b : Nat) (bad : List Nat) (s : State) : Host.Outcome State Fault Refusal :=
  let s := advanceTo b s
  .next (whenS ((swPhase s == 1 || swPhase s == 2) && s.actBeat ≤ s.beat) (fun s =>
    let im := swSource s
    let S := rdN s rCalSwitchBeat
    let vacant := (placed s im).any (fun l => !held s l)
    let go (s : State) : State := setFld rCalSwitchStat fCalSwitchStatPhase 3 (activate im S s)
    if swRollback s then
      if (blobFault s im bad).isSome then refuseRollback 0x26 s
      else if vacant then refuseRollback 0x1F s
      else go (discardEngines ((List.range nLogical).foldl (fun s l => if held s l then discardQueued (physOf s l) s else s) s))
    else if moveBusy s then abortSwitch sxSpareMove s
    else if vacant then abortSwitch 0x1F s
    else if imageActive s && !s.drained && !drainedNow s then abortSwitch sxSwitchLate s
    else go s) s)

/-- Slots at the switch beat (08 R268, R275). -/
def moveSlots (rollback : Bool) (s : State) : State :=
  let put (i from_ st : Nat) (t s : State) : State :=
    match look t.images from_ with
    | none => emptySlot i s
    | some x => setFlds (rCalSlot i) [(fCalSlotState, st), (fCalSlotGen, fld t (rCalSlot from_) fCalSlotGen)]
        { s with images := tabPut i x s.images }
  if rollback then
    setFld rCalSwitchStat fCalSwitchStatRejectedGen (fld s (rCalSlot 0) fCalSlotGen) (emptySlot 1 (put 0 1 slActive s s))
  else
    let first := !imageActive s
    let t := s
    emptySlot stg (put 0 stg (if first then slActive else slWatch) t (if first then emptySlot 1 s else put 1 0 slPrevious t s))

/-- What an image in the active slot starts with: the faults it clears, ROUTE_UNCOVERED where no set covers the routers held DOWN (15
R448), its measurement (17 R499), its watch. -/
def enterActive (rollback : Bool) (S : Nat) (s : State) : State :=
  let s := match look s.images 0 with
    | some i => measureIn (if fld s rModStatus fModStatusReady = 1 then 9 else 8) (headerAt s i.addr) s
    | none => s
  let uncovered := !s.badRouters.isEmpty && (coveringSet s 0).isNone
  let s := setFlds rBruFault [(fBruFaultRollbackBlocked, 0),
    (fBruFaultBlobBad, if rollback then fld s rBruFault fBruFaultBlobBad else 0),
    (fBruFaultNoSpare, if vacantRole s then fld s rBruFault fBruFaultNoSpare else 0),
    (fBruFaultRouteUncovered, bit uncovered)] s
  let s := if uncovered then addRecord { mkRecord 5 1 (s.badRouters.getD 0 0) 0x10 0 with action := 7 } s else s
  let s := applyPower { s with lateSince := 0, steps := 0 }
  let s := setFlds rCalSwitchStat ([(fCalSwitchStatPhase, 0), (fCalSwitchStatOutcome, 0), (fCalSwitchStatRollback, 0)] ++
    (if rollback then [] else [(fCalSwitchStatHealthBit, 0)])) s
  updStatus (wr rCalWatchEnd (if slotState s 0 = slWatch then BitVec.ofNat 64 (S + watchBeats s 0) else 0) s)

/-- Whether a cluster's units are still executing. -/
def stillRuns (s : State) (p : Nat) : Bool :=
  let c := cluster s p
  !c.mat.isEmpty || !c.vec.isEmpty || !c.ctx.isEmpty

/-- SWITCH_BEAT at beat `b`: S is reached (08 R271 step 5, R275). -/
def execSwitchBeat (b : Nat) (s : State) : Host.Outcome State Fault Refusal :=
  let s := advanceTo b s
  .next (whenS (swPhase s == 3 && rdN s rCalSwitchBeat ≤ s.beat) (fun s =>
    let rollback := swRollback s
    let S := rdN s rCalSwitchBeat
    let on := ((List.range nLogical).filter (held s)).map (physOf s)
    let s := (List.range nClusters).foldl (fun s p =>
      if fld s (rClRtrCommit p) fClRtrCommitArmed = 1 ∧ fld s (rClRtrCommit p) fClRtrCommitBeat ≤ S then commitDetour p s else s) s
    let s := on.foldl (fun s p => if rollback && stillRuns s p then fenceCluster p s else startStreams p s) s
    enterActive rollback S (moveSlots rollback s)) s)

end Sys2Proof.Machine
end

