-- ==== Sys2Proof/Machine/Link.lean ====
section
/-! DEFINITION. Serica Link's ports: training, INIT and bonds (12 R337, R341, R356), loss of a port (R338, R342, R357, R358),
detaching and attaching (R359, R364). -/
namespace Sys2Proof.Machine

/-! ### Training and INIT (12 R337, R341) -/

/-- A port's lanes and rate as trained. -/
def setLanes (p width rate reversed : Nat) (s : State) : State :=
  setFlds (rSerPort p) [(fSerPortWidth, width), (fSerPortRate, rate), (fSerPortReversed, reversed)] s

def setPortState (p x : Nat) (s : State) : State := setFld (rSerPort p) fSerPortState x s

/-- Whether a port trains: it is DOWN without HOLD, or has been attached (12 R359). -/
def trains (s : State) (p : Nat) : Bool :=
  (portState s p == psDown && fld s (rSerPortCtl p) fSerPortCtlHold == 0) || portState s p == psTraining

/-- SER_PORT_TRAIN: lanes `width` (Table 12-10) reach L0 and the part's INIT goes out; a port that reaches neither x8 stays DOWN. -/
def execSerPortTrain (port width rate reversed : Nat) (s : State) : Host.Outcome State Fault Refusal :=
  onUnit port 2 s (fun s => whenS (trains s port) (fun s =>
    if width = 0 then setPortState port psDown (setLanes port 0 0 0 s)
    else
      let s := setPortState port psInit (setLanes port width rate reversed s)
      let s := { s with initSent := if s.initSent.contains port then s.initSent else port :: s.initSent }
      send .serica port [0xF, 1, 0, partSerial, 1024, 256, 4096] [] s) s)

/-- The other port. -/
def other (p : Nat) : Nat := 1 - p

def setBonded (x : Nat) (s : State) : State := setFld (rSerPort 1) fSerPortBonded x (setFld (rSerPort 0) fSerPortBonded x s)

/-- Agent `a` known as agent `b` in the snoop filter. -/
def renameAgent (a b : Nat) (s : State) : State :=
  updFilterHeld { s with
    filter := s.filter.map (fun e => { e with holders := (e.holders.map (fun h => if h = a then b else h)).eraseDups }),
    home := s.home.map (fun t => { t with pend := t.pend.map (fun h => if h = a then b else h),
                                          evict := t.evict.map (fun h => if h = a then b else h) }) }

/-- A bond made, kept or ended by the node identities of the ports' companions (12 R356): a bond is agent 0. -/
def setBond (p : Nat) (s : State) : State :=
  let q := other p
  if (look s.serNode q).isSome ∧ look s.serNode q = look s.serNode p then
    if bonded s p then s else renameAgent 1 0 (setBonded 1 s)
  else if !bonded s p then s
  else
    let s := setBonded 0 (renameAgent 0 q s)
    { s with cache := s.cache.map (fun c => { c with port := q }) }

/-- SER_INIT_FLIT: the companion's INIT with its version, flags, node identity and initial credits. -/
def execSerInitFlit (port version flags node req snp data : Nat) (s : State) : Host.Outcome State Fault Refusal :=
  onUnit port 2 s (fun s => whenS (portState s port == psInit && s.initSent.contains port) (fun s =>
    if version ≠ 1 ∨ req < 128 ∨ snp < 128 ∨ data < 512 then serErr port seInit s
    else
      let s := { s with serNode := tabPut port node s.serNode }
      let s := setFlds (rSerPort port) [(fSerPortState, psUp), (fSerPortNoCache, flags % 2)] s
      setBond port s) s)

/-! ### Loss of a port (12 R338, R342, R357, R358) -/

/-- A bonded port lost: what was outstanding on it goes out again on the other port under the same tags; filter and cache stay. -/
def loseBonded (p : Nat) (s : State) : State :=
  let q := other p
  let mine := s.serReqs.filter (fun r => r.port == p)
  let snoops := s.home.filter (fun t => t.started && t.pend.contains 0 && (t.line / 64 + t.line) % 2 == p)
  let s := { s with serReqs := s.serReqs.filter (fun r => r.port != p),
                    serWait := s.serWait.map (fun r => { r with port := q }) }
  let s := mine.foldl (fun s r =>
    if tagUsed s q r.tag then { s with serWait := { r with port := q } :: s.serWait } else serIssue { r with port := q } s) s
  snoops.foldl (fun s t => serSend q 2 (if t.share then 0x31 else 0x30) t.tag 0 0 t.line [] s) (updOutstanding s)

/-- Answer rings in the memory of the companion on a port that is not bonded. -/
def ringsOn (s : State) (p : Nat) : List Nat :=
  if companionPort s 0 = p then (s.ansRings.filter (fun e => companionBase ≤ e.2.base)).map (·.1) else []

/-- An agent's copies gone: its entries are cleared, lines held in E set LOST_LINE, and nothing waits for it any more. -/
def loseAgent (p x : Nat) (s : State) : State :=
  let lost := s.filter.filter (fun e => e.excl && e.holders.contains x)
  let s := lost.foldl (fun s _ => serErr p seLost s) s
  let s := updFilterHeld { s with
    filter := (s.filter.map (fun e =>
      { e with holders := e.holders.filter (· != x), excl := e.excl && !e.holders.contains x })).filter (fun e => !e.holders.isEmpty),
    home := (s.home.filter (fun t => !(t.port < 2 && agentOf s t.port == x))).map (fun t =>
      { t with pend := t.pend.filter (· != x), evict := t.evict.filter (· != x) }) }
  homeRun s

/-- The lines of a companion's memory dropped from the cache, a dirty one setting LOST_LINE. -/
def loseCache (p : Nat) (mine : CacheLine → Bool) (s : State) : State :=
  let dirty := s.cache.filter (fun c => mine c && c.state == 3)
  dirty.foldl (fun s _ => serErr p seLost s)
    { s with cache := s.cache.filter (fun c => !mine c), uncached := s.uncached.filter (fun c => !mine c) }

/-- Answer rings closed with their companion: requests that name them are to end with CANCELLED at the next boundary. -/
def loseRings (rings : List Nat) (s : State) : State :=
  modReqs (fun r => if rings.contains r.ans && !fromManager s r.ring then { r with cancel := true } else r)
    { s with ansRings := s.ansRings.filter (fun e => !rings.contains e.1),
             ansPend := s.ansPend.filter (fun e => !rings.contains e.1) }

/-- The only port of a companion lost. -/
def loseSingle (p : Nat) (s : State) : State :=
  let x := agentOf s p
  let b := bonded s p
  let rings := if b then ringsOn s 0 ++ ringsOn s 1 else ringsOn s p
  let mine (port : Nat) : Bool := b || port == p
  let gone := (s.serReqs ++ s.serWait).filter (fun r => mine r.port)
  let s := setPortState p psDown s
  let s := { s with serReqs := s.serReqs.filter (fun r => !mine r.port), serWait := s.serWait.filter (fun r => !mine r.port) }
  let s := gone.foldl (fun s r => reqFailed r s) (updOutstanding s)
  let s := loseAgent p x s
  let s := loseCache p (fun c => mine c.port) s
  let s := loseRings rings s
  if b then setBonded 0 s else s

/-- A port goes DOWN: LINK_DOWN, a fault report, and R357 or R358. A bond whose other port is not up is lost as a single port. -/
def serPortDown (p : Nat) (s : State) : State :=
  let covered := bonded s p && portLive s (other p)
  let s := if covered then loseBonded p (setPortState p psDown s) else loseSingle p s
  let s := setFlds (rSerPort p) [(fSerPortWidth, 0), (fSerPortRate, 0), (fSerPortReversed, 0), (fSerPortNoCache, 0)] s
  let s := { s with serNode := tabDel p s.serNode, initSent := s.initSent.filter (· != p) }
  addRecord (mkRecord (if covered then 2 else 5) 6 p 0xB 0) (serErr p seLinkDown s)

/-- Whether a port's link runs. -/
def linkRuns (s : State) (p : Nat) : Bool := portLive s p || portState s p == psInit

/-- SER_PORT_DOWN. -/
def execSerPortDown (port : Nat) (s : State) : Host.Outcome State Fault Refusal :=
  onUnit port 2 s (fun s => whenS (linkRuns s port) (serPortDown port) s)

/-- SER_PROTOCOL_ERROR. -/
def execSerProtocolError (port : Nat) (s : State) : Host.Outcome State Fault Refusal :=
  onUnit port 2 s (fun s => whenS (linkRuns s port) (fun s => serPortDown port (serErr port seProto s)) s)

/-! ### DETACH and ATTACH (12 R359, R364) -/

def serRingBusy : Nat := 0x68

/-- Whether answer rings in a port's companion memory name live requests. -/
def ringsLive (s : State) (p : Nat) : Bool :=
  (if bonded s p then ringsOn s 0 ++ ringsOn s 1 else ringsOn s p).any (fun a => namesAns s a)

/-- Step 2 of R359: every line of the agent snooped out, and the companion-line cache emptied of its memory. -/
def flushPort (p : Nat) (s : State) : State :=
  let s := (s.cache.filter (fun c => c.port == p)).foldl (fun s c => cacheLeave c s) s
  let s := { s with cache := s.cache.filter (fun c => c.port != p) }
  (s.filter.filter (fun e => e.holders.contains (agentOf s p))).foldl (fun s e =>
    homePut ⟨2, 0, soDrop, e.line, agentOf s p, [], false, false, [], [], false, none⟩ s) s

/-- Whether nothing is outstanding on a port in either direction (12 R359). -/
def portQuiet (s : State) (p : Nat) : Bool :=
  !(s.serReqs ++ s.serWait).any (fun r => r.port == p) &&
  !s.home.any (fun t => t.port == p || (if bonded s p then t.pend.contains 0 && (t.line / 64 + t.line) % 2 == p
    else t.pend.contains p || t.evict.contains p || (t.op == soDrop && t.off == p)))

/-- A quiet DETACHING port held in reset. -/
def detachQuiet (p : Nat) (s : State) : State :=
  if portState s p = psDetaching ∧ portQuiet s p then
    { setFlds (rSerPort p) [(fSerPortState, psDetached), (fSerPortWidth, 0), (fSerPortRate, 0), (fSerPortReversed, 0),
        (fSerPortNoCache, 0)] s with
      serNode := tabDel p s.serNode, initSent := s.initSent.filter (· != p) }
  else s

/-- Whether a DETACH has come to its end, and its status; the state is the one after it. -/
def detachPoll (p : Nat) (s : State) : Option (Nat × List Nat) × State :=
  let s := detachQuiet p s
  (if portState s p = psDown ∨ portState s p = psDetached then some (stOk, []) else none, s)

/-- DETACH. -/
def execDetach (rid p : Nat) (s : State) : Host.Outcome State Fault Refusal :=
  .next (service mbSer 0x0C02 rid [p] (fun s =>
    if 2 ≤ p then (.done stBadArg [], s)
    else if portState s p = psDown ∨ portState s p = psDetached then (ok [], s)
    else if ringsLive s p then (.done serRingBusy [], s)
    else
      let s := if portLive s p && !bonded s p then flushPort p s else s
      match detachPoll p (setPortState p psDetaching s) with
      | (some r, s) => (.done r.1 r.2, s)
      | (none, s) => (.runs [], s)) s)

/-- ATTACH: a DETACHED port trains again. -/
def execAttach (rid p : Nat) (s : State) : Host.Outcome State Fault Refusal :=
  .next (service mbSer 0x0C03 rid [p] (fun s =>
    if 2 ≤ p then (.done stBadArg [], s)
    else if portState s p = psUp then (ok [], s)
    else (.runs [], if portState s p = psDetached then setPortState p psTraining s else s)) s)

/-- ATTACH_TIMEOUT at beat `b`: 100 ms after ATTACH the port is not UP. -/
def execAttachTimeout (b : Nat) (s : State) : Host.Outcome State Fault Refusal :=
  .next (
    let s := advanceTo b s
    match look s.calls mbSer with
    | none => s
    | some c =>
      if c.code = 0x0C03 ∧ c.beat + 100000000 ≤ s.beat ∧ portState s (c.args.getD 0 0) ≠ psUp then endCall mbSer erTimeout [] s
      else s)

end Sys2Proof.Machine
end

