-- ==== Sys2Proof/Machine/Recover.lean ====
section
/-! DEFINITION. Recovery (15): fault reports and what they start (R451, R456, R460), moves (R452, R453), step replay (R454, R455),
trials (R457-R459), and the field defect map (R446, R447). -/
namespace Sys2Proof.Machine

/-! ### Failed clusters (15 R450, R451, R460) -/

/-- CLASS of BRU.CL: 0 none, 1 TRANSIENT, 2 PERMANENT. -/
def setClass (p x : Nat) (s : State) : State := setFld (rBruCl p) fBruClClass x s

/-- Whether a cluster takes part in service: it holds a number or observes one. -/
def serves (s : State) (p : Nat) : Bool :=
  clState s p == csServing || clState s p == csSuspect || clState s p == csMovingIn

/-- A unit noted for the self-tests of the next warm start (15 R444). -/
def noteSuspect (p : Nat) (s : State) : State := { s with suspects := if s.suspects.contains p then s.suspects else p :: s.suspects }

/-- A fault recorded, and waiting for its replay where the cluster served. -/
def recordFault (stalls : Bool) (r : Record) (s : State) : State :=
  let s := addRecord r s
  if stalls then { s with stalled := s.nRecords :: s.stalled } else s

/-- A cluster declared failed for good: recorded, and fenced; a spare is FENCED too, a BAD one stays BAD. -/
def clusterFailed (p cause unitCause : Nat) (s : State) : State :=
  if clState s p = csBad ∨ clState s p = csFenced then s
  else
    let served := serves s p
    let s := recordFault served { mkRecord 3 0 p cause unitCause with
      logical := logicalOf s p, action := if served then (if sparesLeft s = 0 then 2 else 1) else 0 } s
    let s := setClass p 2 (noteSuspect p s)
    if served then updStatus (fenceCluster p s) else updStatus (setClState p csFenced (stopCluster p s))

/-- An abort attributed to a cluster's hardware (15 R460): a second one in the step that is replayed, or one of a cluster under
observation, is permanent. -/
def clusterAbort (p cause unitCause : Nat) (s : State) : State :=
  if s.aborted.contains p ∨ clState s p = csSuspect then clusterFailed p cause unitCause s
  else
    let s := recordFault true { mkRecord 2 0 p cause unitCause with logical := logicalOf s p } s
    setClass p 1 { s with aborted := p :: s.aborted }

/-- A cluster put under observation (15 R459, R460). -/
def observe (p : Nat) (s : State) : State :=
  let s := setFld (rBruCl p) fBruClTrials 0 (setClass p 1 s)
  if clState s p = csServing then setClState p csSuspect s else s

/-- A router found faulty (06 R192, R193): its detour set, or ROUTE_UNCOVERED where no set covers every faulty router; its cluster
is fenced for the move. -/
def routerFailed (p : Nat) (s : State) : State :=
  if s.badRouters.contains p then s
  else
    let served := serves s p
    let s := recordFault served { mkRecord 3 1 p 5 0 with logical := logicalOf s p, action := if served then 1 else 0 } s
    let s := { s with badRouters := s.badRouters ++ [p] }
    let s := if clState s p = csBad ∨ clState s p = csFenced then s
      else if served then fenceCluster p s else setClState p csFenced (stopCluster p s)
    let s := setClass p 2 (noteSuspect p s)
    if !imageActive s then updStatus s
    else if (coveringSet s 0).isSome then updStatus (armDetours (detoursUnder s 0) s.beat s)
    else updStatus (addRecord { mkRecord 5 1 p 0x10 0 with action := 7 } (setFld rBruFault fBruFaultRouteUncovered 1 s))

/-- The recovery a fault report starts, by the kind of its unit and its cause (Table 15-6). A report with no recovery of its own
is recorded. -/
def faultRecovery (kind unit cause unitCause : Nat) (s : State) : State :=
  match kind with
  | 0 =>
    if nClusters ≤ unit then s
    else if cause = 0 then whenS (clState s unit == csServing) (fun s =>
      observe unit (addRecord { mkRecord 1 0 unit 2 unitCause with logical := logicalOf s unit, action := 3 } s)) s
    else if cause = 2 ∨ cause = 3 then whenS (serves s unit) (clusterAbort unit cause unitCause) s
    else clusterFailed unit cause unitCause s
  | 1 => if unit < nClusters then routerFailed unit s else s
  | 2 => if unit < nGal then whenS (galState s unit != gsDark) (darken unit unitCause) s else s
  | 4 => if unit < nMsd then failMsd unit s else s
  | 6 => if unit < 2 then whenS (linkRuns s unit) (serPortDown unit) s else s
  | _ => addRecord (mkRecord 3 kind unit cause unitCause) s

/-- FAULT_REPORT at beat `b`: unit kind and unit of Table 15-8, cause of Table 15-9 (0 for a cluster whose corrected errors have
risen by more than 1,024 within 1 s, R460), and the unit's own code. -/
def execFaultReport (kind unit cause unitCause b : Nat) (s : State) : Host.Outcome State Fault Refusal :=
  .next (faultRecovery kind unit cause unitCause (advanceTo b s))

/-- CTRL_POLL of gallery `g` at beat `b`: bit i of `answers` says whether controller i answers. Ten polls in a row without an
answer are the cluster's fault. -/
def execCtrlPoll (g answers b : Nat) (s : State) : Host.Outcome State Fault Refusal :=
  onUnit g nGal s (fun s =>
    ((clustersOf g).zip (List.range 6)).foldl (fun s e =>
      let p := e.1
      if !inService s p || bitAt answers e.2 then { s with silent := tabDel p s.silent }
      else
        let n := (look s.silent p).getD 0 + 1
        if n < 10 then { s with silent := tabPut p n s.silent }
        else clusterFailed p 4 0 { s with silent := tabDel p s.silent }) (advanceTo b s))

/-! ### Moves (08 R265; 15 R452, R456) -/

/-- Whether a cluster is a good spare: in STANDBY, with no defect record pending, in a gallery that is not
DARK and not on its way to a heat park (14 R437). -/
def goodSpare (s : State) (p : Nat) : Bool :=
  clState s p == csStandby && fld s (rBruCl p) fBruClPending == 0 && galState s (galleryOf p) != gsDark &&
    !s.parking.contains (galleryOf p)

/-- The candidates of a plan of the active image: that of a number, or the default plan at 0xFFFF. -/
def planOf (s : State) (l : Nat) : List Nat :=
  if !imageActive s then []
  else match (List.range (secCount s 0 stSpares)).find? (fun i => secLe s 0 stSpares 32 i 0 2 == l) with
    | none => []
    | some i => (List.range (min 8 (secLe s 0 stSpares 32 i 2 1))).map (fun j => secLe s 0 stSpares 32 i (8 + 2 * j) 2)

/-- The spare that a number moves onto: its plan, the default plan, then the lowest serial (08 R265). -/
def spareFor (s : State) (l : Nat) : Option Nat :=
  (planOf s l ++ planOf s 0xFFFF ++ List.range nClusters).find? (goodSpare s)

/-- A gallery asks for power (14 R435). -/
def askPower (g : Nat) (s : State) : State :=
  if galState s g = gsParked ∨ galState s g = gsDark then
    { setGal g gsWaiting 0 s with galAsked := tabPut g s.beat s.galAsked, ramped := s.ramped.filter (· != g) }
  else s

/-- A spare that fails its trial is BAD (15 R452). -/
def spareBad (p : Nat) (s : State) : State :=
  let s := addRecord (mkRecord 3 0 p 1 0) (setClass p 2 (noteSuspect p s))
  updStatus (setClState p csBad s)

/-- The generations with which a spare's windows start: one more than the last of the same window, as mirrored (05 R177; 15
R452). -/
def startWindows (l p : Nat) (s : State) : State :=
  (List.range 64).foldl (fun s w =>
    let k := rBruGenMirror ((64 * l + w) / 8)
    let g := (fld s k ⟨8 * (w % 8), 8⟩ + 1) % 256
    let s := setFld k ⟨8 * (w % 8), 8⟩ g s
    setFlds (rClWinA p w) [(fClWinAGen, g), (fClWinAState, wsClosed)] s) s

/-- A spare takes a number over for the map change at beat `at_`: MOVING_IN, its ranges, program block, windows and frequency. -/
def moveOnto (l h p at_ : Nat) (s : State) : State :=
  let s := setFld (rBruCl p) fBruClLogical l (setClState p csMovingIn s)
  let s := if imageActive s then
      let rb := (s.replay.map (·.2)).getD s.relaunched
      setFld (rClArithCtrl p) fClArithCtrlRepro (imgLe s 0 0x58 1)
        (rangesTo p (if roleOf s 0 l = 0 then 0 else rangesOn s 0 l) (loadProgram 0 l p rb s))
    else s
  let s := followFset l h p (startWindows l p s)
  { s with mapChanges := s.mapChanges ++ [⟨l, p, at_⟩] }

/-- A number left vacant (15 R456). -/
def vacate (l b : Nat) (s : State) : State :=
  let role := imageActive s && roleOf s 0 l != 0
  let s := applyMapChange ⟨l, noPhys, b⟩ s
  let s := setFld rBruFault fBruFaultNoSpare 1 s
  let s := addRecord { mkRecord (if role then 5 else 3) 9 0 0x13 0 with logical := l, action := 2 } s
  if role then setFld rSvcAdmitCtl fSvcAdmitCtlAdmit 0 s else s

/-- A move of number `l` off its fenced holder (15 R452 steps 2 to 6): the first spare whose trial passes, those in `fails`
failing theirs; a spare in a parked gallery asks for power first, and the move waits. -/
def moveOff (l at_ : Nat) (fails : List Nat) : Nat → State → State
  | 0, s => s
  | fuel + 1, s =>
    match spareFor s l with
    | none => vacate l s.beat s
    | some p =>
      let g := galleryOf p
      if galState s g = gsParked then askPower g s
      else if 1 < galState s g then s
      else if fails.contains p then moveOff l at_ fails fuel (spareBad p s)
      else moveOnto l (physOf s l) p at_ s

/-- Whether a move of a number is under way already. -/
def inMove (s : State) (l : Nat) : Bool := s.mapChanges.any (fun m => m.logical == l)

/-- Whether the batcher stands between two steps. -/
def atBoundary (s : State) : Bool := !s.reqs.any (·.due)

/-- Whether a FENCE_MOVE call waits for the move of a number (15 R463). -/
def fenceMoveOf (s : State) (l : Nat) : Bool :=
  (look s.calls mbBru).any (fun c => c.code == 0x1103 && c.args.getD 0 nLogical == l && c.keep.getD 0 noPhys == physOf s l)

/-- MOVE of number `l` at beat `b`, its map change named for beat `at_`; `fails` are the spares whose trial fails. A move that
FENCE_MOVE asks for fences the holder at a step boundary; any other needs a holder that is fenced. -/
def execMove (l at_ : Nat) (fails : List Nat) (b : Nat) (s : State) : Host.Outcome State Fault Refusal :=
  onUnit l nLogical s (fun s =>
    let s := advanceTo b s
    if !held s l || inMove s l || at_ < s.beat then s
    else if moving s l then moveOff l at_ fails 865 s
    else if fenceMoveOf s l && atBoundary s && serves s (physOf s l) then
      moveOff l at_ fails 865 (updStatus (fenceCluster (physOf s l) s))
    else s)

/-! ### Step replay (15 R454, R455) -/

/-- Queues of the image's engines: those a producer is named for. -/
def imageQueue (s : State) (n q : Nat) : Bool := tabGet (fun _ => noPhys) s.producers (32 * n + q) != noPhys

/-- The stop of a cluster: nothing launches, queued commands are discarded, contexts 0-59 emptied and out of ERROR. -/
def replayStop (p : Nat) (s : State) : State :=
  let s := discardQueued p (clearStreams p s)
  (List.range 60).foldl (fun s c =>
    if ctxState s p c = dxError then
      setFlds (rClDmaCtx p c) [(fClDmaCtxState, if (ctxQueue s p c).isEmpty then dxIdle else dxActive), (fClDmaCtxCause, 0),
        (fClDmaCtxDoneBytes, 0)] s
    else s) s

/-- The stop of the image's engine queues. -/
def replayQueues (s : State) : State :=
  (List.range nMsd).foldl (fun s n => (List.range 32).foldl (fun s q =>
    if imageQueue s n q then
      setFlds (rMsdQueue n q) [(fMsdQueueState, if (engOf s n q).isNone then qsIdle else qsActive), (fMsdQueueCause, 0)] (emptyQueue n q s)
    else s) s) s

/-- The windows of the image closed, and its OPEN_AT_START windows reopened. -/
def replayWindows (l p : Nat) (s : State) : State :=
  let s := shutWindows p s
  ((windowsOf s 0).filter (fun e => e.1 == l && bitAt e.2.2.1 0)).foldl (fun s e => setFld (rClWinA p e.2.1) fClWinAState wsOpen s) s

/-- Logical numbers whose holders run. -/
def runningNumbers (s : State) : List Nat := (List.range nLogical).filter (fun l => held s l && serves s (physOf s l))

/-- A step replay started, for the replay beat `rb`. -/
def startReplay (rb : Nat) (s : State) : State :=
  let ls := runningNumbers s
  let s := ls.foldl (fun s l => replayStop (physOf s l) s) s
  let s := replayQueues s
  let s := ls.foldl (fun s l => replayWindows l (physOf s l) s) s
  let s := writeGenMap s
  let s := ls.foldl (fun s l => loadProgram 0 l (physOf s l) rb s) s
  { s with replay := some (s.beat, rb) }

/-- The latest beat a replay may name: 2,000,000 beats after the last move (15 R454). -/
def replayBound (s : State) : Nat := s.mapChanges.foldl (fun m c => max m c.beat) s.beat + 2000000

/-- STEP_REPLAY at beat `b`, with the replay beat `rb` that firmware chooses. -/
def execStepReplay (rb b : Nat) (s : State) : Host.Outcome State Fault Refusal :=
  let s := advanceTo b s
  .next (whenS (imageActive s && s.beat ≤ rb && rb ≤ replayBound s) (startReplay rb) s)

/-- REPLAY_STOP_TIMEOUT at beat `b`: a cluster still executing 1 ms after the stop is fenced. -/
def execReplayStopTimeout (b : Nat) (s : State) : Host.Outcome State Fault Refusal :=
  let s := advanceTo b s
  .next (match s.replay with
    | none => s
    | some (stop, _) =>
      if s.beat < stop + 1000000 then s
      else ((List.range nClusters).filter (fun p => serves s p && stillRuns s p)).foldl (fun s p => clusterFailed p 0 0 s) s)

/-- The smallest SCHEDULE offset: how long after the replay beat the step is launched again (15 R455). -/
def relaunchOffset (s : State) : Nat :=
  ((schedOf s 0).map (fun e => e.2.2.2)).foldl (fun m o => match m with | none => some o | some x => some (min x o)) none |>.getD 0

/-- The records of faults that waited for the relaunch: their measured stall and one replay more. -/
def noteStalls (at_ : Nat) (s : State) : State :=
  let upd (r : Record) : Record :=
    if s.stalled.contains r.num then { r with stallUs := (at_ - r.beat) / 1000, replays := r.replays + 1 } else r
  { s with records := s.records.map upd, faultLog := s.faultLog.map upd, stalled := [] }

/-- REPLAY_RESTART at beat `b`: the replay beat is reached and no move is under way: streams start, and every answer stream goes
on after its last committed token. -/
def execReplayRestart (b : Nat) (s : State) : Host.Outcome State Fault Refusal :=
  let s := advanceTo b s
  .next (match s.replay with
    | none => s
    | some (_, rb) =>
      if s.beat < rb ∨ moveBusy s ∨ !imageActive s then s
      else
        let ls := runningNumbers s
        let s := ls.foldl (fun s l => startStreams (physOf s l) (loadProgram 0 l (physOf s l) rb s)) s
        let s := ls.foldl (fun s l => replayWindows l (physOf s l) s) s
        let s := modReqs (fun r => if r.phase == phDecode && r.ended == 0 && !paused s r then { r with due := true } else r) s
        { noteStalls (rb + relaunchOffset s) s with replay := none, relaunched := rb })

/-! ### Trials (15 R457-R460) -/

/-- The trial area (15 R457). -/
def trialArea : Nat := 0x17C0000
def trialBytes : Nat := 0x40000

/-- Bytes of no stated value written from an offset on (log 5). -/
def freeBytes (p o : Nat) : Nat → State → State
  | 0, s => s
  | n + 1, s =>
    let (v, s) := takeFree 8 s
    freeBytes p (o + 1) n (spmWrite p o [BitVec.ofNat 8 v] s)

/-- What the march leaves in the trial area: with B11 OPEN it is saved and restored; a CLOSED range is tested with no save, and
what it then holds is not stated (15 R458). -/
def marched (p : Nat) (s : State) : State :=
  if rangeState s p 11 = rsClosed then freeBytes p trialArea trialBytes s else s

/-- A trial's result on a cluster: `first` and `again` say whether the trial and its repeat pass. It answers 0 pass, 1 TRANSIENT,
2 PERMANENT. -/
def trial (p : Nat) (first again : Bool) (s : State) : Nat × State :=
  let s := marched p s
  let k := rBruCl p
  if first then
    let n := min 0xFFFF (fld s k fBruClTrials + 1)
    let s := setFld k fBruClTrials n s
    (0, if clState s p = csSuspect ∧ 300 ≤ n then setClass p 0 (setClState p csServing s) else s)
  else
    let s := noteSuspect p s
    if again && clState s p != csSuspect then
      (1, observe p (addRecord { mkRecord 2 0 p 1 0 with logical := logicalOf s p, action := 3 } s))
    else (2, clusterFailed p 1 0 s)

/-- Whether a cluster can run a trial: SERVING, SUSPECT or STANDBY in a gallery that is ON; a move that takes it wins. -/
def trialOk (s : State) (p : Nat) : Bool :=
  (clState s p == csServing || clState s p == csSuspect || clState s p == csStandby) && galClocked s (galleryOf p)

/-- TRIAL_RUN at beat `b`. -/
def execTrialRun (p : Nat) (first again : Bool) (b : Nat) (s : State) : Host.Outcome State Fault Refusal :=
  onUnit p nClusters s (fun s =>
    let s := advanceTo b s
    whenS (trialOk s p) (fun s => (trial p first again s).2) s)

/-- TRIAL: the service runs a trial at once; BAD_ARG for a cluster that is BAD or FENCED. -/
def execTrialService (rid p : Nat) (first again : Bool) (s : State) : Host.Outcome State Fault Refusal :=
  .next (service mbBru 0x1104 rid [p] (fun s =>
    if nClusters ≤ p ∨ clState s p = csBad ∨ clState s p = csFenced then (.done stBadArg [], s)
    else if !trialOk s p then (.done stBadArg [], s)
    else
      let (r, s) := trial p first again s
      (ok [r], s)) s)

/-! ### The field defect map (15 R446, R447) -/

/-- A record of the map: type, unit, index, data (Table 15-3). -/
structure Defect where
  type : Nat
  unit : Nat
  index : Nat
  data : Nat
deriving DecidableEq, Repr

/-- The records of a map. -/
def defectsOf (m : List Byte) : List Defect :=
  (List.range (leAt 6 2 m)).map (fun i =>
    let o := 0x40 + 16 * i
    ⟨leAt o 1 m, leAt (o + 2) 2 m, leAt (o + 4) 4 m, leAt (o + 8) 8 m⟩)

/-- Whether a record's fields lie in their ranges (Table 15-4). -/
def defectOk (d : Defect) : Bool :=
  match d.type with
  | 1 => d.unit < nClusters && d.index == 0 && d.data == 0
  | 2 => d.unit < nClusters && d.index / 4096 < 96 && d.data == 0
  | 3 => d.unit < nClusters && d.index == 0 && d.data < 128
  | 4 => d.unit < nGal && d.index < 16 && d.data == 0
  | 5 => d.unit < nMsd && d.data == 0
  | 6 => d.unit < 18 && d.index < 8 && d.data == 0
  | 7 => d.unit < 2 && d.index < 16 && d.data == 0
  | 8 => d.unit < nClusters && d.index == 0 && d.data < 65536
  | _ => false

/-- Whether a map is well formed. -/
def mapOk (m : List Byte) : Bool :=
  let n := leAt 6 2 m
  leAt 0 4 m == 0x50414D44 && leAt 4 2 m == 1 && n ≤ 4096 && 0 < leAt 8 4 m && leAt 12 4 m == 0 &&
    (m.drop 0x18).take 40 == List.replicate 40 0 && m.length == 0x40 + 16 * n &&
    (List.range n).all (fun i => leAt (0x41 + 16 * i) 1 m == 0) && (defectsOf m).all defectOk

/-- The map in flash; empty where there is none. -/
def defectMap (s : State) : List Byte := ohPayload (flashObj s otDefects)

/-- Ports of a router held DOWN (15 R448). -/
def holdPorts (p mask : Nat) (s : State) : State := (bitsOf 7 mask).foldl (fun s k => portDown p k s) s

/-- A record of a new map (15 R447): at once on a cluster that does not serve, pending on one that does; records about galleries'
phases and lanes wait for the next start. -/
def applyDefect (d : Defect) (s : State) : State :=
  let p := d.unit
  let cl := d.type = 1 ∨ d.type = 2 ∨ d.type = 3 ∨ d.type = 8
  if !cl then s
  else if serves s p then setFld (rBruCl p) fBruClPending 1 s
  else if d.type = 1 then setClState p csBad s
  else if d.type = 3 then
    let s := setClState p csBad (holdPorts p d.data s)
    if d.data ≠ 0 ∧ !s.badRouters.contains p then { s with badRouters := s.badRouters ++ [p] } else s
  else if d.type = 8 then
    if d.data < fmaxOf s p then updFreq p (setFld (rClkFmax p) fClkFmaxFmax d.data s) else s
  else modCluster p (fun c => { c with spareLines := c.spareLines ++ [(d.index / 4096, d.index % 4096)] }) s

/-- DMAP_LOAD. -/
def execDmapLoad (rid a0 a1 : Nat) (s : State) : Host.Outcome State Fault Refusal :=
  .next (service mbBru 0x1105 rid [a0, a1] (fun s =>
    if hbmTop s < a0 + a1 then (.done stBadArg [], s)
    else
      let o := hbmPeek s a0 a1
      let m := ohPayload o
      let (c, s) := verify otDefects o s
      if c ≠ 0 then (.done 0x93 [], s)
      else if leAt 0x10 8 m ≠ partSerial then (.done 0x92 [], s)
      else if leAt 8 4 m ≤ leAt 8 4 (defectMap s) then (.done 0x91 [], s)
      else if !mapOk m then (.done stBadArg [], s)
      else
        let s := measure (o.take objHeader) (setFlash otDefects o s)
        (ok [], updStatus ((defectsOf m).foldl (fun s d => applyDefect d s) s))) s)

end Sys2Proof.Machine
end

