-- ==== Sys2Proof/Machine/Power.lean ====
section
/-! DEFINITION. Power and heat (14): gallery banks and their limits (R408-R413), margin alerts and F_max (R418, R419), the cap loop
and the other throttling loops (R423-R431), parking and power-up (R433-R437), the calibration table (R439), and services (R440). -/
namespace Sys2Proof.Machine

/-! ### Gallery banks (14 R408-R412) -/

/-- A flag of PWR.FAULT set for a gallery. -/
def pwrFault (b g : Nat) (s : State) : State := raise rPwrFault b (rPwrFaultCnt b) (setFld rPwrFault fPwrFaultLastGal g s)

/-- Phases a gallery has lost. -/
def phasesLost (s : State) (g : Nat) : Nat := 16 - (bitsOf 16 (fld s (rPwrGal g) fPwrGalPhaseOk)).length

/-- I_lim by phases lost (Table 14-4). -/
def limitOf (lost : Nat) : Nat := if lost ≤ 2 then 160 else if lost = 3 then 156 else if lost = 4 then 144 else 12 * (16 - lost)

/-- Causes of Table 14-16. -/
def gcPhases : Nat := 1
def gcCrack : Nat := 2
def gcShort : Nat := 3
def gcEfuse : Nat := 4
def gcTrip : Nat := 5
def gcHeat : Nat := 6
def gcService : Nat := 7
def galCause (s : State) (g : Nat) : Nat := fld s (rPwrGal g) fPwrGalCause

/-- A gallery CAPPED for a cause. -/
def capGal (g cause : Nat) (s : State) : State :=
  if galState s g = gsCapped then s else pwrFault 1 g (setGal g gsCapped cause s)

/-- PHASE_LOST: a phase is disabled; limit and state follow Table 14-4. -/
def execPhaseLost (g phase : Nat) (s : State) : Host.Outcome State Fault Refusal :=
  onUnits g nGal phase 16 s (fun s =>
    let ok_ := fld s (rPwrGal g) fPwrGalPhaseOk
    whenS (bitAt ok_ phase) (fun s =>
      let s := pwrFault 0 g (setFld (rPwrGal g) fPwrGalPhaseOk (ok_ - 2 ^ phase) s)
      let s := addRecord (mkRecord 3 3 g 7 phase) s
      let lost := phasesLost s g
      if galState s g = gsDark then s
      else if 9 ≤ lost then darken g gcPhases s
      else
        let lim := if galState s g = gsCapped ∧ galCause s g = gcCrack then min 96 (limitOf lost) else limitOf lost
        let s := setFld (rPwrGal g) fPwrGalILim lim s
        if 5 ≤ lost ∧ galClocked s g then capGal g gcPhases s else s) s)

/-- CRACK_DETECT: an excess drop, in units of 0.1 mV, has lasted 100 µs. -/
def execCrackDetect (g excess b : Nat) (s : State) : Host.Outcome State Fault Refusal :=
  onUnit g nGal s (fun s =>
    let s := advanceTo b s
    let cracked := (look s.crackSince g).isSome
    whenS (galClocked s g && 20 ≤ fld s (rPwrGal g) fPwrGalIOut && 150 < excess) (fun s =>
      let s := if cracked then s else pwrFault 3 g { s with crackSince := tabPut g s.beat s.crackSince }
      if 300 < excess then darken g gcCrack { s with crackSince := tabDel g s.crackSince }
      else if cracked then s
      else
        let s := setFld (rPwrGal g) fPwrGalILim (min 96 (fld s (rPwrGal g) fPwrGalILim)) s
        if galState s g = gsCapped then setGal g gsCapped gcCrack s else capGal g gcCrack s) s)

/-- CRACK_PERSIST at beat `b`: the crack has lasted 1 s. -/
def execCrackPersist (g b : Nat) (s : State) : Host.Outcome State Fault Refusal :=
  onUnit g nGal s (fun s =>
    let s := advanceTo b s
    whenS (galClocked s g && (look s.crackSince g).any (fun t => t + 1000000000 ≤ s.beat))
      (fun s => darken g gcCrack { s with crackSince := tabDel g s.crackSince }) s)

/-- SHORT_DETECT: below 0.60 V for 20 µs while the bank is folded back: in stages 0x01 to 0x07 or while WAKING. -/
def execShortDetect (g : Nat) (s : State) : Host.Outcome State Fault Refusal :=
  onUnit g nGal s (fun s =>
    whenS (galState s g == gsWaking || (stageNow s ≤ 7 && galClocked s g)) (fun s => darken g gcShort (pwrFault 4 g s)) s)

/-- EFUSE_OPEN: the input of a gallery's bank has exceeded 110 A for 2 µs. -/
def execEfuseOpen (g : Nat) (s : State) : Host.Outcome State Fault Refusal :=
  onUnit g nGal s (fun s =>
    whenS (galState s g != gsDark) (fun s =>
      darken g gcEfuse (pwrFault 5 g s)) s)

/-! ### Margins and F_max (14 R418, R419) -/

/-- A flag of CLK.MARGIN set for a cluster. -/
def clkMargin (b p : Nat) (s : State) : State := raise rClkMargin b (rClkMarginCnt b) (setFld rClkMargin fClkMarginLastP p s)

/-- MARGIN_ALERT at beat `b`: a path's slack is below 10 % of the period, or below 4 % where `alert`. -/
def execMarginAlert (p : Nat) (alert : Bool) (b : Nat) (s : State) : Host.Outcome State Fault Refusal :=
  onUnit p nClusters s (fun s =>
    let s := advanceTo b s
    whenS (inService s p) (fun s =>
      if !alert then clkMargin 0 p s
      else
        let s := clkMargin 1 p s
        updThrottle { s with holds := if s.holds.contains p then s.holds else p :: s.holds, alerts := (p, s.beat) :: s.alerts }) s)

/-- ALERT_HOLD_END at beat `b`: 1 ms has passed since the cluster's last ALERT. -/
def execAlertHoldEnd (p b : Nat) (s : State) : Host.Outcome State Fault Refusal :=
  onUnit p nClusters s (fun s =>
    let s := advanceTo b s
    whenS (s.holds.contains p && ((look s.alerts p).getD 0) + 1000000 ≤ s.beat)
      (fun s => updThrottle { s with holds := s.holds.filter (· != p) }) s)

/-- The field calibration record written and measured (14 R419; 17 Table 17-5). -/
def writeRecordF (l : List (Nat × Nat)) (s : State) : State :=
  extend 11 0 0 (shake256 64 (Config.fieldRecord l)) { s with lowered := l }

/-- FMAX_REFINE at beat `b`: ALERTs in three whole seconds within one hour lower F_max by 10 MHz, or fail a cluster at 980 MHz. -/
def execFmaxRefine (p b : Nat) (s : State) : Host.Outcome State Fault Refusal :=
  onUnit p nClusters s (fun s =>
    let s := advanceTo b s
    let mine := s.alerts.filter (fun e => e.1 == p && s.beat < e.2 + 3600000000000)
    let seconds := ((mine.map (fun e => e.2 / 1000000000)).eraseDups).length
    whenS (3 ≤ seconds) (fun s =>
      let s := { s with alerts := s.alerts.filter (fun e => e.1 != p) }
      if fmaxOf s p ≤ 980 then clusterFailed p 0xE 0 (clkMargin 3 p s)
      else
        let n := tabGet (fun _ => 0) s.lowered p + 1
        let s := setFlds (rClkFmax p) [(fClkFmaxFmax, max 980 (fmaxOf s p - 10)), (fClkFmaxRefined, n)] s
        updFreq p (clkMargin 2 p (writeRecordF (tabSet (fun _ => 0) s.lowered p n) s))) s)

/-! ### Throttling loops (14 R423-R425) -/

/-- Θ after a tick with input power `p10` and cap `c` (14 R423, R424). -/
def nextTheta (kp p10 c th : Nat) : Nat :=
  if 20000 < p10 then 48
  else if c < p10 then (if c = 0 then 48 else min 48 (th + (4 * kp * (p10 - c) + c - 1) / c))
  else if c < 50 * (c - p10) then th - 1
  else th

/-- CAP_TICK at beat `b`: P10 in W, input voltage in 10 mV, input current in 0.1 A. -/
def execCapTick (p10 vin iin b : Nat) (s : State) : Host.Outcome State Fault Refusal :=
  .next (
    let s := advanceTo b s
    let s := setFlds rPwrInput [(fPwrInputVin, vin), (fPwrInputIin, iin)] s
    let e := s.energyFrac + p10
    let s := wr rPwrEnergy (BitVec.ofNat 64 (rdN s rPwrEnergy + e / 100)) { s with energyFrac := e % 100 }
    let c := capInForce s vin
    let th := nextTheta (kpQ s) p10 c (fld s rPwrStatus fPwrStatusTheta)
    let s := setFlds rPwrStatus [(fPwrStatusInputW, p10), (fPwrStatusCapW, c), (fPwrStatusTheta, th)] s
    let s := if 20000 < p10 then raise rPwrFault 6 (rPwrFaultCnt 6) s else s
    updThrottle s)

/-- GALLERY_CURRENT_TICK: the output current in A; `low` says it has been below 0.95 × I_lim for a further 1 µs. -/
def execGalleryCurrentTick (g iout : Nat) (low : Bool) (s : State) : Host.Outcome State Fault Refusal :=
  onUnit g nGal s (fun s =>
    let s := setFld (rPwrGal g) fPwrGalIOut iout s
    whenS (galClocked s g) (fun s =>
      let lim := fld s (rPwrGal g) fPwrGalILim
      let k := tabGet (fun _ => 0) s.gcSkip g
      let k' := if lim < iout then min 48 (k + 4) else if low ∧ 100 * iout < 95 * lim then k - 1 else k
      updThrottle { s with gcSkip := tabSet (fun _ => 0) s.gcSkip g k' }) s)

/-! ### Heat (14 R428-R432) -/

/-- A flag of THM.FAULT set for a unit: gallery, or 144 + sensor. -/
def thmFault (b u : Nat) (s : State) : State := raise rThmFault b (rThmFaultCnt b) (setFld rThmFault fThmFaultLastUnit u s)

/-- SOFT and HARD set where a temperature, in 1/16 °C, has just reached 95 °C or 105 °C. -/
def heatFlags (u : Nat) (old new : Int) (s : State) : State :=
  let s := if old < 95 * 16 ∧ 95 * 16 ≤ new then thmFault 0 u s else s
  if old < 105 * 16 ∧ 105 * 16 ≤ new then thmFault 1 u s else s

/-- The sensors of a gallery read. -/
def readGal (g : Nat) (l : List Nat) (s : State) : State :=
  let old := galTemp s g
  let s := wr (rThmGalTemp g) (BitVec.ofNat 64 ((List.range 4).foldl (fun v j => v + l.getD j 0 % 65536 * 65536 ^ j) 0)) s
  let t := galTemp s g
  let s := heatFlags g old t s
  let hard := if 105 * 16 ≤ t then (if s.hardGal.contains g then s.hardGal else g :: s.hardGal)
    else if t < 100 * 16 then s.hardGal.filter (· != g) else s.hardGal
  let cool := l.all (fun x => toSigned 16 (x % 65536) ≤ 85 * 16)
  let since (on : Bool) (m : List (Nat × Nat)) : List (Nat × Nat) :=
    if on then (if (look m g).isSome then m else tabPut g s.beat m) else tabDel g m
  { s with hardGal := hard, hotSince := since (decide (105 * 16 ≤ t)) s.hotSince, coolSince := since cool s.coolSince }

/-- The sensor of a die, or of the inlet coolant, read. -/
def readDie (k x : Nat) (s : State) : State :=
  let old := dieTemp s k
  let s := setFld (rThmDieTemp k) fThmDieTempTemp x s
  let t := dieTemp s k
  if k < 19 then heatFlags (144 + k) old t s
  else if old ≤ 40 * 16 ∧ 40 * 16 < t then thmFault 4 (144 + k) s else s

/-- SENSOR_READ at beat `b`: the four sensors of gallery `u`, or sensor `u` − 144 of THM.DIE_TEMP. -/
def execSensorRead (u : Nat) (l : List Nat) (b : Nat) (s : State) : Host.Outcome State Fault Refusal :=
  onUnit u 164 s (fun s =>
    let s := advanceTo b s
    updThrottle (if u < nGal then readGal u l s else readDie (u - nGal) (l.getD 0 0) s))

/-- THERMAL_SOFT_TICK. -/
def execThermalSoftTick (g : Nat) (s : State) : Host.Outcome State Fault Refusal :=
  onUnit g nGal s (fun s =>
    let t := galTemp s g
    let k := tabGet (fun _ => 0) s.softSkip g
    let k' := if 95 * 16 ≤ t then min 48 (k + 2) else if t < 93 * 16 then k - 1 else k
    updThrottle { s with softSkip := tabSet (fun _ => 0) s.softSkip g k' })

/-! ### Parking (14 R433, R434) -/

/-- A gallery parked for a cause: its clocks stop and its clusters' state is lost. -/
def parkGal (g cause : Nat) (s : State) : State :=
  let s := (clustersOf g).foldl (fun s p => if clState s p = csBad then s else stopCluster p s) s
  let s := setFlds (rPwrGal g) [(fPwrGalIOut, 0)] (setGal g gsParked cause s)
  updThrottle { s with gcSkip := tabDel g s.gcSkip, crackSince := tabDel g s.crackSince }

/-- Whether a gallery's clusters hold no number and take none over. -/
def galFree (s : State) (g : Nat) : Bool :=
  (clustersOf g).all (fun p => nLogical ≤ logicalOf s p && clState s p != csMovingIn && !s.mapChanges.any (fun m => m.holder == p))

/-- A move onto a cluster given up: its map change is dropped and the spare is fenced (14 R437). -/
def dropMove (p : Nat) (s : State) : State :=
  if s.mapChanges.any (fun m => m.holder == p) then
    fenceCluster p { s with mapChanges := s.mapChanges.filter (fun m => m.holder != p) }
  else s

/-- HEAT_PARK at beat `b`: after 100 ms at or above 105 °C with AUTO_PARK, the gallery's holders are fenced for their moves, moves
onto its spares are given up, and the gallery parks once it holds no number. -/
def execHeatPark (g b : Nat) (s : State) : Host.Outcome State Fault Refusal :=
  onUnit g nGal s (fun s =>
    let s := advanceTo b s
    let due := galClocked s g && autoPark s && (look s.hotSince g).any (fun t => t + 100000000 ≤ s.beat)
    let s := if due && !s.parking.contains g then
        let s := thmFault 3 g { s with parking := g :: s.parking }
        (clustersOf g).foldl (fun s p => if serves s p && clState s p != csMovingIn then fenceCluster p s else dropMove p s) s
      else s
    if s.parking.contains g && galFree s g && galClocked s g then parkGal g gcHeat { s with parking := s.parking.filter (· != g) }
    else s)

/-- GAL_PARK. -/
def execGalPark (rid g : Nat) (s : State) : Host.Outcome State Fault Refusal :=
  .next (service mbPwr 0x0E04 rid [g] (fun s =>
    if nGal ≤ g then (.done stBadArg [], s)
    else if !(clustersOf g).all (fun p => clState s p == csBad || clState s p == csStandby) || !galFree s g then (.done 0x80 [], s)
    else if galState s g = gsParked then (ok [], s)
    else if !galClocked s g then (.done 0x81 [], s)
    else (ok [], parkGal g gcService s)) s)

/-! ### Powering up (14 R435, R436; 15 R443) -/

/-- The galleries that share an edge with a gallery. -/
def galNeighbours (g : Nat) : List Nat :=
  let h := g / 4
  let q := g % 4
  let x := 2 * (h % 6) + q % 2
  let y := 2 * (h / 6) + q / 2
  let at_ (x y : Nat) : Nat := 4 * (6 * (y / 2) + x / 2) + 2 * (y % 2) + x % 2
  (if 0 < x then [at_ (x - 1) y] else []) ++ (if x < 11 then [at_ (x + 1) y] else []) ++
    (if 0 < y then [at_ x (y - 1)] else []) ++ (if y < 11 then [at_ x (y + 1)] else [])

/-- Neighbours that block a grant: drawing more than 90 % of their own I_lim. -/
def blockers (s : State) (g : Nat) : List Nat :=
  (galNeighbours g).filter (fun n => galClocked s n && 90 * fld s (rPwrGal n) fPwrGalILim < 100 * fld s (rPwrGal n) fPwrGalIOut)

/-- Whether the module has headroom for one more gallery. -/
def headroom (s : State) : Bool :=
  fld s rPwrStatus fPwrStatusInputW + 107 ≤ capInForce s (fld s rPwrInput fPwrInputVin)

/-- GAL_POWER_REQUEST at beat `b`: a PARKED gallery, or in stage 0x01 one that has not been powered, asks for power. -/
def execGalPowerRequest (g b : Nat) (s : State) : Host.Outcome State Fault Refusal :=
  onUnit g nGal s (fun s =>
    let s := advanceTo b s
    whenS (!s.inputOpen && (galState s g == gsParked || (galState s g == gsDark && galCause s g == 0 && stageNow s == 1)))
      (askPower g) s)

/-- Whether the wave of a gallery's quadrant may start in stage 0x01: every gallery of the quadrants before it has ramped, or is
DARK for a cause. -/
def waveOpen (s : State) (g : Nat) : Bool :=
  stageNow s != 1 || (List.range nGal).all (fun n => g % 4 ≤ n % 4 || galClocked s n || s.ramped.contains n ||
    (galState s n == gsDark && galCause s n != 0) || galState s n == gsParked)

/-- GAL_GRANT at beat `b`, a 10 µs tick: the lowest WAITING gallery whose conditions hold is granted and ramps. -/
def execGalGrant (b : Nat) (s : State) : Host.Outcome State Fault Refusal :=
  .next (
    let s := advanceTo b s
    match (List.range nGal).find? (fun g => galState s g == gsWaiting && headroom s && (blockers s g).isEmpty && waveOpen s g) with
    | none => s
    | some g => { setGal g gsWaking 0 s with galAsked := tabPut g s.beat s.galAsked })

/-- GAL_FORCING at beat `b`: 1.5 ms without a grant: the power manager's skip demands on blocking neighbours, and Θ where headroom
is lacking. -/
def execGalForcing (g : Nat) (skips : List (Nat × Nat)) (theta b : Nat) (s : State) : Host.Outcome State Fault Refusal :=
  onUnit g nGal s (fun s =>
    let s := advanceTo b s
    whenS (galState s g == gsWaiting && (look s.galAsked g).any (fun t => t + 1500000 ≤ s.beat)) (fun s =>
      let bl := blockers s g
      let force := skips.foldl (fun m e => if bl.contains e.1 then tabSet (fun _ => 0) m e.1 (min 48 e.2) else m) s.forceSkip
      updThrottle { s with forceSkip := force, forceTheta := if headroom s then s.forceTheta else min 48 theta }) s)

/-- GAL_RAMP_DONE at beat `b`: the 200 µs ramp is over and the forcing demands are withdrawn. -/
def execGalRampDone (g b : Nat) (s : State) : Host.Outcome State Fault Refusal :=
  onUnit g nGal s (fun s =>
    let s := advanceTo b s
    whenS (galState s g == gsWaking && !s.ramped.contains g && (look s.galAsked g).any (fun t => t + 200000 ≤ s.beat)) (fun s =>
      updThrottle { s with ramped := g :: s.ramped, forceTheta := 0,
                           forceSkip := s.forceSkip.filter (fun e => !(galNeighbours g).contains e.1) }) s)

/-- A gallery's clusters after a restoration or a heat park: those whose trial passes, with no defect record pending, become
spares (14 R436; 15 R450). -/
def retryClusters (g passes : Nat) (s : State) : State :=
  ((clustersOf g).zip (List.range 6)).foldl (fun s e =>
    let p := e.1
    if clState s p = csBad ∨ (clState s p ≠ csFenced ∧ clState s p ≠ csStandby) ∨ logicalOf s p < nLogical then s
    else if bitAt passes e.2 && fld s (rBruCl p) fBruClPending == 0 && !s.badRouters.contains p then
      setClState p csStandby (setClass p 0 s)
    else setClState p csFenced (setClass p 2 (noteSuspect p s))) s

/-- GAL_ON at beat `b`: 1 ms of fold-back after the ramp has passed; `passes` says which of the gallery's clusters pass the trials
that a restored gallery's run. -/
def execGalOn (g passes b : Nat) (s : State) : Host.Outcome State Fault Refusal :=
  onUnit g nGal s (fun s =>
    let s := advanceTo b s
    whenS (galState s g == gsWaking && s.ramped.contains g && (look s.galAsked g).any (fun t => t + 1200000 ≤ s.beat)) (fun s =>
      let s := { s with ramped := s.ramped.filter (· != g), galAsked := tabDel g s.galAsked, calLate := s.calLate.filter (· != g),
                        hotSince := tabDel g s.hotSince, coolSince := tabDel g s.coolSince }
      let s := if fld s (rPwrGal g) fPwrGalPhaseOk = 0 then setFld (rPwrGal g) fPwrGalPhaseOk 0xFFFF s else s
      let lost := phasesLost s g
      let s := setFld (rPwrGal g) fPwrGalILim (limitOf lost) s
      let s := if 5 ≤ lost then capGal g gcPhases s else setGal g gsOn 0 s
      let s := if s.retrial.contains g then retryClusters g passes { s with retrial := s.retrial.filter (· != g) } else s
      updThrottle (updStatus s)) s)

/-- HEAT_UNPARK at beat `b`: all four sensors at or below 85 °C for 1 s. -/
def execHeatUnpark (g b : Nat) (s : State) : Host.Outcome State Fault Refusal :=
  onUnit g nGal s (fun s =>
    let s := advanceTo b s
    whenS (galState s g == gsParked && galCause s g == gcHeat && (look s.coolSince g).any (fun t => t + 1000000000 ≤ s.beat))
      (fun s => askPower g { s with retrial := g :: s.retrial }) s)

/-- GAL_UNPARK: it ends when the gallery is ON. -/
def execGalUnpark (rid g : Nat) (s : State) : Host.Outcome State Fault Refusal :=
  .next (service mbPwr 0x0E05 rid [g] (fun s =>
    if nGal ≤ g then (.done stBadArg [], s)
    else if galState s g ≠ gsParked ∨ galCause s g ≠ gcService then (.done 0x81 [], s)
    else (.runs [], askPower g s)) s)

/-- GAL_RESTORE: it ends when the gallery is ON and its trials have ended. -/
def execGalRestore (rid g : Nat) (s : State) : Host.Outcome State Fault Refusal :=
  .next (service mbPwr 0x0E06 rid [g] (fun s =>
    if nGal ≤ g then (.done stBadArg [], s)
    else if galState s g ≠ gsDark ∨ (galCause s g ≠ gcTrip ∧ galCause s g ≠ gcCrack) ∨ 9 ≤ phasesLost s g then (.done 0x81 [], s)
    else if 85 * 16 < galTemp s g then (.done 0x83 [], s)
    else (.runs [], askPower g { s with retrial := g :: s.retrial })) s)

/-- The end of GAL_UNPARK and GAL_RESTORE: the gallery is ON or CAPPED; one that went DARK again ends the call with GAL_STATE. -/
def galPoll (g : Nat) (restore : Bool) (s : State) : Option (Nat × List Nat) :=
  if galClocked s g then
    some (stOk, if restore then [((clustersOf g).filter (fun p => clState s p == csStandby)).length] else [])
  else if galState s g = gsDark ∨ galState s g = gsParked then some (0x81, [])
  else none

/-! ### The calibration table (14 R439) -/

/-- CAL_LOAD. -/
def execCalLoad (rid a0 a1 : Nat) (s : State) : Host.Outcome State Fault Refusal :=
  .next (service mbPwr 0x0E07 rid [a0, a1] (fun s =>
    if hbmTop s < a0 + a1 then (.done stBadArg [], s)
    else
      let o := hbmPeek s a0 a1
      let (c, s) := verify otCalTable o s
      if c ≠ 0 then (.done 0x82 [], s)
      else (ok [], setFlash otCalTable o { s with calNext := some ((s.beat / 1000000 + 1) * 1000000, o) })) s)

/-- CAL_TABLE_APPLY at beat `b`: the table takes effect and is measured; a gallery that is WAITING or WAKING takes it when ON. -/
def execCalTableApply (b : Nat) (s : State) : Host.Outcome State Fault Refusal :=
  let s := advanceTo b s
  .next (match s.calNext with
    | none => s
    | some (t, o) =>
      if s.beat < t then s
      else measure (o.take objHeader) { s with
        calNow := o, calNext := none,
        calLate := (List.range nGal).filter (fun g => galState s g == gsWaiting || galState s g == gsWaking) })

/-! ### THROT_N and the services (14 R426, R440; 18 R516) -/

/-- THROT_ASSERT and THROT_RELEASE. -/
def execThrotAssert (s : State) : Host.Outcome State Fault Refusal := .next (updThrottle (setFld rPwrBoard fPwrBoardThrot 1 s))
def execThrotRelease (s : State) : Host.Outcome State Fault Refusal := .next (updThrottle (setFld rPwrBoard fPwrBoardThrot 0 s))

/-- A value written to PWR.CAP_SET: it applies from the next tick. -/
def capSet (w : Nat) (s : State) : Nat × State :=
  if w < 6000 ∨ 18000 < w then (stBadArg, s) else (stOk, setFld rPwrCapSet fPwrCapSetCap w s)

/-- CAP. -/
def execCapService (rid w : Nat) (s : State) : Host.Outcome State Fault Refusal :=
  .next (service mbPwr 0x0E01 rid [w] (fun s =>
    let (st, s) := capSet w s
    (.done st [], s)) s)

/-- STATUS of the PWR block. -/
def execPwrStatus (rid : Nat) (s : State) : Host.Outcome State Fault Refusal :=
  .next (serviceRead mbPwr 0x0E02 rid [] (fun s => [rdN s rPwrStatus, rdN s rPwrInput, rdN s rPwrEnergy, rdN s rPwrBoard]) s)

/-- THR_READ. -/
def execThrRead (rid : Nat) (s : State) : Host.Outcome State Fault Refusal :=
  .next (serviceRead mbPwr 0x0E03 rid [] (fun s => (List.range 6).map (fun r => rdN s (rPwrThrDur r))) s)

/-- FAULT_READ of the PWR block. -/
def execPwrFaultRead (rid : Nat) (s : State) : Host.Outcome State Fault Refusal :=
  .next (serviceRead mbPwr 0x0E08 rid [] (fun s => rdN s rPwrFault :: (List.range 7).map (fun i => rdN s (rPwrFaultCnt i))) s)

/-- TEMPS. -/
def execTemps (rid g : Nat) (s : State) : Host.Outcome State Fault Refusal :=
  .next (service mbThm 0x0F01 rid [g] (fun s =>
    if nGal ≤ g then (.done stBadArg [], s) else (ok [rdN s (rThmGalTemp g), rdN s (rPwrGal g)], s)) s)

/-- FAULT_READ of the THM block. -/
def execThmFaultRead (rid : Nat) (s : State) : Host.Outcome State Fault Refusal :=
  .next (serviceRead mbThm 0x0F02 rid [] (fun s => rdN s rThmFault :: (List.range 5).map (fun i => rdN s (rThmFaultCnt i))) s)

/-- FREQ: the request of a logical number. -/
def execClkFreq (rid l f : Nat) (s : State) : Host.Outcome State Fault Refusal :=
  .next (service mbClk 0x1001 rid [l, f] (fun s =>
    if !expertFreq s then (.done 0x84 [], s)
    else if nLogical ≤ l ∨ !fsetOk f then (.done stBadArg [], s)
    else
      let s := { s with fsetOf := tabSet (fun _ => 0) s.fsetOf l f }
      (ok [], if held s l then setFset (physOf s l) f s else s)) s)

/-- FMAX. -/
def execClkFmax (rid p : Nat) (s : State) : Host.Outcome State Fault Refusal :=
  .next (service mbClk 0x1002 rid [p] (fun s =>
    if nClusters ≤ p then (.done stBadArg [], s) else (ok [rdN s (rClkFmax p), rdN s (rClkFset p)], s)) s)

/-- A write of CLK.MODE, and of CLK.FSET[p] (14 Table 14-23). -/
def clkModeWrite (v : Nat) (s : State) : Nat × State := (stOk, updFreqs (setFld rClkMode fClkModeExpertFreq (v % 2) s))
def fsetWrite (p v : Nat) (s : State) : Nat × State :=
  let f := v % 65536
  if fsetOk f then (stOk, setFset p f s) else (stBadArg, s)

end Sys2Proof.Machine
end

