-- ==== Sys2Proof/Machine/Start.lean ====
section
/-! DEFINITION. Reset (01 R44; 18 R516) and bring-up (15 Table 15-1): the ten stages, what stops them, and what each leaves. -/
namespace Sys2Proof.Machine

/-! ### Reset (01 R44; 15 R441) -/

/-- Registers that show fuses or flash and keep their values through a reset: SEC.ROOT, SEC.SVN. -/
def fuseReg (k : Nat) : Bool := (0x100100 ≤ k && k < 0x100120) || (0x100200 ≤ k && k < 0x100280)

/-- CLK.FMAX after a reset: lowered by the steps of the field calibration record (14 R419). -/
def recordFmax (s : State) : State :=
  s.lowered.foldl (fun s e =>
    setFlds (rClkFmax e.1) [(fClkFmaxFmax, max 980 (fmaxOf s e.1 - 10 * e.2)), (fClkFmaxRefined, e.2)] s) s

/-- The whole part reset: what fuses and flash hold stays, with the waiting commands, the messages sent and the counter of free
values; `vinOk` says that the input stayed between 32 V and 40 V, and makes the start warm where flash holds a training record.
PRSNT_N and the input stage are not the part's to reset. -/
def resetPart (vinOk : Bool) (s : State) : State :=
  let t := { State.reset with
    pending := s.pending, free := s.free, sent := s.sent, flash := s.flash, lowered := s.lowered, faultLog := s.faultLog,
    parityFlash := s.parityFlash, suspects := s.suspects, trainRecord := s.trainRecord, tripCause := s.tripCause,
    inputOpen := s.inputOpen, presentAt := s.presentAt, regs := s.regs.filter (fun e => fuseReg e.1) }
  let t := setFld rSecStatus fSecStatusBank (fld s rSecStatus fSecStatusBank) t
  setFld rBruStatus fBruStatusWarm (bit (vinOk && s.trainRecord)) (recordFmax t)

/-- RST_N_RESET: RST_N has been low for `us` microseconds. Pulses shorter than 10 ms are ignored. -/
def execRstNReset (us : Nat) (vinOk : Bool) (s : State) : Host.Outcome State Fault Refusal :=
  .next (whenS (decide (10000 ≤ us) && !s.inputOpen) (resetPart vinOk) s)

/-- RESET of the BRU mailbox: the part resets, its mailboxes with it. -/
def execBruReset (rid : Nat) (vinOk : Bool) (s : State) : Host.Outcome State Fault Refusal :=
  .next (
    if partDown s then s
    else if !mayWrite s rid gbBru then answerWith stNotOwner [] s
    else if (look s.calls mbBru).isSome then answerWith stBusy [] s
    else answerWith stOk [] (resetPart vinOk s))

/-! ### Stages (01 R42, R43; 15 R442) -/

/-- Whether stage `n` is in progress on a part that has power and has not stopped. -/
def stageReady (s : State) (n : Nat) : Bool :=
  stageNow s == n && fld s rModStatus fModStatusReady == 0 && fld s rBruStatus fBruStatusFailStage == 0 && !partDown s

/-- A stage completed after `ms` milliseconds. -/
def stageDone (n ms : Nat) (s : State) : State :=
  let s := wr (rBruStageMs (n - 1)) (BitVec.ofNat 64 ms) s
  { setFld rModStatus fModStatusStage (n + 1) s with stageAt := s.beat }

/-- Milliseconds since the stage began. -/
def stageMs (s : State) : Nat := (s.beat - s.stageAt) / 1000000

/-- A stage that passes at beat `b`: its work, then the next stage. -/
def stage (n b : Nat) (work : State → State) (s : State) : Host.Outcome State Fault Refusal :=
  .next (whenS (stageReady s n) (fun s =>
    let s := advanceTo b s
    let ms := stageMs s
    let s := work s
    if fld s rBruStatus fBruStatusFailStage = 0 then stageDone n ms s else s) s)

/-- Start-up stopped at a stage: STAGE stays, the cause is in BRU.STATUS, and a STAGE_FAIL record is made (01 R43). -/
def stageFail (n kind unit : Nat) (s : State) : State :=
  let s := setFlds rBruStatus [(fBruStatusFailStage, n), (fBruStatusFailUnit, unit), (fBruStatusFailCause, 0x15)] s
  addRecord (mkRecord 3 kind unit 0x15 0) s

/-! ### The field defect map and the fuses at a start (15 R445-R447) -/

/-- The records of the map in flash where it verifies: what stage 0x01 takes its PHASE records from. -/
def mapRecords (s : State) : List Defect :=
  let o := flashObj s otDefects
  if verifyCause s otDefects o.length o = vcOk ∧ mapOk (ohPayload o) then defectsOf (ohPayload o) else []

/-- The records of the map that stage 0x02 has accepted. -/
def mapInForce (s : State) : List Defect :=
  if (look s.running otDefects).isSome ∧ mapOk (defectMap s) then defectsOf (defectMap s) else []

/-- Entries of a fuse list. -/
def fuseList (field most : Nat) : List Nat :=
  (List.range (min most (Config.fuseCount field))).map (fun e => (Config.fuseEntry field e).toNat)

/-- Whether a cluster is bad by fuses, or by the fused F_max (14 R415). -/
def fusedBad (p : Nat) : Bool := bitAt (Config.fuseEntry 1 (p / 64)).toNat (p % 64) || Config.fuseFmax p < 1050

/-! ### Stage 0x01 (15 R443; 18 R512, R513) -/

/-- The role hint of the strap pins (Table 18-3). -/
def strapRole (pins : Nat) : Nat := match bitsAt 8 2 pins with | 0 => 2 | 1 => 1 | _ => 0

/-- The straps sampled: pins [3:0] G, [7:4] S, [9:8] ROLE, [13:10] N, [17:14] GC. -/
def latchStraps (pins : Nat) (s : State) : State :=
  setFlds rModStraps [(fModStrapsGroup, bitsAt 0 4 pins), (fModStrapsSlot, bitsAt 4 4 pins), (fModStrapsRole, strapRole pins),
    (fModStrapsGsize, bitsAt 10 4 pins), (fModStrapsGcount, bitsAt 14 4 pins), (fModStrapsRole11, bit (bitsAt 8 2 pins == 3)),
    (fModStrapsLatched, 1)] s

/-- A gallery powered: its phases less those the map names, the state Table 14-4 gives, or DARK where it shorts. -/
def powerGal (g : Nat) (short : Bool) (s : State) : State :=
  let lostP := ((mapRecords s).filter (fun d => d.type == 4 && d.unit == g)).map (·.index)
  let ok_ := (List.range 16).filter (fun i => !lostP.contains i)
  let lost := 16 - ok_.length
  let s := setFlds (rPwrGal g) [(fPwrGalPhaseOk, maskOf ok_), (fPwrGalILim, if lost < 9 then limitOf lost else 0)] s
  if short then darken g gcShort (pwrFault 4 g s)
  else if 9 ≤ lost then darken g gcPhases s
  else if 5 ≤ lost then capGal g gcPhases s
  else setGal g gsOn 0 s

/-- The galleries in the order of the four waves: NW, NE, SW, SE, each by increasing serial. -/
def waveOrder : List Nat := (List.range 4).flatMap (fun q => (List.range 36).map (fun h => 4 * h + q))

/-- STAGE_POWER, after `ms` milliseconds: the straps are sampled, the galleries powered, those in `shorts` shorting, and a module
trip of the last run is reported; the escapement starts at 0 as the stage ends (09 R280). Without REFCLK the start stops. -/
def execStagePower (straps : Nat) (refclk : Bool) (shorts : List Nat) (ms : Nat) (s : State) : Host.Outcome State Fault Refusal :=
  .next (whenS (stageReady s 1) (fun s =>
    let s := latchStraps straps s
    if !refclk then stageFail 1 10 0 s
    else
      let s := match s.tripCause with
        | some c => addRecord (mkRecord 5 10 0 0x16 c) { s with tripCause := none }
        | none => s
      let s := waveOrder.foldl (fun s g => powerGal g (shorts.contains g) s) s
      stageDone 1 ms { s with beat := 0 }) s)

/-! ### Stage 0x02 (17 R497, R498, R501) -/

/-- An object of flash verified for use as `type`, its header noted as running, and measured. -/
def bootObject (type key : Nat) (s : State) : Nat × State :=
  let o := flashObj s key
  match verify type o s with
  | (0, s) => (0, measure (o.take objHeader) { s with running := tabPut type (o.take objHeader) s.running })
  | (c, s) => (c, s)

/-- The CID firmware of the active bank, else of the other, which then becomes active. -/
def bootCid (s : State) : Nat × State :=
  match bootObject otCidFw (cidBank s) s with
  | (0, s) => (0, s)
  | (_, s) =>
    let other := if fld s rSecStatus fSecStatusBank = 0 then bankB else otCidFw
    match bootObject otCidFw other s with
    | (0, s) => (0, setFld rSecStatus fSecStatusBank (1 - fld s rSecStatus fSecStatusBank) s)
    | (c, s) => (c, s)

/-- Firmware of the other units in the order R497 names them; the first failure ends it. -/
def bootOthers : List Nat → State → Nat × State
  | [], s => (0, s)
  | t :: ts, s =>
    match bootObject t t s with
    | (0, s) => bootOthers ts s
    | (c, s) => (c, s)

/-- A calibration table or defect map of flash: in force where it verifies, set aside with a record where it does not. -/
def bootTable (type : Nat) (s : State) : State :=
  let o := flashObj s type
  if o.isEmpty then s
  else match verify type o s with
    | (0, s) => { s with running := tabPut type (o.take objHeader) s.running }
    | (_, s) => addRecord (mkRecord 3 9 0 0x15 0) s

/-- The calibration table of flash takes effect, and is measured. -/
def bootCal (s : State) : State :=
  if (look s.running otCalTable).isSome then
    measure (runningHeader s otCalTable) { s with calNow := flashObj s otCalTable } else s

/-- Whether the certificate's public key is the derived one. -/
def certBad (s : State) : Bool :=
  slice 8 32 (ohPayload (flashObj s otCert)) != padTo 32 (Config.slhPublic identitySecret)

/-- STAGE_SECURE_BOOT. -/
def execStageSecureBoot (b : Nat) (s : State) : Host.Outcome State Fault Refusal :=
  stage 2 b (fun s =>
    let fuses := (List.range 4).map (fun k => rd s (rSecRoot k)) ++ (List.range 16).map (fun c => rd s (rSecSvn c))
    let s := extend 0 0 0 (padTo 64 (Config.romRecord Config.romVersion fuses)) s
    match bootCid s with
    | (0, s) =>
      (match bootOthers [otCoreFw, otCcFw, otSeFw, otFidFw] s with
       | (0, s) =>
         let s := setFld rSecStatus fSecStatusCertBad (bit (certBad s)) s
         let s := extend 11 0 0 (shake256 64 (Config.fieldRecord s.lowered)) s
         let s := bootCal (bootTable otDefects (bootTable otCalTable s))
         setFld rSecStatus fSecStatusBootOk 1 s
       | (_, s) => stageFail 2 9 0 s)
    | (_, s) => stageFail 2 9 0 s) s

/-! ### Stages 0x03 and 0x04 (05 R159; 15 R447-R449) -/

/-- Bad scratchpad lines: cluster, bank, row. -/
def badLinesOf (s : State) : List (Nat × Nat × Nat) :=
  ((fuseList 2 4096).map (fun v => (bitsAt 0 10 v, bitsAt 10 7 v, bitsAt 17 12 v)) ++
    ((mapInForce s).filter (fun d => d.type == 2)).map (fun (d : Defect) => (d.unit, d.index / 4096, d.index % 4096))).eraseDups

/-- STAGE_FUSES_READ: bad lines replaced by the spare lines of their banks. -/
def execStageFusesRead (b : Nat) (s : State) : Host.Outcome State Fault Refusal :=
  stage 3 b (fun s => (badLinesOf s).foldl (fun s e =>
    if e.1 < nClusters then modCluster e.1 (fun c => { c with spareLines := c.spareLines ++ [e.2] }) s else s) s) s

/-- Whether a bank of a cluster needs more than its 16 spare lines. -/
def linesOver (s : State) (p : Nat) : Bool :=
  (List.range 96).any (fun k => 16 < ((cluster s p).spareLines.filter (fun e => e.1 == k)).length)

/-- Whether a cluster is bad for this start. -/
def badAtStart (s : State) (p : Nat) : Bool :=
  fusedBad p || linesOver s p || (galState s (galleryOf p) == gsDark && fld s (rPwrGal (galleryOf p)) fPwrGalCause != 0) ||
    (mapInForce s).any (fun d => (d.type == 1 || d.type == 3) && d.unit == p)

/-- The F_max records of the map. -/
def mapFmax (s : State) : State :=
  ((mapInForce s).filter (fun d => d.type == 8)).foldl (fun s d =>
    if d.data < fmaxOf s d.unit then setFld (rClkFmax d.unit) fClkFmaxFmax d.data s else s) s

/-- Physical serials by increasing position (15 R449). -/
def byPosition : List Nat :=
  (List.range 36).flatMap (fun h => (List.range 24).map (fun i => 24 * (6 * (h / 6) + i / 4) + 4 * (h % 6) + i % 4))

/-- One cluster numbered: the next number, spare, or bad. -/
def numberOne (p : Nat) (x : Nat × State) : Nat × State :=
  let (l, s) := x
  let s := setFlds (rBruCl p) [(fBruClPosition, positionOf p), (fBruClLogical, 0xFFFF)] s
  if badAtStart s p then (l, setFld (rClRtrStatus p) fClRtrStatusResponder 1 s)
  else if l < nLogical then (l + 1, setClState p csServing (assign l p s))
  else (l, setFld (rClRtrStatus p) fClRtrStatusResponder 1 (setClState p csStandby s))

/-- STAGE_DEFECT_MERGE. -/
def execStageDefectMerge (b : Nat) (s : State) : Host.Outcome State Fault Refusal :=
  stage 4 b (fun s =>
    let s := if (look s.running otDefects).isSome then measure (runningHeader s otDefects) s else s
    let s := mapFmax s
    let s := { s with badRouters := ((mapInForce s).filter (fun d => d.type == 3 && d.data != 0)).map (·.unit) |>.eraseDups }
    let s := (byPosition.foldl (fun x p => numberOne p x) (0, s)).2
    updStatus { s with numbered := true }) s

/-! ### Stages 0x05 and 0x06 (06 R197; 07 R217, R228) -/

/-- Whether a port of a router crosses a seam between two halls. -/
def isLanding (p port : Nat) : Bool := port < 4 && portPresent p port && hallOf (neighbour p port) != hallOf p

/-- STAGE_PHASE_TRAINING: every port that is there comes UP, but for those in `failed` and those a ROUTER record holds DOWN. -/
def execStagePhaseTraining (failed : List (Nat × Nat)) (b : Nat) (s : State) : Host.Outcome State Fault Refusal :=
  stage 5 b (fun s =>
    let heldDown := (mapInForce s).filter (fun d => d.type == 3)
    (List.range nClusters).foldl (fun s p => (List.range 7).foldl (fun s k =>
      if !portPresent p k then s
      else
        let down := failed.contains (p, k) || heldDown.any (fun d => d.unit == p && (bitAt d.data k || (k == 4 && d.data != 0)))
        let s := setFlds (rClRtrPort p k) [(fClRtrPortState, if down then 1 else 2), (fClRtrPortLanding, bit (isLanding p k))] s
        setFld (rClRtrStatus p) ⟨k, 1⟩ (bit (!down)) s) s) s) s

/-- STAGE_MEMORY_TRAINING: the MSDs in `failed` do not train. HBM and parity are zeroed; one failure leaves its proxy installed;
a second, or the first with parity off, stops the start. -/
def execStageMemoryTraining (failed : List Nat) (b : Nat) (s : State) : Host.Outcome State Fault Refusal :=
  stage 6 b (fun s =>
    let bad := (List.range nMsd).filter failed.contains
    let s := setFld rModStatus fModStatusParityOn (bit s.parityFlash) { s with hbm := [], hbmBad := [] }
    let s := (List.range nMsd).foldl (fun s n => if bad.contains n then s else setFld (rMsdStatus n) fMsdStatusState msServing s) s
    let s := bad.foldl (fun s n => failMsd n s) s
    match bad with
    | [] => publishDist s
    | [n] => if parityOn s then publishDist (installProxy n s) else stageFail 6 4 n s
    | n :: _ => stageFail 6 4 n s) s

/-! ### Stage 0x07 (15 R444) -/

/-- A cluster that fails its self-test: bad for this start; its number goes to the lowest-serial spare that has not failed, or is
vacant. -/
def selfTestFail (fails : List Nat) (p : Nat) (s : State) : State :=
  if clState s p = csBad then s
  else
    let l := logicalOf s p
    let s := addRecord { mkRecord 3 0 p 1 0 with logical := l } s
    let s := unassign p (setClass p 2 (setClState p csBad (stopCluster p s)))
    if nLogical ≤ l then s
    else match (List.range nClusters).find? (fun q => goodSpare s q && !fails.contains q) with
      | some q => setClState q csServing (assign l q s)
      | none => vacate l s.beat s

/-- Whether a gallery's six clusters are all bad or spare. -/
def galIdle (s : State) (g : Nat) : Bool := (clustersOf g).all (fun p => clState s p == csBad || clState s p == csStandby)

/-- The links the straps describe (13 R370, R374): side links, and a manager's 1-lane stair links. -/
def strapLinks (s : State) : List FabLink :=
  let own := ownSlot s
  let g := ownGroup s
  let side := ((List.range (groupSize s)).filter (· != own)).map (fun t =>
    let k := (t + 16 - own) % 16 - 1
    (⟨k, 0, 8, 1, slotDev s t, 14 - k, 0, lsTraining, false, []⟩ : FabLink))
  let stair := if ownRole s = 0 then [] else ((List.range (groupCount s)).filter (· != g)).map (fun h =>
    (⟨15 + h / 8, h % 8, 1, 3, 16 * h, 15 + g / 8, g % 8, lsTraining, false, []⟩ : FabLink))
  side ++ stair

/-- The lane group no device has: a stair link of an image, whose peer lane group the section does not name, agrees with any (log
61). -/
def anyLg : Nat := 18

/-- The links a FABRIC_RATIOS entry describes (13 Table 13-1). -/
def ratioLinks (s : State) (e : List Byte) : List FabLink :=
  (List.range 18).flatMap (fun k =>
    let role := leAt (16 * k) 1 e
    let peer := leAt (16 * k + 2) 1 e
    if role = 1 ∨ role = 2 then [⟨k, 0, 8, role, slotDev s peer, leAt (16 * k + 3) 1 e, 0, lsTraining, false, []⟩]
    else if role = 3 then
      let w := 8 / 2 ^ leAt (16 * k + 1) 1 e
      ((List.range (8 / max 1 w)).filter (fun i => leAt (16 * k + 8 + i) 1 e != 0xFF)).map (fun i =>
        (⟨k, w * i, w, 3, 16 * leAt (16 * k + 8 + i) 1 e, anyLg, 0, lsTraining, false, []⟩ : FabLink))
    else [])

/-- The FABRIC_RATIOS entry of the boot image in flash. -/
def bootRatios (s : State) : Option (List Byte) :=
  let im := ohPayload (flashObj s otImage)
  if (flashObj s otImage).isEmpty then none
  else ((List.range (leAt 6 2 im)).find? (fun i => leAt (0x80 + 16 * i) 2 im == stFabric)).map (fun i =>
    slice (leAt (0x80 + 16 * i + 8) 4 im) 1024 im)

/-- Lanes that fuses or the map exclude: lane group and lane. -/
def badLanes (s : State) : List (Nat × Nat) :=
  (fuseList 5 64).map (fun v => (bitsAt 0 5 v, bitsAt 5 3 v)) ++
    ((mapInForce s).filter (fun d => d.type == 6)).map (fun d => (d.unit, d.index))

/-- Whether the straps contradict each other (13 R376). -/
def strapsClash (s : State) : Bool :=
  (ownSlot s == 0 && ownRole s == 0) || (ownSlot s != 0 && ownRole s != 0) || (ownDev s == 0 && ownRole s != 2) ||
    (ownDev s != 0 && ownRole s == 2)

/-- Stage 0x08 begun: FAB.STATUS from the straps, the role in the escapement, and the links of this start put in training; straps
that contradict each other stop the start at once. -/
def enterDiscovery (s : State) : State :=
  let st (f : Field) : Nat := fld s rModStraps f
  let s := [0, 1].foldl (fun s d => setFlds (rFabStatus d) [(fFabStatusDevice, 16 * st fModStrapsGroup + st fModStrapsSlot),
    (fFabStatusGroupSize, st fModStrapsGsize), (fFabStatusGroupCount, st fModStrapsGcount), (fFabStatusRole, st fModStrapsRole),
    (fFabStatusDisc, 1)] s) s
  let s := setFld rEscStatus fEscStatusRole (match ownRole s with | 0 => 1 | 1 => 2 | _ => 0) s
  if strapsClash s then stageFail 8 10 0 (setFabStatus fFabStatusDisc 4 s)
  else
    let ls := match bootRatios s with | some e => ratioLinks s e | none => strapLinks s
    let bad := badLanes s
    let ls := ls.map (fun l => { l with bad := (rangeFrom l.lane l.width).filter (fun i => bad.contains (l.lg, i)) })
    (List.range 18).foldl (fun s k => updLg k s) { s with links := ls }

/-- STAGE_SELF_TESTS: the clusters in `fails` fail; every other good cluster passes. -/
def execStageSelfTests (fails : List Nat) (b : Nat) (s : State) : Host.Outcome State Fault Refusal :=
  .next (whenS (stageReady s 7) (fun s =>
    let s := advanceTo b s
    let ms := stageMs s
    let s := ((List.range nClusters).filter fails.contains).foldl (fun s p => selfTestFail fails p s) s
    let s := (List.range nGal).foldl (fun s g => if galClocked s g && galIdle s g then parkGal g 0 s else s) s
    enterDiscovery (stageDone 7 ms (updStatus (updFreqs s)))) s)

/-! ### Stage 0x08 (13 R376-R379; 09 R292) -/

/-- STAGE_TOPOLOGY_DISCOVERY: once the condition of the device's role holds, discovery has agreed, and a device that is not the
reference steps its count once to `refBeat`, its reference's count. -/
def execStageTopologyDiscovery (refBeat b : Nat) (s : State) : Host.Outcome State Fault Refusal :=
  .next (whenS (stageReady s 8) (fun s =>
    let s := advanceTo b s
    whenS (roleAgrees s) (fun s =>
      let ms := stageMs s
      let s := setFabStatus fFabStatusDisc 3 s
      let s := setFld rEscStatus fEscStatusStepDone 1 s
      let s := if fld s rEscStatus fEscStatusRole = 0 then setFld rEscStatus fEscStatusAligned 1 s
        else
          let s' := raise rEscFault 2 (rEscFaultCnt 2) s
          let s' := setFld rEscAlign fEscAlignOffset (ofSigned 32 ((s.beat : Int) - refBeat)) s'
          { s' with beat := refBeat }
      stageDone 8 ms s) s) s)

/-- DISCOVERY_TIMEOUT: 400 ms into stage 0x08 without the role's condition. -/
def execDiscoveryTimeout (b : Nat) (s : State) : Host.Outcome State Fault Refusal :=
  .next (whenS (stageReady s 8) (fun s =>
    let s := advanceTo b s
    whenS (s.stageAt + 400000000 ≤ s.beat && !roleAgrees s) (fun s =>
      stageFail 8 9 0 (setFabStatus fFabStatusDisc 4 s)) s) s)

/-! ### Stage 0x09 (08 R277) -/

/-- READY: the training record is written, and what the next warm start would test again is forgotten. -/
def enterReady (ms : Nat) (s : State) : State :=
  let s := stageDone 9 ms s
  let total := (List.range 9).foldl (fun n k => n + rdN s (rBruStageMs k)) 0
  let s := setFld rBruStatus fBruStatusStartMs (min 0xFFFF total) s
  updStatus { setFld rModStatus fModStatusReady 1 s with trainRecord := true, suspects := [] }

/-- Where the boot image is placed in HBM. -/
def bootAddr (s : State) (n : Nat) : Nat := Config.bootChunk % ((hbmTop s - n) / 65536 + 1) * 65536

/-- The admitted boot image activated for switch beat `S`. -/
def activateBoot (S : Nat) (s : State) : State :=
  let s := wr rCalSwitchBeat (BitVec.ofNat 64 S) s
  let s := advanceTo S (activate stg S s)
  let s := (List.range nClusters).foldl (fun s p => if fld s (rClRtrCommit p) fClRtrCommitArmed = 1 then commitDetour p s else s) s
  let on := ((List.range nLogical).filter (held s)).map (physOf s)
  enterActive false S (moveSlots false (on.foldl (fun s p => startStreams p s) s))

/-- STAGE_CALIBRE_LOAD: the boot image is loaded, admitted and activated 1,000,000 beats after admission; with none, or with one
that admission refuses, the part reaches READY with no active image. -/
def execStageCalibreLoad (bad : List Nat) (b : Nat) (s : State) : Host.Outcome State Fault Refusal :=
  .next (whenS (stageReady s 9) (fun s =>
    let s := advanceTo b s
    let o := flashObj s otImage
    if o.isEmpty then enterReady (stageMs s) s
    else
      let a := bootAddr s o.length
      match admitImage bad (stageImage a o.length (fwWrite a o s)) with
      | (some _, s) => enterReady (stageMs s) s
      | (none, s) =>
        let s := activateBoot (s.beat + 1000000) s
        enterReady (stageMs s) s) s)

end Sys2Proof.Machine
end

