-- ==== Sys2Proof/Machine/Bru.lean ====
section
/-! DEFINITION. The BRU mailbox's remaining services (15 Table 15-13): status, error records as CPER (R465), planned moves and firmware
(R463). -/
namespace Sys2Proof.Machine

/-- STATUS. -/
def execBruStatus (rid : Nat) (s : State) : Host.Outcome State Fault Refusal :=
  .next (serviceRead mbBru 0x1101 rid [] (fun s => [rdN s rBruStatus, rdN s rBruFault, rdN s rBruLog]) s)

/-! ### CPER (15 R465) -/

/-- The vendor section of a record (Table 15-8). -/
def vendorBytes (r : Record) : List Byte :=
  natLe 4 1 ++ natLe 2 r.cls ++ natLe 2 r.unitKind ++ natLe 2 r.unit ++ natLe 2 r.logical ++ natLe 1 r.cause ++ natLe 1 r.unitCause ++
    natLe 2 r.action ++ natLe 8 r.beat ++ natLe 4 (r.op % 2 ^ 20 + r.layer % 2 ^ 12 * 2 ^ 20) ++ natLe 2 r.seq ++
    natLe 2 (ofSigned 16 r.temp) ++ natLe 2 r.volt ++ natLe 2 r.freq ++ natLe 4 r.generation ++ natLe 8 partSerial ++
    natLe 4 r.stallUs ++ natLe 4 r.replays ++ natLe 8 r.num ++ padTo 32 r.detail

/-- Severity of a class: 2 corrected, 1 fatal, 0 recoverable; a record of class PROGRAM, for which the rule names none, is
recoverable. -/
def severity (cls : Nat) : Nat := if cls = 1 then 2 else if cls = 5 then 1 else 0

/-- The section type GUID in the byte order of UEFI. -/
def sectionGuid : List Byte := [0xA4, 0x91, 0x7E, 0x3C, 0x52, 0x0B, 0x6D, 0x4F, 0x8E, 0x19, 0xD2, 0x4A, 0x6B, 0x0F, 0x5C, 0x38]

/-- A record as a CPER of 296 bytes: record header, one section descriptor, the vendor section; the layout of the first two is the
UEFI specification's (log 62). -/
def cperBytes (r : Record) : List Byte :=
  let ids := (List.range 32).map Config.cperIds
  let head := [0x43, 0x50, 0x45, 0x52] ++ natLe 2 0x0101 ++ natLe 4 0xFFFFFFFF ++ natLe 2 1 ++ natLe 4 (severity r.cls) ++ natLe 4 0 ++
    natLe 4 296 ++ natLe 8 0 ++ List.replicate 32 0 ++ ids ++ natLe 8 r.num ++ natLe 4 0 ++ natLe 8 0 ++ List.replicate 12 0
  let desc := natLe 4 200 ++ natLe 4 96 ++ natLe 2 0x0100 ++ natLe 1 0 ++ natLe 1 0 ++ natLe 4 1 ++ sectionGuid ++
    List.replicate 16 0 ++ natLe 4 (severity r.cls) ++ List.replicate 20 0
  head ++ desc ++ vendorBytes r

/-- The records from number `first` on, oldest first, at most `n`. -/
def recordsFrom (s : State) (first n : Nat) : List Record := (s.records.reverse.filter (fun r => first ≤ r.num)).take n

/-- LOG_EXPORT. -/
def execLogExport (rid a0 a1 a2 : Nat) (s : State) : Host.Outcome State Fault Refusal :=
  .next (service mbBru 0x1102 rid [a0, a1, a2] (fun s =>
    let oldest := s.nRecords + 1 - s.records.length
    let rs := recordsFrom s a2 a1
    if a1 = 0 ∨ 4096 < a1 ∨ a2 < oldest ∨ a2 = 0 ∨ hbmTop s < a0 + 296 * rs.length then (.done stBadArg [], s)
    else (ok [rs.length, a2 + rs.length], fwWrite a0 (rs.flatMap cperBytes) s)) s)

/-! ### Planned moves and firmware (15 R463) -/

def sxNoSpare : Nat := 0x90
def sxFwSign : Nat := 0x93
def sxMoveBusy : Nat := 0x94

/-- FENCE_MOVE: the call runs until the number is relaunched on its new holder; a fault move of the same number serves it. -/
def execFenceMove (rid l : Nat) (s : State) : Host.Outcome State Fault Refusal :=
  .next (service mbBru 0x1103 rid [l] (fun s =>
    if !held s l then (.done stBadArg [], s)
    else if moving s l || inMove s l then (.runs [physOf s l], s)
    else if moveBusy s then (.done sxMoveBusy [], s)
    else if sparesLeft s = 0 then (.done sxNoSpare [], s)
    else (.runs [physOf s l], s)) s)

/-- Whether and how a FENCE_MOVE call ends. -/
def fenceMovePoll (c : Call) (s : State) : Option (Nat × List Nat × State) :=
  let l := c.args.getD 0 nLogical
  if !held s l then some (sxNoSpare, [], s)
  else if physOf s l ≠ c.keep.getD 0 noPhys ∧ !inMove s l ∧ (c.beat < s.relaunched ∨ !imageActive s) then some (stOk, [], s)
  else none

/-- The object type a target runs (Table 15-13). -/
def targetType (t : Nat) : Nat := match t with | 0 => otCcFw | 1 => otCoreFw | 2 => otCidFw | _ => otFidFw

/-- New firmware run by its first unit: noted, and measured unless it runs already. -/
def runFirmware (type : Nat) (h : List Byte) (s : State) : State :=
  if runningHeader s type = h then s else measure h { s with running := tabPut type h s.running }

/-- FW_UPDATE: the object is verified and stored; cluster controllers take it up in rounds, every other target at once. -/
def execFwUpdate (rid a0 a1 a2 : Nat) (s : State) : Host.Outcome State Fault Refusal :=
  .next (service mbBru 0x1106 rid [a0, a1, a2] (fun s =>
    if 4 < a0 ∨ hbmTop s < a1 + a2 then (.done stBadArg [], s)
    else if moveBusy s then (.done sxMoveBusy [], s)
    else
      let o := hbmPeek s a1 a2
      let (c, s) := verify (targetType a0) o s
      let h := o.take objHeader
      if c ≠ vcOk then (.done sxFwSign [], s)
      else if a0 = 0 then
        if sparesLeft s = 0 then (.done sxNoSpare [], s)
        else (.runs [], { setFlash otCcFw o s with fwNew := (List.range nClusters).filter (fun p => clState s p == csStandby) })
      else if a0 = 2 then
        let bank := fld s rSecStatus fSecStatusBank
        let s := setFlash (if bank = 0 then bankB else otCidFw) o s
        (ok [], runFirmware otCidFw h (setFld rSecStatus fSecStatusBank (1 - bank) s))
      else (ok [], runFirmware (targetType a0) h (setFlash (targetType a0) o s))) s)

/-- Whether a rollout of cluster controller firmware is in progress. -/
def rollingOut (s : State) : Bool := (look s.calls mbBru).any (fun c => c.code == 0x1106)

/-- Clusters that a round has freed loaded with the new firmware: spares again, where their trial passes and no defect record is
pending (15 Table 15-5). -/
def loadFreed (fails : List Nat) (s : State) : State :=
  (List.range nClusters).foldl (fun s p =>
    if clState s p = csFenced ∧ nLogical ≤ logicalOf s p ∧ fld s (rBruCl p) fBruClClass ≠ 2 ∧ fld s (rBruCl p) fBruClPending = 0 ∧
        !fails.contains p ∧ galClocked s (galleryOf p) then
      setClState p csStandby { s with fwNew := p :: s.fwNew }
    else s) s

/-- Numbers whose holders run the old firmware. -/
def notRolled (s : State) : List Nat := (List.range nLogical).filter (fun l => held s l && !s.fwNew.contains (physOf s l))

/-- FW_ROLLOUT_ROUND at beat `b`: at a step boundary, 1 s after the last round at the earliest and with no move under way, up to
SPARES_LEFT numbers move onto updated spares for map beat `at_`; `fails` are the spares whose trials fail. -/
def execFwRolloutRound (at_ : Nat) (fails : List Nat) (b : Nat) (s : State) : Host.Outcome State Fault Refusal :=
  let s := advanceTo b s
  .next (whenS (rollingOut s && !moveBusy s && atBoundary s && s.beat ≤ at_ && s.fwRound.all (fun t => t + 1000000000 ≤ s.beat)) (fun s =>
    let s := updStatus (loadFreed fails s)
    let s := runFirmware otCcFw ((flashObj s otCcFw).take objHeader) { s with fwRound := some s.beat }
    ((notRolled s).take (sparesLeft s)).foldl (fun s l =>
      moveOff l at_ fails 865 (updStatus (fenceCluster (physOf s l) s))) s) s)

/-- Whether an FW_UPDATE call ends: every number runs on updated clusters. -/
def fwPoll (s : State) : Option (Nat × List Nat × State) :=
  if (notRolled s).isEmpty && !moveBusy s then some (stOk, [], { updStatus (loadFreed [] s) with fwNew := [], fwRound := none }) else none

end Sys2Proof.Machine
end

