-- ==== Sys2Proof/Machine/Observe.lean ====
section
/-! DEFINITION. Observation (16): freezing, clearing and snapshots of counters, trace buffers as they are read, the wait-for graph,
and the OBS mailbox. -/
namespace Sys2Proof.Machine

/-! ### Counters (16 R469-R473) -/

/-- Whether a control-space offset holds a counter value, a CNT_DONE, or a counter's configuration (16 Table 16-1). -/
def isCounter (k : Nat) : Bool :=
  let o := k % 0x10000
  if 0x30000000 ≤ k then 0x8200 ≤ o && o < 0x8600
  else if 0x1000000 ≤ k || (0x400000 ≤ k && k < 0x600000) then 0x1100 ≤ k % 0x100000 && k % 0x100000 < 0x1200
  else 0xC20000 ≤ k && k < 0xC30000
def isCounterCfg (k : Nat) : Bool :=
  let o := k % 0x10000
  if 0x30000000 ≤ k then 0x8000 ≤ o && o < 0x8200
  else if 0x1000000 ≤ k || (0x400000 ≤ k && k < 0x600000) then 0x1000 ≤ k % 0x100000 && k % 0x100000 < 0x1100
  else 0xC10000 ≤ k && k < 0xC20000

/-- Every counter stopped, with a FREEZE record in every trace buffer (16 R472, R477). -/
def freezeAll (s : State) : State :=
  let units := List.range nClusters ++ (List.range nMsd).map (1000 + ·) ++ [2000, 2001]
  units.foldl (fun s u => traceRec u 8 0 noIds [] s) (setFld rObsStatus fObsStatusFrozen 1 s)

/-- Every counter of every bank 0, with CNT_DONE and the OVF bits; configurations stay (16 R473). -/
def clearAll (s : State) : State :=
  let s := { s with regs := s.regs.filter (fun e => !isCounter e.1) }
  (s.regs.filter (fun e => isCounterCfg e.1 && fget fClCntCfgOvf e.2 == 1)).foldl (fun s e => setFld e.1 fClCntCfgOvf 0 s) s

/-- The armed CLEARs that the present beat has reached. -/
def runClears (s : State) : State :=
  if s.clears.any (· ≤ s.beat) then clearAll { s with clears := s.clears.filter (fun b => !(b ≤ s.beat)) } else s

/-- COUNTER_CLEAR_BEAT at beat `b`. -/
def execCounterClearBeat (b : Nat) (s : State) : Host.Outcome State Fault Refusal := .next (runClears (advanceTo b s))

/-- COUNTER_THAW at beat `b`: a CLEAR at the same beat is applied first. -/
def execCounterThaw (b : Nat) (s : State) : Host.Outcome State Fault Refusal :=
  let s := runClears (advanceTo b s)
  .next (whenS (s.thaws.any (· ≤ s.beat)) (fun s =>
    setFld rObsStatus fObsStatusFrozen 0 { s with thaws := s.thaws.filter (fun b => !(b ≤ s.beat)) }) s)

/-! ### Snapshots (16 R474-R476) -/

/-- A bank's record: header and counter words (Table 16-3). A BAD cluster's words are zero, with ABSENT. -/
def bankRecord (s : State) (id kind flags unit logical n cnt leaf : Nat) (absent : Bool) : List Byte :=
  natLe 1 kind ++ natLe 1 (bit (frozen s) + 2 * bit absent + flags) ++ natLe 2 unit ++ natLe 2 logical ++ natLe 2 n ++
    natLe 4 id ++ natLe 4 0 ++ natLe 8 (leafCount s leaf) ++ List.replicate 40 0 ++
    (List.range n).flatMap (fun i => natLe 8 (if absent then 0 else rdN s (cnt + 8 * i)))

/-- Every bank's record at its offset in the area. -/
def bankRecords (s : State) (id : Nat) : List (Nat × List Byte) :=
  (List.range nClusters).map (fun p => (0x40 + 576 * p, bankRecord s id 0
    (if clState s p = csFenced ∨ galState s (galleryOf p) = gsParked then 4 else 0) p (logicalOf s p) 64 (rClCnt p 0) (leafCl p)
    (clState s p == csBad))) ++
  (List.range nMsd).map (fun n => (0x79840 + 320 * n, bankRecord s id 4 0 n 0xFFFF 32 (rMsdCnt n 0) (leafMsd n) false)) ++
  [0, 1].map (fun d => (0x7AC40 + 320 * d, bankRecord s id 5 0 d 0xFFFF 32 (rFabCnt d 0) (leafFab d) false)) ++
  (List.range nGal).map (fun g => (0x7AEC0 + 128 * g, bankRecord s id 2 0 g 0xFFFF 8 (rObsGalCnt (8 * g)) (g / 4) false))

/-- Every bank copied into its shadow. -/
def takeSnapshot (s : State) : State :=
  let id := s.nSnaps + 1
  { s with nSnaps := id, snaps := s.snaps ++ [⟨id, s.beat, activeGen s, bankRecords s id⟩] }

/-- Bytes written by firmware to the firmware region of MSDn's buffer. -/
def fwBuf (n o : Nat) (l : List Byte) (s : State) : State :=
  match bufPlace s n o with
  | .at_ m o' => bufStore m o' l s
  | .no _ => s

/-- The snapshot whose frames are being written: the oldest. -/
def snapArea (id : Nat) : Nat := 0x3800000 + id % 2 * 0x80000

/-- STAIR_SNAPSHOT_DATA: the frames of one bank of a snapshot arrive at the root; an area still being written by an earlier
snapshot makes them wait (16 R476). -/
def execStairSnapshotData (id off : Nat) (s : State) : Host.Outcome State Fault Refusal :=
  match s.snaps.find? (fun z => z.id == id) with
  | none => .next s
  | some z =>
    if s.snaps.any (fun x => x.id + 2 ≤ id && x.id % 2 == id % 2) then .next s
    else match look z.banks off with
      | none => .next s
      | some l =>
        let s := fwBuf 14 (snapArea id + off) l s
        .next { s with snaps := s.snaps.map (fun x => if x.id == id then { x with banks := tabDel off x.banks } else x) }

/-- SNAPSHOT_AREA_WRITTEN: every bank's record is in place; the header is written, its snap_id last. -/
def execSnapshotAreaWritten (s : State) : Host.Outcome State Fault Refusal :=
  match s.snaps.find? (fun z => z.banks.isEmpty) with
  | none => .next s
  | some z =>
    let head := natLe 4 0x50414E53 ++ natLe 2 1 ++ natLe 2 0 ++ natLe 4 z.id ++ natLe 4 0 ++ natLe 8 z.beat ++ natLe 4 z.gen ++
      List.replicate 36 0
    let s := fwBuf 14 (snapArea z.id) head { s with snaps := s.snaps.erase z }
    .next (setFld rObsStatus fObsStatusSnapId z.id s)

/-! ### Trace buffers (16 R477-R479) -/

/-- A queue's records written while the buffer takes them. -/
def drainTrace (u : Nat) : Nat → State → State
  | 0, s => s
  | fuel + 1, s =>
    match (trace s u).queue with
    | [] => s
    | r :: t =>
      if traceRoom s u then drainTrace u fuel (traceWrite u r (setTrace u { trace s u with queue := t } s)) else s

/-- Whether a number names a trace buffer. -/
def isTraceUnit (u : Nat) : Bool := u < nClusters || (1000 ≤ u && u < 1016) || u == 2000 || u == 2001

/-- TRACE_LOST_RECORD: room has returned; the number dropped since the last LOST record goes out in one. -/
def execTraceLostRecord (u : Nat) (s : State) : Host.Outcome State Fault Refusal :=
  if isTraceUnit u then .next (
    let s := drainTrace u 9 s
    let n := (trace s u).lost
    whenS (n != 0 && traceRoom s u && (trace s u).queue.isEmpty) (fun s =>
      setTrace u { trace (traceRec u 9 0 noIds (natLe 4 n) s) u with lost := 0 } (traceRec u 9 0 noIds (natLe 4 n) s)) s)
  else .fault .noSuchUnit

/-- A write of TRC_CTL: REARM clears the record count of a stopped buffer and writing resumes (Table 16-11). -/
def trcCtlWrite (u v : Nat) (s : State) : State :=
  let keep := if 2000 ≤ u then 0xF03 else 3
  let s := wr (trcCtl u) (BitVec.ofNat 64 (v &&& keep)) s
  if bitAt v 2 then drainTrace u 9 (setTrace u { trace s u with count := 0 } s) else s

/-- The word TRC_ADDR names, and TRC_ADDR with its word index advanced (16 R479). -/
def trcDataRead (u : Nat) (s : State) : Nat × State :=
  let k := trcCtl u + 0x10
  let i := fld s k fClTrcAddrRecord
  let w := fld s k fClTrcAddrWord
  (leAt (8 * w) 8 (tabGet (fun _ => []) (trace s u).recs i), setFld k fClTrcAddrWord ((w + 1) % 4) s)

/-- TRC_DATA_READ. -/
def execTrcDataRead (u : Nat) (s : State) : Host.Outcome State Fault Refusal :=
  if isTraceUnit u then
    let (v, s) := trcDataRead u s
    .next (answerWith stOk [v] s)
  else .fault .noSuchUnit

/-! ### The wait-for graph (16 R482-R485) -/

/-- A node: kind (0 stream, 1 engine queue, 2 collective queue, 3 context, 4 remote), unit, sub-unit. -/
structure Node where
  kind : Nat
  unit : Nat
  sub : Nat
deriving DecidableEq, Repr

/-- Streams of an image program that can signal semaphore `i` of number `l`, each with the reason code (0 signaller, 1 done
semaphore): the signaller table of R482. -/
def signallers (s : State) (l i : Nat) : List (Node × Nat) :=
  (blocksOf s 0).flatMap (fun b => (List.range 28).flatMap (fun st =>
    let cmds := (List.range (blkEnd s 0 b.2 st - blkStart s 0 b.2 st)).map (fun k => blkCmd s 0 b.2 (blkStart s 0 b.2 st + k))
    let halted := !held s b.1 || streamState s (physOf s b.1) st == ssHalted
    let sig := cmds.any (fun c => cOpcode c == opSemSignal && cOpA c % 2 ^ 10 == l && bitsAt 10 6 (cOpA c) == i && !bitAt (cOpA c) 16)
    let don := b.1 == l && cmds.any (fun c => cDoneAdd c != 0 && cDoneSem c == i)
    if halted then [] else (if sig then [(⟨0, b.1, st⟩, 0)] else []) ++ (if don then [(⟨0, b.1, st⟩, 1)] else [])))

/-- Engine and collective queues with a pending command whose done target is a semaphore. -/
def doneQueues (s : State) (l i : Nat) : List (Node × Nat) :=
  let hit (target add : Nat) : Bool := add != 0 && target % 2 ^ 10 == l && bitsAt 10 6 target == i
  (List.range nMsd).flatMap (fun n => (List.range 32).filterMap (fun q =>
    let k := fld s (rMsdQueue n q) fMsdQueuePending
    let c := fld s (rMsdQueue n q) fMsdQueueConsumer
    if (List.range k).any (fun x =>
        let b := bufRead s n (q * 0x20000 + 64 * ((c + x) % 2047)) 64
        hit (seTarget b) (seDoneAdd b)) then some ((⟨1, n, q⟩ : Node), 1) else none)) ++
  s.colls.filterMap (fun e => if hit (cdTarget e.2.bytes) (cdDoneAdd e.2.bytes) then some ((⟨2, ownDev s, e.1⟩ : Node), 1) else none)

/-- The launched command that heads a unit's queue: its stream (16 Table 16-6). -/
def queueHead (s : State) (p unit : Nat) : Option Nat :=
  let c := cluster s p
  if unit = 1 then (queued c).head?.map (·.l.stream) else if unit = 2 then c.vec.head?.map (·.l.stream)
  else if unit = 3 then c.subs.head?.map (·.l.stream) else none

/-- Members whose contribution to a collective has not arrived. -/
def awaited (s : State) (c : Coll) : List Nat :=
  let d := c.bytes
  (collMembers s d).filter (fun m => m != ownDev s &&
    (if cdOp d = 4 then !s.barriers.any (fun e => e.1 == cdId d && e.2 == m)
     else !s.collParts.any (fun x => x.coll == cdId d && x.dev == m)))

/-- The waiting nodes. -/
def waiters (s : State) : List Node :=
  ((List.range nLogical).filter (held s)).flatMap (fun l => (List.range 28).filterMap (fun st =>
    if streamState s (physOf s l) st = ssWaiting then some (⟨0, l, st⟩ : Node) else none)) ++
  (List.range nMsd).flatMap (fun n => (List.range 32).filterMap (fun q =>
    if fld s (rMsdQueue n q) fMsdQueueState = qsActive then some (⟨1, n, q⟩ : Node) else none)) ++
  s.colls.map (fun e => ⟨2, ownDev s, e.1⟩) ++
  ((List.range nLogical).filter (held s)).flatMap (fun l => (List.range 60).filterMap (fun x =>
    if ctxState s (physOf s l) x = dxActive then some (⟨3, l, x⟩ : Node) else none))

/-- The edges from a node, each with its reason (Table 16-6). -/
def edgesFrom (s : State) (n : Node) : List (Node × Nat) :=
  match n.kind with
  | 0 =>
    let p := physOf s n.unit
    let obj := fld s (rClStream p n.sub) fClStreamWaitObj
    match fld s (rClStream p n.sub) fClStreamWaitKind with
    | 2 => signallers s n.unit obj ++ doneQueues s n.unit obj
    | 3 => ((queueHead s p obj).toList).map (fun st => ((⟨0, n.unit, st⟩ : Node), 3))
    | 4 =>
      ((List.range 60).filter (fun x => ctxState s p x == dxActive)).map (fun x => ((⟨3, n.unit, x⟩ : Node), 2)) ++
        (cluster s p).signals.map (fun l => ((⟨4, cOpA l.cmd % 2 ^ 10, 0⟩ : Node), 2))
    | 5 => [(⟨3, n.unit, obj⟩, 3)]
    | _ => []
  | 2 => match look s.colls n.sub with
    | none => []
    | some c => (awaited s c).map (fun d => ((⟨4, d, n.sub⟩ : Node), 4))
  | _ => []

/-- A wait-for graph: nodes, and edges as (from, to, reason) by node index. -/
structure Graph where
  nodes : List Node
  edges : List (Nat × Nat × Nat)
deriving DecidableEq, Repr

/-- The graph of the present state. -/
def graphOf (s : State) : Graph :=
  let ws := waiters s
  let es := ws.flatMap (fun w => (edgesFrom s w).map (fun e => (w, e.1, e.2)))
  let ns := (ws ++ es.map (fun e => e.2.1)).eraseDups
  ⟨ns, es.map (fun e => (ns.idxOf e.1, ns.idxOf e.2.1, e.2.2))⟩

/-- Nodes that a set of nodes reaches in at most `fuel` edges more. -/
def reachAll (g : Graph) : Nat → List Nat → List Nat
  | 0, l => l
  | fuel + 1, l => reachAll g fuel ((l ++ (g.edges.filter (fun e => l.contains e.1)).map (fun e => e.2.1)).eraseDups)
def reachFrom (g : Graph) (i : Nat) : List Nat :=
  reachAll g g.nodes.length ((g.edges.filter (fun e => e.1 == i)).map (fun e => e.2.1)).eraseDups

/-- Strongly connected components of two nodes or more, and nodes with an edge to themselves (16 R483). -/
def cyclesOf (g : Graph) : List (List Nat) :=
  let r := (List.range g.nodes.length).map (reachFrom g)
  let go (i j : Nat) : Bool := (r.getD i []).contains j
  ((List.range g.nodes.length).filter (fun i => go i i && !(List.range i).any (fun j => go i j && go j i))).map (fun i =>
    (List.range g.nodes.length).filter (fun j => go i j && go j i))

/-- A node's record (Table 16-7). -/
def nodeRecord (s : State) (g : Graph) (cyc : List (List Nat)) (i : Nat) : List Byte :=
  let n := g.nodes.getD i ⟨4, 0, 0⟩
  let p := physOf s n.unit
  let r := rClStream p n.sub
  let stream := n.kind == 0
  let wk := if stream then fld s r fClStreamWaitKind else if n.kind = 2 then
      (if ((look s.colls n.sub).map (fun c => cdOp c.bytes)) == some 4 then 7 else 6) else 0
  let obj := if stream then fld s r fClStreamWaitObj else 0
  let cur := if stream && wk == 2 then semOf s p obj else 0
  let ids := match (if stream then headOf s p n.sub else none) with
    | some h => cIds h.cmd
    | none => noIds
  let flags := bit (stream && wk == 2 && !g.edges.any (fun e => e.1 == i)) + 2 * bit (cyc.any (·.contains i))
  natLe 1 1 ++ natLe 1 n.kind ++ natLe 2 i ++ natLe 2 n.unit ++ natLe 1 n.sub ++ natLe 1 wk ++
    natLe 8 (if stream then rdN s (rClStreamSince p n.sub) else 0) ++ natLe 4 (if stream then fld s r fClStreamWaitValue else 0) ++
    natLe 4 cur ++ natLe 4 (ids.op % 2 ^ 20 + ids.layer * 2 ^ 20) ++ natLe 2 ids.seq ++ natLe 1 obj ++ natLe 1 flags

/-- A cycle's records: up to 14 members each. -/
def cycleRecords (k : Nat) (ms : List Nat) : List (List Byte) :=
  (List.range ((ms.length + 13) / 14)).map (fun i =>
    let part := (ms.drop (14 * i)).take 14
    padTo 32 (natLe 1 3 ++ natLe 1 part.length ++ natLe 2 k ++ part.flatMap (natLe 2)))

/-- The scan's bytes within an area, and its counts of cycles, nodes and edges (16 R484). -/
def scanBytes (s : State) (room : Nat) : List Byte × Nat × Nat × Nat :=
  let g := graphOf s
  let cyc := cyclesOf g
  let recs := ((List.range cyc.length).flatMap (fun k => cycleRecords k (cyc.getD k []))) ++
    (List.range g.nodes.length).map (nodeRecord s g cyc) ++
    g.edges.map (fun e => padTo 32 (natLe 1 2 ++ natLe 1 e.2.2 ++ natLe 2 e.1 ++ natLe 2 e.2.1))
  let fit := (room - 64) / 32
  let head := natLe 4 0x46415757 ++ natLe 2 1 ++ natLe 2 (bit (fit < recs.length)) ++ natLe 8 s.beat ++ natLe 4 (activeGen s) ++
    natLe 4 cyc.length ++ natLe 4 g.nodes.length ++ natLe 4 g.edges.length
  (padTo 64 head ++ (recs.take fit).flatten, cyc.length, g.nodes.length, g.edges.length)

/-- CYCLE set when a scan has found one (16 R485). -/
def noteCycles (n : Nat) (s : State) : State := whenS (n != 0) (raise rObsStatus 2 rObsStatusCnt) s

/-- AUTO_HANG_SCAN at beat `b`. -/
def execAutoHangScan (b : Nat) (s : State) : Host.Outcome State Fault Refusal :=
  let s := advanceTo b s
  let limit := rdN s rObsHangCtl
  let hung := (List.range nLogical).any (fun l => held s l && (List.range 28).any (fun st =>
    let p := physOf s l
    let k := fld s (rClStream p st) fClStreamWaitKind
    streamState s p st == ssWaiting && (k == 2 || k == 4 || k == 5) && limit < s.beat - rdN s (rClStreamSince p st)))
  .next (whenS (limit != 0 && hung && fld s rObsStatus fObsStatusScanning == 0 && s.lastScan.all (fun t => t + 10000000000 ≤ s.beat)) (fun s =>
    let (l, c, _, _) := scanBytes s 0x100000
    noteCycles c (fwBuf 14 0x3900000 l { s with lastScan := some s.beat })) s)

/-! ### The OBS mailbox (16 R486) -/

def sxTrigPast : Nat := 0xA0
def sxScanBusy : Nat := 0xA1
def sxAreaSmall : Nat := 0xA2

/-- OBS_THAW. -/
def execObsThaw (rid a0 : Nat) (s : State) : Host.Outcome State Fault Refusal :=
  .next (service mbObs 0x1201 rid [a0] (fun s =>
    if a0 < s.beat + 10000 then (.done sxTrigPast [], s) else (ok [], { s with thaws := s.thaws ++ [a0] })) s)

/-- OBS_CLEAR. -/
def execObsClear (rid a0 : Nat) (s : State) : Host.Outcome State Fault Refusal :=
  .next (service mbObs 0x1202 rid [a0] (fun s =>
    if a0 < s.beat + 10000 then (.done sxTrigPast [], s) else (ok [], { s with clears := s.clears ++ [a0] })) s)

/-- SNAP_NOW: the snapshot is armed 10,000 beats ahead, and the call runs until its area is written. -/
def execSnapNow (rid : Nat) (s : State) : Host.Outcome State Fault Refusal :=
  .next (service mbObs 0x1203 rid [] (fun s => (.runs [], { s with snapAt := some (s.beat + 10000) })) s)

/-- Where a SNAP_NOW call stands. -/
def snapPoll (keep : List Nat) (s : State) : Option (Nat × List Nat) :=
  match keep with
  | [id] => if s.snaps.any (fun z => z.id == id) || s.snapAt.isSome then none else some (stOk, [id])
  | _ => none

/-- The trace buffer that a unit kind of Table 15-8 and a unit name: a cluster, an MSD, a fabric die. -/
def dumpUnit (kind unit : Nat) : Option Nat :=
  if kind = 0 ∧ unit < nClusters then some unit else if kind = 4 ∧ unit < nMsd then some (1000 + unit)
  else if kind = 5 ∧ unit < 2 then some (2000 + unit) else none

/-- TRACE_DUMP. -/
def execTraceDump (rid a0 a1 a2 : Nat) (s : State) : Host.Outcome State Fault Refusal :=
  .next (service mbObs 0x1204 rid [a0, a1, a2] (fun s =>
    match dumpUnit a0 a1 with
    | none => (.done stBadArg [], s)
    | some u =>
      if hbmTop s < a2 + 65536 then (.done stBadArg [], s)
      else
        let ptr := trcCtl u + 8
        let n := if fld s ptr fClTrcPtrWraps = 0 then fld s ptr fClTrcPtrWr else 2048
        let s := fwWrite a2 ((List.range n).flatMap (fun i => padTo 32 (tabGet (fun _ => []) (trace s u).recs i))) s
        (ok [n, rdN s ptr], s)) s)

/-- HANG_SCAN. -/
def execHangScan (rid a0 a1 : Nat) (s : State) : Host.Outcome State Fault Refusal :=
  .next (service mbObs 0x1205 rid [a0, a1] (fun s =>
    if fld s rObsStatus fObsStatusScanning = 1 then (.done sxScanBusy [], s)
    else if a1 < 65536 then (.done sxAreaSmall [], s)
    else if hbmTop s < a0 + a1 then (.done stBadArg [], s)
    else (.runs [], setFld rObsStatus fObsStatusScanning 1 s)) s)

/-- The end of a HANG_SCAN call: the graph is written and counted. -/
def hangScanEnd (a0 a1 : Nat) (s : State) : List Nat × State :=
  let (l, c, n, e) := scanBytes s a1
  ([c, n, e], noteCycles c (fwWrite a0 l (setFld rObsStatus fObsStatusScanning 0 s)))

end Sys2Proof.Machine
end

