-- ==== Sys2Proof/Machine/Esc.lean ====
section
/-! DEFINITION. The escapement (09): leaf counters at markers, alignment with the reference device, beat triggers, and the ESC
mailbox. -/
namespace Sys2Proof.Machine

/-! ### Markers (09 R282, R283) -/

/-- Leaf counters of the part (Table 09-1). -/
def nLeaves : Nat := 919

/-- The number of LOADED leaves shown in ESC.STATUS. -/
def updLoaded (s : State) : State :=
  setFld rEscStatus fEscStatusLoaded (s.leaves.filter (fun e => e.2.loaded)).length s

def leafOf (s : State) (i : Nat) : Leaf := tabGet (fun _ => Leaf.reset) s.leaves i
def setLeaf (i : Nat) (l : Leaf) (s : State) : State := { s with leaves := tabSet (fun _ => Leaf.reset) s.leaves i l }

/-- A slip recorded: LEAF_SLIP with the leaf's index and a fault report; a second slip within 1 s makes it a faulty unit. -/
def slipped (i : Nat) (s : State) : State :=
  let l := leafOf s i
  let again := l.lastSlip ≠ 0 && s.beat < l.lastSlip + 1000000000
  let s := raise rEscFault 0 (rEscFaultCnt 0) (setFld rEscFault fEscFaultLastLeaf i s)
  addRecord (mkRecord (if again then 3 else 1) 8 i 0xD 0) (setLeaf i { l with off := 0, lastSlip := s.beat, faulty := l.faulty || again } s)

/-- ESC_MARKER: a marker reaches leaf `i`, whose count is `behind` beats behind it or `ahead` beats ahead of it. A leaf that is
not loaded takes the marker's count; one behind steps forward; one ahead holds until the marker's count has come up. -/
def execEscMarker (i behind ahead : Nat) (s : State) : Host.Outcome State Fault Refusal :=
  onUnit i nLeaves s (fun s =>
    if !(leafOf s i).loaded then updLoaded (setLeaf i { leafOf s i with off := 0, loaded := true } s)
    else if behind = 0 ∧ ahead = 0 then s
    else slipped i (elapse (ahead - behind) s))

/-! ### Alignment (09 R292-R294) -/

/-- The device this one aligns to: a worker to its manager, a manager to the principal. -/
def reference (s : State) : Nat := if fld s rEscStatus fEscStatusRole = 1 then 16 * ownGroup s else 0
/-- Whether this device is the reference. -/
def isReference (s : State) : Bool := fld s rEscStatus fEscStatusRole == 0

/-- Whether an exchange has completed in each of the last ten 10 ms periods. -/
def steady (s : State) : Bool := (List.range 10).all (fun k => s.exchanges.any (fun b =>
  b + 10000000 * k ≤ s.beat && s.beat < b + 10000000 * (k + 1)))

/-- The span of a round trip less the time at the reference, and the offset it gives. -/
def tripSpan (x : Nat × Nat × Nat × Nat) : Int := ((x.2.2.2 : Int) - x.1) - ((x.2.2.1 : Int) - x.2.1)
def tripOffset (x : Nat × Nat × Nat × Nat) : Int := (((x.1 : Int) - x.2.1) + ((x.2.2.2 : Int) - x.2.2.1)) / 2

/-- The exchange completed: offset, round trip and trim from the quickest trip, and ALIGNED by R294. -/
def finishExchange (s : State) : State :=
  match s.trips with
  | [] => s
  | t :: r =>
    let best := r.foldl (fun b x => if tripSpan x < tripSpan b then x else b) t
    let off := tripOffset best
    let trim := max (-1000) (min 1000 (-off))
    let s := { s with trips := [], exchanges := (s.beat :: s.exchanges).take 16, alignOut := false }
    let s := setFlds rEscAlign [(fEscAlignOffset, ofSigned 32 off), (fEscAlignTrim, ofSigned 12 trim),
      (fEscAlignRtt, min 0xFFFF (tripSpan best).toNat)] s
    let s := wr rEscAlignBeat (BitVec.ofNat 64 s.beat) s
    setFld rEscStatus fEscStatusAligned (bit (decide (-8 ≤ off ∧ off ≤ 8) && steady s)) s

/-- A TIME packet: a request carries t1, an answer t1, t2 and t3. -/
def sendTime (dst t1 t2 t3 : Nat) (answer : Bool) (s : State) : State :=
  transmit (headTo s ptTime vcCtrl dst 0) (natLe 1 (bit answer) ++ natLe 7 0 ++ natLe 8 t1 ++ natLe 8 t2 ++ natLe 8 t3) s

/-- ALIGN_EXCHANGE at beat `b`: four round trips are begun, or, their answers being here, evaluated. -/
def execAlignExchange (b : Nat) (s : State) : Host.Outcome State Fault Refusal :=
  let s := advanceTo b s
  .next (if isReference s then s
    else if 4 ≤ s.trips.length then finishExchange s
    else
      let t1 := leafCount s (leafFab 1)
      (List.range 4).foldl (fun s _ => sendTime (reference s) t1 0 0 false s) { s with trips := [] })

/-- FAB_TIME: a request is answered by the reference; an answer's timestamps are kept with the beat of its arrival. -/
def execFabTime (h : FabHead) (t1 t2 t3 : Nat) (answer : Bool) (s : State) : Host.Outcome State Fault Refusal :=
  let now := leafCount s (leafFab (lgDie h.lg))
  .next (if h.dst ≠ ownDev s then forward h (natLe 1 (bit answer) ++ natLe 7 0 ++ natLe 8 t1 ++ natLe 8 t2 ++ natLe 8 t3) s
    else
      let s := countBlk (fabBase (lgDie h.lg)) 0xC5 noIds 2 s
      if answer then
        (if h.src = reference s ∧ isReference s = false ∧ s.trips.length < 4 then { s with trips := s.trips ++ [(t1, t2, t3, now)] } else s)
      else sendTime h.src t1 now now true s)

/-- ALIGN_LOST at beat `b`: no exchange has completed for 100 ms; the last trim stays. -/
def execAlignLost (b : Nat) (s : State) : Host.Outcome State Fault Refusal :=
  let s := advanceTo b s
  .next (whenS (!isReference s && !s.alignOut && rdN s rEscAlignBeat + 100000000 ≤ s.beat) (fun s =>
    let s := setFld rEscStatus fEscStatusAligned 0 { s with alignOut := true }
    addRecord (mkRecord 1 9 0 0 1) (raise rEscFault 1 (rEscFaultCnt 1) s)) s)

/-! ### Triggers (09 R297) -/

def sxEscPast : Nat := 0x40
def sxEscArmed : Nat := 0x41

/-- The status for which a trigger cannot be armed for a beat and an action. -/
def trigRefusal (s : State) (t beat action : Nat) : Nat :=
  if 3 < action then stBadArg else if fld s (rEscTrigCtl t) fEscTrigCtlArmed = 1 then sxEscArmed
  else if beat < s.beat + 10000 then sxEscPast else stOk

/-- A trigger armed in every leaf. -/
def armTrigger (t beat action : Nat) (s : State) : State :=
  setFlds (rEscTrigCtl t) [(fEscTrigCtlAction, action), (fEscTrigCtlArmed, 1)] (wr (rEscTrig t) (BitVec.ofNat 64 beat) s)

/-- A write of ESC.TRIG. -/
def trigWrite (t v : Nat) (s : State) : Nat × State :=
  if fld s (rEscTrigCtl t) fEscTrigCtlArmed = 1 then (sxEscArmed, s) else (stOk, wr (rEscTrig t) (BitVec.ofNat 64 v) s)

/-- A write of ESC.TRIG_CTL: FIRED is cleared by a 1, ACTION taken while the trigger is not armed, ARMED set by a 1 (Table 09-12). -/
def trigCtlWrite (t v : Nat) (s : State) : Nat × State :=
  let k := rEscTrigCtl t
  let action := bitsAt 4 4 v
  let armed := fld s k fEscTrigCtlArmed == 1
  if 3 < action then (stBadArg, s)
  else if armed && action != fld s k fEscTrigCtlAction then (sxEscArmed, s)
  else
    let r := if bitAt v 0 && !armed then trigRefusal s t (rdN s (rEscTrig t)) action else stOk
    if r ≠ stOk then (r, s)
    else
      let s := if bitAt v 1 then setFld k fEscTrigCtlFired 0 s else s
      (stOk, if bitAt v 0 && !armed then armTrigger t (rdN s (rEscTrig t)) action s else setFld k fEscTrigCtlAction action s)

/-- A trigger's action in every unit (Table 09-5). -/
def trigAct (action : Nat) (s : State) : State :=
  match action with
  | 1 => freezeAll s
  | 2 => takeSnapshot s
  | 3 => send .pin 0 [1] [] s
  | _ => s

/-- TRIGGER_FIRE at beat `b`: trigger `t`, or for `t` 8 the snapshot that SNAP_NOW armed (16 R474). -/
def execTriggerFire (t b : Nat) (s : State) : Host.Outcome State Fault Refusal :=
  onUnit t 9 s (fun s =>
    let s := advanceTo b s
    if t = 8 then
      match s.snapAt with
      | some at_ =>
        if s.beat < at_ then s
        else
          let s := takeSnapshot { s with snapAt := none }
          { s with calls := s.calls.map (fun e => if e.1 = mbObs ∧ e.2.code = 0x1203 then (e.1, { e.2 with keep := [s.nSnaps] }) else e) }
      | none => s
    else whenS (fld s (rEscTrigCtl t) fEscTrigCtlArmed == 1 && rdN s (rEscTrig t) ≤ s.beat) (fun s =>
      setFlds (rEscTrigCtl t) [(fEscTrigCtlArmed, 0), (fEscTrigCtlFired, 1)]
        (trigAct (fld s (rEscTrigCtl t) fEscTrigCtlAction) s)) s)

/-! ### The ESC mailbox (09 R298) -/

/-- ESC_NOW. -/
def execEscNow (rid : Nat) (s : State) : Host.Outcome State Fault Refusal :=
  .next (serviceRead mbEsc 0x0901 rid [] (fun s => [leafCount s leafCid]) s)

/-- ALIGN_STATUS. -/
def execAlignStatus (rid : Nat) (s : State) : Host.Outcome State Fault Refusal :=
  .next (serviceRead mbEsc 0x0902 rid [] (fun s => [rdN s rEscStatus, rdN s rEscAlign, rdN s rEscAlignBeat]) s)

/-- TRIG_ARM. -/
def execTrigArm (rid a0 a1 a2 : Nat) (s : State) : Host.Outcome State Fault Refusal :=
  .next (service mbEsc 0x0903 rid [a0, a1, a2] (fun s =>
    if 8 ≤ a0 then (.done stBadArg [], s)
    else if trigRefusal s a0 a1 a2 ≠ stOk then (.done (trigRefusal s a0 a1 a2) [], s)
    else (ok [], armTrigger a0 a1 a2 s)) s)

/-- TRIG_CANCEL. -/
def execTrigCancel (rid a0 : Nat) (s : State) : Host.Outcome State Fault Refusal :=
  .next (service mbEsc 0x0904 rid [a0] (fun s =>
    if 8 ≤ a0 then (.done stBadArg [], s)
    else if fld s (rEscTrigCtl a0) fEscTrigCtlArmed = 1 ∧ rdN s (rEscTrig a0) ≤ s.beat + 10000 then (.done sxEscPast [], s)
    else (ok [], setFld (rEscTrigCtl a0) fEscTrigCtlArmed 0 s)) s)

/-- ESC_FAULT_READ. -/
def execEscFaultRead (rid : Nat) (s : State) : Host.Outcome State Fault Refusal :=
  .next (serviceRead mbEsc 0x0905 rid [] (fun s => rdN s rEscFault :: (List.range 3).map (fun i => rdN s (rEscFaultCnt i))) s)

/-- ESC_LATE_MAX_READ: the largest lateness is returned and cleared in one access (00 R12). -/
def execEscLateMaxRead (p : Nat) (s : State) : Host.Outcome State Fault Refusal :=
  onUnit p nClusters s (fun s => answerWith stOk [rdN s (rClEscLateMax p)] (wr (rClEscLateMax p) 0 s))

end Sys2Proof.Machine
end

