-- ==== Sys2Proof/Machine/Group.lean ====
section
/-! DEFINITION. The manager's duties and a member's (13 R398-R404; 15 R461, R462): lost members, routed requests, weight digests,
expulsion and rejoining, and group switches. -/
namespace Sys2Proof.Machine

/-! ### Lost members (13 R398) -/

/-- The beat from which a slot's silence counts: its last HEARTBEAT, or the start of the stage in which none came. -/
def lastHeard (s : State) (t : Nat) : Nat := (look s.heard t).getD s.stageAt

/-- MEMBER_LOST at beat `b`: slot `t` has not been heard for 10 ms. Its collectives fail, what is on its way to it fails, and a worker
without its manager ends the manager's requests at the next step boundary. -/
def execMemberLost (t b : Nat) (s : State) : Host.Outcome State Fault Refusal :=
  onUnit t 16 s (fun s =>
    let s := advanceTo b s
    let dev := slotDev s t
    whenS (bitAt (fld s (rFabStatus 0) fFabStatusPresent) t && !s.lost.contains dev && lastHeard s t + 10000000 ≤ s.beat) (fun s =>
      let s := { s with lost := dev :: s.lost }
      let live := fld s (rFabStatus 0) fFabStatusLive
      let s := setFabStatus fFabStatusLive (if bitAt live t then live - 2 ^ t else live) s
      let s := if ownRole s = 0 then s else setFld (rFabMember 1 t) fFabMemberLive 0 s
      let s := s.colls.foldl (fun s e =>
        if (collMembers s e.2.bytes).contains dev then
          collFail e.1 kcMemberLost dev (collFailAll e.2.bytes kcMemberLost s) else s) s
      let s := dropTo dev s
      if ownRole s = 0 ∧ t = 0 then modReqs (fun r => if fromManager s r.ring then { r with cancel := true } else r) s else s) s)

/-! ### Routed requests (13 R399) -/

/-- Whether a slot may be given a request. -/
def routeOk (s : State) (t : Nat) : Bool :=
  let m := rd s (rFabMember 1 t)
  fget fFabMemberLive m == 1 && fget fFabMemberUnaligned m == 0 && fget fFabMemberExpelled m == 0 && fget fFabMemberGen m == s.groupGen

/-- Routed requests in flight on a slot. -/
def routedOnSlot (s : State) (t : Nat) : Nat := (s.routed.filter (fun r => r.slot == t)).length

/-- The member a request goes to: the fewest routed requests in flight, then the lowest slot. -/
def routePick (s : State) : Option Nat :=
  ((List.range 16).filter (routeOk s)).foldl (fun m t => match m with
    | none => some t
    | some u => if routedOnSlot s t < routedOnSlot s u then some t else some u) none

/-- FAB.MEMBER.ROUTED brought up to date. -/
def updRouted (s : State) : State :=
  (List.range 16).foldl (fun s t => setFld (rFabMember 1 t) fFabMemberRouted (min 0xFFFF (routedOnSlot s t)) s) s

/-- Bytes written into a device's HBM over the fabric, 4 KiB a packet. -/
def fabStore (dst a : Nat) (l : List Byte) (s : State) : State :=
  (List.range ((l.length + 4095) / 4096)).foldl (fun s i =>
    fabSend { headTo s ptWrite vcBulk dst 0 with addr := a + 4096 * i } .none ((l.drop (4096 * i)).take 4096) s) s

/-- A descriptor with its blocks at addresses in the routing area: parameters, query, then input; a descriptor that names no
parameter block keeps 0. -/
def routedDesc (t : Taken) (area phase : Nat) : List Byte :=
  let d := t.desc
  d.take 1 ++ natLe 1 (rqFlags d % 128 + 128 * phase) ++ slice 2 14 d ++ natLe 8 (area + 128) ++ slice 0x18 8 d ++
    natLe 8 (if rqParams d = 0 then 0 else area) ++ natLe 8 (if rqRetrieve d then area + 64 else rqQuery d) ++ slice 0x30 16 d

/-- A taken request written to a slot's ring, whose base is `ring` and which holds 2^`log2n` descriptors, its blocks at `area`. -/
def routeTo (t : Nat) (r : Routed) (ring log2n area : Nat) (s : State) : State :=
  let dst := slotDev s t
  let p := tabGet (fun _ => 0) s.routeProd t
  let s := fabStore dst (area + 128) r.taken.input (fabStore dst (area + 64) r.taken.query (fabStore dst area r.taken.params s))
  let s := fabStore dst (ring + 64 + 64 * (p % 2 ^ log2n)) (routedDesc r.taken area (p / 2 ^ log2n % 2)) s
  let s := fabStore dst ring (natLe 4 ((p + 1) % 2 ^ 32)) s
  updRouted { s with routeProd := tabSet (fun _ => 0) s.routeProd t ((p + 1) % 2 ^ 32), routed := s.routed ++ [{ r with slot := t }] }

/-- ROUTE_REQUEST: the oldest request of an expelled member that waits for another one, else the oldest taken from this manager's
rings, goes to the member R399 picks; where the member's ring and free routing area lie is the manager firmware's knowledge. -/
def execRouteRequest (ring log2n area : Nat) (s : State) : Host.Outcome State Fault Refusal :=
  .next (if ownRole s = 0 then s
    else match routePick s with
      | none => s
      | some t =>
        match s.routed.find? (fun r => r.slot == 16) with
        | some r => routeTo t r ring log2n area { s with routed := s.routed.erase r }
        | none =>
          match nextTaken s false with
          | none => s
          | some x => routeTo t ⟨x, 16, 0⟩ ring log2n area { s with intake := s.intake.erase x })

/-- FAB_ANSWER: a worker's record goes to the answer ring the request named, unless it lies at or before the last streamed
position; a full ring keeps it waiting. An END record ends the routing. -/
def execFabAnswer (h : FabHead) (data : List Byte) (s : State) : Host.Outcome State Fault Refusal :=
  .next (fabRecv h data (fun s =>
    match s.routed.find? (fun r => slotDev s r.slot == h.src && rqId r.taken.desc == leAt 0 8 data) with
    | none => (some 0, s)
    | some r =>
      let ans := rqAns r.taken.desc
      let fin := leAt 8 1 data == 2
      let upto := leAt 0xC 4 data + leAt 0x10 4 data
      if !fin && upto ≤ r.streamed then (some 0, s)
      else
        let s := if ansFull s ans then readConsumer ans s else s
        if (look s.ansRings ans).isSome && !ansRoom s ans then (none, s)
        else
          let s := putRecord ans data s
          (some 0, updRouted { s with routed :=
            if fin then s.routed.erase r else s.routed.map (fun x => if x == r then { r with streamed := upto } else x) })) s)

/-! ### Weight digests (13 R400; 15 R461) -/

/-- The weight window of a cluster: window 63, where the active image declares it readable, not writable, for MSDs alone. -/
def weightWindow (s : State) (l : Nat) : Bool :=
  (windowsOf s 0).any (fun e =>
    let a := BitVec.ofNat 64 e.2.2.2.1
    e.1 == l && e.2.1 == 63 && fget fClWinARead a == 1 && fget fClWinAWrite a == 0 && fget fClWinASrcClass a == 2)

/-- d_L of a cluster. -/
def clusterDigest (s : State) (l : Nat) : List Byte :=
  let a := rd s (rClWinA (physOf s l) 63)
  shake256 64 ([0x57, 0x44, 0x49, 0x47] ++ natLe 4 l ++ natLe 8 0 ++ spmRead s (physOf s l) (winBase a) (winLen a))

/-- The device digest of a step. -/
def deviceDigest (s : State) : List Byte :=
  shake256 32 (natLe 4 (activeGen s) ++ natLe 8 s.steps ++
    ((List.range nLogical).filter (fun l => held s l && roleOf s 0 l == 1 && weightWindow s l)).flatMap (clusterDigest s))

/-- The digest period of the active image. -/
def digestPeriod (s : State) : Nat := if ratio s 0 0x35A 2 = 0 then 64 else ratio s 0 0x35A 2

/-- A digest that has come in at a manager. -/
def noteDigest (t set gen step : Nat) (value : List Byte) (s : State) : State :=
  { s with digests := s.digests ++ [⟨t, set, gen, step, value, s.beat⟩] }

/-- DIGEST_REPORT at beat `b`: at a digest step a device with a replica set sends its digest to its manager; the message carries
set, generation, step and digest. -/
def execDigestReport (b : Nat) (s : State) : Host.Outcome State Fault Refusal :=
  let s := advanceTo b s
  .next (
    let has := imageActive s && (imgSection s 0 stFabric).isSome && ratio s 0 0x358 2 != 0xFFFF
    if has && s.steps != 0 && s.steps % digestPeriod s == 0 && fld s rBruFault fBruFaultBlobBad == 0 then
      let set := ratio s 0 0x358 2
      if ownRole s = 0 then
        ctrlSend (16 * ownGroup s) 2 (natLe 2 set ++ natLe 4 (activeGen s) ++ natLe 8 s.steps ++ natLe 1 0 ++ deviceDigest s) s
      else noteDigest (ownSlot s) set (activeGen s) s.steps (deviceDigest s) s
    else s)

/-- CTRL_DIGEST. -/
def execCtrlDigest (h : FabHead) (set gen step : Nat) (value : List Byte) (s : State) : Host.Outcome State Fault Refusal :=
  .next (fabRecv h value (fun s =>
    (some 0, if ownRole s ≠ 0 ∧ h.src / 16 = ownGroup s then noteDigest (h.src % 16) set gen step value s else s)) s)

/-- Whether a slot is expelled. -/
def isExpelled (s : State) (t : Nat) : Bool := fld s (rFabMember 1 t) fFabMemberExpelled == 1

/-- A member expelled by its manager, once: EXPEL goes to it, and its routed requests wait for another replica. -/
def expelSlot (t : Nat) (s : State) : State :=
  if isExpelled s t then s
  else
    let s := setFld (rFabMember 1 t) fFabMemberExpelled 1 s
    let s := { s with routed := s.routed.map (fun r => if r.slot = t then { r with slot := 16 } else r) }
    updRouted (ctrlSend (slotDev s t) 3 (natLe 1 1) s)

/-- A member back among the replicas (13 R401). -/
def readmit (t : Nat) (s : State) : State :=
  let s := setFld (rFabMember 1 t) fFabMemberExpelled 0 { s with rejoining := s.rejoining.filter (· != t) }
  ctrlSend (slotDev s t) 3 (natLe 1 0) s

/-- The one value that differs while all others, at least two, agree. -/
def oddOne (ds : List Digest) : Option Digest :=
  ds.find? (fun d =>
    let rest := ds.filter (fun x => x.slot != d.slot)
    2 ≤ rest.length && rest.all (fun x => x.value != d.value && some x.value == (rest.head?.map (·.value))))

/-- DIGEST_COMPARE at beat `b`: 100 ms after the first report of a set, generation and step. -/
def execDigestCompare (set gen step b : Nat) (s : State) : Host.Outcome State Fault Refusal :=
  let s := advanceTo b s
  .next (
    let mine := s.digests.filter (fun d => d.set == set && d.gen == gen && d.step == step)
    match mine with
    | [] => s
    | first :: _ =>
      if s.beat < first.beat + 100000000 then s
      else
        let s := { s with digests := s.digests.filter (fun d => !(d.set == set && d.gen == gen && d.step == step)) }
        let timely := mine.filter (fun d => d.beat ≤ first.beat + 100000000)
        let voters := timely.filter (fun d => !isExpelled s d.slot)
        let agreed := voters.all (fun d => some d.value == (voters.head?.map (·.value)))
        if agreed then
          (timely.filter (fun d => s.rejoining.contains d.slot && some d.value == (voters.head?.map (·.value)))).foldl
            (fun s d => readmit d.slot s) s
        else match oddOne voters with
          | some d => expelSlot d.slot (addRecord { mkRecord 4 9 d.slot 0xF 0 with action := 6, detail := d.value } s)
          | none => addRecord { mkRecord 4 9 0 0xF 0 with detail := first.value } (fabErr 1 feDigestSplit 0 (slotDev s first.slot) s))

/-- Whether an HBM blob of the active image differs from its digest. -/
def badHbmBlob (s : State) : Bool :=
  (List.range (secCount s 0 stBlobs)).any (fun i =>
    let f := secLe s 0 stBlobs 96 i
    f 4 4 % 2 == 0 && blobDigest s (f 0 4) (f 8 8) (f 16 8) != imgRead s 0 (secOff s 0 stBlobs + 96 * i + 24) 64)

/-- What an expelled device does (15 R462): a trial of every cluster, those in `fails` failing for good; a step replay for beat
`rb`; and its HBM blobs digested again. -/
def expelledWork (fails : List Nat) (rb : Nat) (s : State) : State :=
  let s := (List.range nClusters).foldl (fun s p =>
    if trialOk s p then (trial p (!fails.contains p) false s).2 else s) s
  let s := if imageActive s && s.beat ≤ rb && rb ≤ replayBound s then startReplay rb s else s
  if badHbmBlob s then
    addRecord (mkRecord 5 9 0 0x1C 0) (setFld rBruFault fBruFaultBlobBad 1 s)
  else s

/-- CTRL_EXPEL: the manager expels this device, or readmits it (log 63). -/
def execCtrlExpel (h : FabHead) (expel : Bool) (fails : List Nat) (rb : Nat) (s : State) : Host.Outcome State Fault Refusal :=
  .next (fabRecv h (natLe 1 (bit expel)) (fun s =>
    if h.src ≠ 16 * ownGroup s then (some 0, s)
    else if !expel then (some 0, setFabStatus fFabStatusExpelled 0 s)
    else if fld s (rFabStatus 0) fFabStatusExpelled = 1 then (some 0, s)
    else (some 0, expelledWork fails rb (setFabStatus fFabStatusExpelled 1 s))) s)

/-! ### Group switches (13 R403) -/

/-- A switch (0), a rollback (1), or the cancel of either (2) on this device for requestor `rid`: the status with which the CAL service
would answer; the staging slot must also hold the generation named. -/
def localSwitch (rid op gen beat : Nat) (s : State) : Nat × State :=
  if !mayWrite s rid gbCal then (stNotOwner, s)
  else if op = 0 then
    if swRollback s then (sxArmed, s)
    else if slotState s stg ≠ slAdmitted ∨ fld s (rCalSlot stg) fCalSlotGen ≠ gen then (sxNoStaging, s)
    else if slotState s 0 = slWatch then (sxWatchOpen, s)
    else if tooSoon s beat then (sxTooSoon, s)
    else (stOk, armSwitch beat false false (setSlot stg slArmed s))
  else if op = 1 then
    if slotState s 1 ≠ slPrevious then (sxNoPrevious, s)
    else if swPhase s ≠ 0 then (sxArmed, s)
    else if tooSoon s beat then (sxTooSoon, s)
    else (stOk, armSwitch beat true false s)
  else if swPhase s ≠ 1 ∨ s.stopBeat ≤ s.beat then (sxDraining, s)
  else
    let s := if swRollback s then s else setSlot stg slAdmitted s
    (stOk, setFlds rCalSwitchStat [(fCalSwitchStatPhase, 0), (fCalSwitchStatRollback, 0)] s)

/-- The requestor ID of a device (Table 12-8). -/
def devRid (dev : Nat) : Nat := 3 * 2 ^ 13 + dev

/-- CTRL_SWITCH: a member carries its manager's switch out and answers. -/
def execCtrlSwitch (h : FabHead) (op gen beat : Nat) (s : State) : Host.Outcome State Fault Refusal :=
  .next (fabRecv h (natLe 1 op ++ natLe 4 gen ++ natLe 8 beat) (fun s =>
    if h.src ≠ 16 * ownGroup s then (some 0, s)
    else
      let (st, s) := localSwitch (devRid h.src) op gen beat s
      (some 0, if op = 2 then s else ctrlSend h.src 7 (natLe 1 st ++ natLe 4 gen) s)) s)

/-- CTRL_SWITCH_ACK. -/
def execCtrlSwitchAck (h : FabHead) (status gen : Nat) (s : State) : Host.Outcome State Fault Refusal :=
  .next (fabRecv h (natLe 1 status ++ natLe 4 gen) (fun s =>
    let t := h.src % 16
    if ownRole s = 0 ∨ h.src / 16 ≠ ownGroup s ∨ s.swAnswered.contains t then (some 0, s)
    else (some 0, { s with swAnswered := t :: s.swAnswered, swRefused := if status = 0 then s.swRefused else t :: s.swRefused })) s)

/-- Slots of live members other than the manager itself. -/
def liveSlots (s : State) : List Nat :=
  (List.range 16).filter (fun t => t != ownSlot s && fld s (rFabMember 1 t) fFabMemberLive == 1)

/-- A switch message to a slot. -/
def sendSwitch (op gen beat : Nat) (t : Nat) (s : State) : State :=
  ctrlSend (slotDev s t) 6 (natLe 1 op ++ natLe 4 gen ++ natLe 8 beat) s

/-- Whether a group switch is answered by every member it went to; then it ends, the armed ones being cancelled where any refused. -/
def groupPoll (rid gen beat : Nat) (slots : List Nat) (s : State) : Option (Nat × List Nat × State) :=
  if !slots.all (fun t => s.swAnswered.contains t || s.lost.contains (slotDev s t)) then none
  else
    let refused := s.swRefused ++ slots.filter (fun t => !s.swAnswered.contains t)
    if refused.isEmpty then some (stOk, [], { s with groupGen := gen })
    else
      let s := (slots.filter (fun t => !refused.contains t)).foldl (fun s t => sendSwitch 2 gen beat t s) s
      let s := if refused.contains (ownSlot s) then s else (localSwitch rid 2 gen beat s).2
      some (0x71, [maskOf refused], s)

/-- A group switch or rollback started by the manager: itself first, then every live member. -/
def groupStart (rid op gen beat : Nat) (s : State) : Reply × State :=
  if ownRole s = 0 then (.done 0x70 [], s)
  else
    let slots := liveSlots s
    let (st, s) := localSwitch rid op gen beat s
    let s := { s with swAnswered := [], swRefused := if st = stOk then [] else [ownSlot s] }
    let s := slots.foldl (fun s t => sendSwitch op gen beat t s) s
    match groupPoll rid gen beat slots s with
    | some (st, res, s) => (.done st res, s)
    | none => (.runs (op :: gen :: beat :: slots), s)

/-- GROUP_SWITCH. -/
def execGroupSwitch (rid d a0 a1 : Nat) (s : State) : Host.Outcome State Fault Refusal :=
  onUnit d 2 s (fabService rid d 0x0D04 [a0, a1] (groupStart rid 0 a1 a0))

/-- GROUP_ROLLBACK: the members' previous images, whose generation on the manager is taken for the group's. -/
def execGroupRollback (rid d a0 : Nat) (s : State) : Host.Outcome State Fault Refusal :=
  onUnit d 2 s (fabService rid d 0x0D05 [a0] (fun s => groupStart rid 1 (fld s (rCalSlot 1) fCalSlotGen) a0 s))

/-- EXPEL of the mailbox. -/
def execFabExpel (rid d a0 : Nat) (s : State) : Host.Outcome State Fault Refusal :=
  onUnit d 2 s (fabService rid d 0x0D06 [a0] (fun s =>
    if ownRole s = 0 then (.done 0x70 [], s)
    else if 16 ≤ a0 then (.done stBadArg [], s)
    else if !bitAt (fld s (rFabStatus 0) fFabStatusPresent) a0 then (.done 0x73 [], s)
    else (ok [], expelSlot a0 s)))

/-- REJOIN: the call runs until the slot's next digest agrees. -/
def execRejoin (rid d a0 : Nat) (s : State) : Host.Outcome State Fault Refusal :=
  onUnit d 2 s (fabService rid d 0x0D07 [a0] (fun s =>
    if ownRole s = 0 then (.done 0x70 [], s)
    else if 16 ≤ a0 then (.done stBadArg [], s)
    else if !bitAt (fld s (rFabStatus 0) fFabStatusPresent) a0 then (.done 0x73 [], s)
    else if !isExpelled s a0 then (ok [], s)
    else (.runs [a0], { s with rejoining := a0 :: s.rejoining.filter (· != a0) })))

end Sys2Proof.Machine
end

