-- ==== Sys2Proof/Machine/Control.lean ====
section
/-! DEFINITION. Control space (00 R5-R18; 01 R37-R40): where an offset leads, reads with the registers that show other state, writes
with their checks and their effects, mailbox calls started by MBX_CMD.GO and ended, and the companion's uncached requests (12
R345). -/
namespace Sys2Proof.Machine

/-! ### Places (01 R37-R40) -/

/-- Where an offset of control space leads: no populated range, a mailbox page and the offset in it, a register with the
mailbox page of its block, an expert view's register, or a mapped offset of a CL block without registers. -/
inductive Place where
  | none
  | mailbox (page o : Nat)
  | reg (k page : Nat)
  | view (k : Nat)
  | blank (page : Nat)
deriving DecidableEq, Repr

/-- The place of an offset; a vacant number's CL block is not mapped (01 R40), and FIDW has no group registers. -/
def place (s : State) (o : Nat) : Place :=
  if o < 0xE00000 ∨ (0x1000000 ≤ o ∧ o < 0x2000000) then
    let page := if 0x200000 ≤ o ∧ o < 0x400000 then mbSer else o / 0x100000 * 0x100000 + 0xFF000
    if page ≤ o then .mailbox page (o - page)
    else if 0x400300 ≤ o ∧ o < 0x400480 then .none
    else .reg o page
  else if 0x10000000 ≤ o ∧ o < 0x10000000 + nLogical * 0x80000 then
    let l := (o - 0x10000000) / 0x80000
    let i := o % 0x80000
    if !held s l then .none
    else if 0x7F000 ≤ i then .mailbox (mbCl l) (i - 0x7F000)
    else if i < 0x10000 then .reg (clBase (physOf s l) + i) (mbCl l)
    else .blank (mbCl l)
  else if 0x30000000 ≤ o ∧ o < 0x30000000 + nClusters * 0x10000 then .view o
  else .none

/-! ### The service stair (06 R203-R206) -/

/-- A unit of the stair as node × 64 + quadrant × 16 + unit (Table 06-6). -/
def stairCode (node quad unit : Nat) : Nat := node * 64 + quad * 16 + unit
/-- The root. -/
def stairRoot : Nat := stairCode 63 0 0
/-- A cluster controller. -/
def stairCluster (p : Nat) : Nat :=
  let g := galleryOf p
  stairCode (g / 4) (g % 4) ((clustersOf g).idxOf p)

/-- The unit whose registers lie at an offset: by the root's logical map, by serial for an expert view (06 R206). -/
def stairUnit (s : State) (o : Nat) : Nat :=
  if 0x30000000 ≤ o ∧ o < 0x30000000 + nClusters * 0x10000 then stairCluster ((o - 0x30000000) / 0x10000)
  else if 0x10000000 ≤ o ∧ o < 0x10000000 + nLogical * 0x80000 then
    (let l := (o - 0x10000000) / 0x80000
     if held s l then stairCluster (physOf s l) else stairRoot)
  else if 0x1000000 ≤ o ∧ o < 0x2000000 then stairCode (40 + (o - 0x1000000) / 0x100000) 0 0
  else if o / 0x100000 = 4 ∨ o / 0x100000 = 5 then stairCode (56 + (o / 0x100000 - 4)) 0 0
  else stairRoot

/-- The links from the root to a unit: a hall node's, an MSD's or a fabric die's is numbered as its node, gallery g's 64 + g, and
that of unit u of gallery g 256 + 16 g + u. -/
def stairLinks (code : Nat) : List Nat :=
  let node := code / 64
  let g := 4 * node + code / 16 % 4
  let u := code % 16
  if node < 36 then [node] ++ (if u = 15 then [] else [64 + g] ++ (if u = 14 then [] else [256 + 16 * g + u]))
  else if node = 63 then [] else [node]

/-- Whether no link on a unit's path is reported failed (06 R204). -/
def stairUp (s : State) (code : Nat) : Bool := (stairLinks code).all (fun k => !s.stairDown.contains k)

/-- Whether an access does not reach its register: it waits at the stair root for the move of its number (15 R453), or for a
failed stair link to train again. -/
def accessWaits (s : State) (o : Nat) : Bool :=
  (decide (0x10000000 ≤ o ∧ o < 0x10000000 + nLogical * 0x80000) && moving s ((o - 0x10000000) / 0x80000)) ||
    !stairUp s (stairUnit s o)

/-! ### Reads -/

/-- The trace unit whose TRC_CTL, TRC_PTR, TRC_ADDR or TRC_DATA lies at a register. -/
def traceUnitAt (k : Nat) : Option Nat :=
  if 0x30000000 ≤ k then (if k % 0x10000 / 32 * 32 = 0x8700 then some ((k - 0x30000000) / 0x10000) else none)
  else if k % 0x100000 / 32 * 32 = 0x1200 then
    (if 0x1000000 ≤ k ∧ k < 0x2000000 then some (1000 + (k - 0x1000000) / 0x100000)
     else if k / 0x100000 = 4 ∨ k / 0x100000 = 5 then some (2000 + (k / 0x100000 - 4)) else none)
  else none

/-- The windows of a cluster in a state, as a mask (05 Tables 05-14, 05-15). -/
def windowsIn (s : State) (p st : Nat) : Word :=
  BitVec.ofNat 64 (maskOf ((List.range 64).filter (fun w => fld s (rClWinA p w) fClWinAState == st)))

/-- What a cluster's register at offset `o` reads as. The firmware streams run from stage 0x07 on (04 R111). -/
def clView (s : State) (p o : Nat) : Word :=
  let k := clBase p + o
  if k = rClEscLeaf p then BitVec.ofNat 64 (leafCount s (leafCl p))
  else if k = rClWinOpen p then windowsIn s p wsOpen
  else if k = rClWinClose p then windowsIn s p wsClosing
  else if rClStream p 28 ≤ k ∧ k < rClStream p 32 ∧ k % 8 = 0 ∧ 7 ≤ stageNow s then fset fClStreamState (rd s k) 5
  else rd s k

/-- What a register reads as: the value it holds, but for those that show other state. -/
def regView (s : State) (k : Nat) : Word :=
  if 0x30000000 ≤ k then clView s ((k - 0x30000000) / 0x10000) (k % 0x10000)
  else if k = rEscNow then BitVec.ofNat 64 (leafCount s leafCid)
  else if k = rSvcStatus then svcStatus s
  else if k = rSvcCounts then svcCounts s
  else if rSvcRing 0 ≤ k ∧ k < rSvcRing 256 ∧ k % 8 = 0 then svcRing s ((k - rSvcRing 0) / 8)
  else rd s k

/-- A register read: the value, and the state after an access that clears or advances (00 R12; 16 R479). -/
def regRead (k : Nat) (s : State) : Nat × State :=
  match (if k % 32 = 0x18 then traceUnitAt k else none) with
  | some u => trcDataRead u s
  | none =>
    if 0x30000000 ≤ k ∧ k = rClEscLateMax ((k - 0x30000000) / 0x10000) then (rdN s k, wr k 0 s)
    else ((regView s k).toNat, s)

/-- A read of `size` bytes at an offset of control space: its status, its value and the state after it; none where it waits
or the part is down. Any master may read. -/
def csRead (o size : Nat) (s : State) : Option (Nat × Nat × State) :=
  if partDown s || accessWaits s o then none
  else match place s o with
    | .none => some (stUnmapped, 0, s)
    | pl =>
      if size ≠ 8 ∨ o % 8 ≠ 0 then some (stAlign, 0, s)
      else match pl with
        | .reg k _ => let (v, s) := regRead k s; some (stOk, v, s)
        | .view k => let (v, s) := regRead k s; some (stOk, v, s)
        | .mailbox page i => some (stOk, rdN s (page + i), s)
        | _ => some (stOk, 0, s)

/-! ### Mailbox calls (00 R15-R17) -/

/-- The state an outcome leaves. -/
def stateOf (o : Host.Outcome State Fault Refusal) (s : State) : State :=
  match o with
  | .next t => t
  | _ => s

/-- The services of a cluster's mailbox (Tables 04-16, 05-17). -/
def callCl (l rid code : Nat) (a : Nat → Nat) (s : State) : Option (Host.Outcome State Fault Refusal) :=
  match code with
  | 0x0401 => some (execStreamStatus rid l (a 0) s)
  | 0x0402 => some (execStreamResume rid l (a 0) (a 1) s)
  | 0x0403 => some (execStreamStop rid l (a 0) s)
  | 0x0404 => some (execCtxClear rid l (a 0) s)
  | 0x0405 => some (execMbxSemSet rid l (a 0) (a 1) s)
  | 0x0406 => some (execClErrRead rid l s)
  | 0x0501 => some (execWinOpen rid l (a 0) (a 1) (a 2) s)
  | 0x0502 => some (execWinClose rid l (a 0) s)
  | 0x0503 => some (execWinStatus rid l (a 0) s)
  | 0x0504 => some (execRangeSet rid l (a 0) (a 1) s)
  | 0x0505 => some (execEccRead rid l s)
  | _ => none

/-- The services of an MSD's mailbox (Table 07-12). -/
def callMsd (n rid code : Nat) (a : Nat → Nat) (s : State) : Option (Host.Outcome State Fault Refusal) :=
  match code with
  | 0x0701 => some (execMsdStatus rid n s)
  | 0x0702 => some (execOffline rid n s)
  | 0x0703 => some (execOnline rid n s)
  | 0x0704 => some (execQueueClear rid n (a 0) s)
  | 0x0705 => some (execParityMode rid n (a 0) s)
  | 0x0706 => some (execMsdErrRead rid n s)
  | _ => none

/-- The services of a fabric die's mailbox (13). -/
def callFab (d rid code : Nat) (a : Nat → Nat) (s : State) : Option (Host.Outcome State Fault Refusal) :=
  match code with
  | 0x0D01 => some (execLgStatus rid d (a 0) s)
  | 0x0D02 => some (execFabErrRead rid d s)
  | 0x0D03 => some (execCollClear rid d (a 0) s)
  | 0x0D04 => some (execGroupSwitch rid d (a 0) (a 1) s)
  | 0x0D05 => some (execGroupRollback rid d (a 0) s)
  | 0x0D06 => some (execFabExpel rid d (a 0) s)
  | 0x0D07 => some (execRejoin rid d (a 0) s)
  | 0x0D08 => some (execFabMembersStatus rid d s)
  | _ => none

/-- The services of the CAL and SVC mailboxes (Tables 08-13, 10). -/
def callCalSvc (page rid code : Nat) (a : Nat → Nat) (s : State) : Option (Host.Outcome State Fault Refusal) :=
  if page = mbCal then
    match code with
    | 0x0801 => some (execImageLoad rid (a 0) (a 1) s)
    | 0x0802 => some (execImageDiscard rid s)
    | 0x0803 => some (execImageSwitch rid (a 0) s)
    | 0x0804 => some (execCalCancel rid s)
    | 0x0805 => some (execImageRollback rid (a 0) s)
    | 0x0806 => some (execConfirm rid s)
    | 0x0807 => some (execHealthFail rid s)
    | 0x0808 => some (execReleasePrevious rid s)
    | 0x0809 => some (execStoreBoot rid (a 0) s)
    | 0x080A => some (execCalStatus rid s)
    | _ => none
  else
    match code with
    | 0x0A01 => some (execRingOpen rid (a 0) (a 1) (a 2) (a 3) s)
    | 0x0A02 => some (execRingClose rid (a 0) (a 1) s)
    | 0x0A03 => some (execRingStatus rid (a 0) (a 1) s)
    | 0x0A04 => some (execTokLoad rid (a 0) (a 1) (a 2) s)
    | 0x0A05 => some (execTokUnload rid (a 0) s)
    | 0x0A06 => some (execSvcCancel rid (a 0) (a 1) s)
    | 0x0A07 => some (execReqStatus rid (a 0) (a 1) s)
    | 0x0A08 => some (execSvcAdmit rid (a 0) s)
    | 0x0A09 => some (execPrefixFlush rid s)
    | 0x0A0A => some (execSvcStats rid s)
    | _ => none

/-- The services of the ESC, PWR, THM and CLK mailboxes (Tables 09, 14-24). -/
def callPower (page rid code : Nat) (a : Nat → Nat) (s : State) : Option (Host.Outcome State Fault Refusal) :=
  match page / 0x100000, code with
  | 7, 0x0901 => some (execEscNow rid s)
  | 7, 0x0902 => some (execAlignStatus rid s)
  | 7, 0x0903 => some (execTrigArm rid (a 0) (a 1) (a 2) s)
  | 7, 0x0904 => some (execTrigCancel rid (a 0) s)
  | 7, 0x0905 => some (execEscFaultRead rid s)
  | 8, 0x0E01 => some (execCapService rid (a 0) s)
  | 8, 0x0E02 => some (execPwrStatus rid s)
  | 8, 0x0E03 => some (execThrRead rid s)
  | 8, 0x0E04 => some (execGalPark rid (a 0) s)
  | 8, 0x0E05 => some (execGalUnpark rid (a 0) s)
  | 8, 0x0E06 => some (execGalRestore rid (a 0) s)
  | 8, 0x0E07 => some (execCalLoad rid (a 0) (a 1) s)
  | 8, 0x0E08 => some (execPwrFaultRead rid s)
  | 9, 0x0F01 => some (execTemps rid (a 0) s)
  | 9, 0x0F02 => some (execThmFaultRead rid s)
  | 10, 0x1001 => some (execClkFreq rid (a 0) (a 1) s)
  | 10, 0x1002 => some (execClkFmax rid (a 0) s)
  | _, _ => none

/-- The services of the SEC, SER, BRU and OBS mailboxes (Tables 12-12, 15-13, 16, 17). What a trial or the input stage shows
a call is a free value (log 5). -/
def callRest (page rid code : Nat) (a : Nat → Nat) (s : State) : Option (Host.Outcome State Fault Refusal) :=
  match page / 0x100000, code with
  | 1, 0x1301 => some (execAttest rid (a 0) (a 1) (a 2) s)
  | 1, 0x1302 => some (execCertRead rid (a 0) s)
  | 1, 0x1303 => some (execLogRead rid (a 0) (a 1) (a 2) s)
  | 1, 0x1304 => some (execExtend rid (a 0) (a 1) s)
  | 1, 0x1305 => some (execSvnCommit rid (a 0) (a 1) s)
  | 1, 0x1306 => some (execRevoke rid (a 0) s)
  | 3, 0x0C01 => some (execPortStatus rid (a 0) s)
  | 3, 0x0C02 => some (execDetach rid (a 0) s)
  | 3, 0x0C03 => some (execAttach rid (a 0) s)
  | 3, 0x0C04 => some (execOwnerStatus rid s)
  | 3, 0x0C05 => some (execFilterStatus rid s)
  | 11, 0x1101 => some (execBruStatus rid s)
  | 11, 0x1102 => some (execLogExport rid (a 0) (a 1) (a 2) s)
  | 11, 0x1103 => some (execFenceMove rid (a 0) s)
  | 11, 0x1104 =>
    let (x, s) := takeFree 2 s
    some (execTrialService rid (a 0) (x % 2 == 1) (1 < x) s)
  | 11, 0x1105 => some (execDmapLoad rid (a 0) (a 1) s)
  | 11, 0x1106 => some (execFwUpdate rid (a 0) (a 1) (a 2) s)
  | 11, 0x1107 =>
    let (x, s) := takeFree 1 s
    some (execBruReset rid (x == 1) s)
  | 11, 0x1108 => some (execFuseRead rid (a 0) (a 1) s)
  | 12, 0x1201 => some (execObsThaw rid (a 0) s)
  | 12, 0x1202 => some (execObsClear rid (a 0) s)
  | 12, 0x1203 => some (execSnapNow rid s)
  | 12, 0x1204 => some (execTraceDump rid (a 0) (a 1) (a 2) s)
  | 12, 0x1205 => some (execHangScan rid (a 0) (a 1) s)
  | _, _ => none

/-- MBX_CMD.GO on a page: the service of the code runs with the arguments the page holds; a code the block does not offer ends
with BAD_SERVICE. -/
def goCall (page rid code : Nat) (s : State) : State :=
  let a (i : Nat) : Nat := rdN s (mbxArg page i)
  let o :=
    if 0x10000000 ≤ page then callCl ((page - 0x10000000) / 0x80000) rid code a s
    else if 0x1000000 ≤ page then callMsd ((page - 0x1000000) / 0x100000) rid code a s
    else if page = mbFab 0 then callFab 0 rid code a s
    else if page = mbFab 1 then callFab 1 rid code a s
    else if page = mbCal ∨ page = mbSvc then callCalSvc page rid code a s
    else (callPower page rid code a s).orElse (fun _ => callRest page rid code a s)
  match o with
  | some o => stateOf o s
  | none => service page code rid [] (fun s => (.done stBadService [], s)) s

/-- A write of a mailbox page by a requestor that may write the block (00 R16, R17, Table 00-6). -/
def mailboxWrite (rid page i v : Nat) (s : State) : Nat × State :=
  if i = 0 then
    if bitAt v 63 then
      let s := goCall page rid (v % 2 ^ 16) s
      (s.answer.status, s)
    else (stOk, wr (mbxCmd page) (BitVec.ofNat 64 (rdN s (mbxCmd page) / 2 ^ 63 * 2 ^ 63 + v % 2 ^ 16)) s)
  else if i = 8 then (stOk, if bitAt v 1 then wr (mbxStatus page) (rd s (mbxStatus page) &&& ~~~2#64) s else s)
  else if i = 0x10 then (stOk, if v % 2 ^ 64 = 0 then wr (mbxStatusCnt page) 0 s else s)
  else if 0x100 ≤ i ∧ i < 0x180 then
    (stOk, if (look s.calls page).isSome then s else wr (page + i) (BitVec.ofNat 64 v) s)
  else if i = 0xFF8 then (stOk, wr (mbxExpertEn page) (BitVec.ofNat 64 (v % 2)) s)
  else (stOk, s)

/-! ### Register writes (00 R7-R11) -/

/-- A plain write of a register of a block at `base`, by the specification of its bits. -/
def plainWrite (specs : List RegSpec) (base k v : Nat) (s : State) : State :=
  let o := k - base
  match specs.find? (fun r => r.off ≤ o && (if r.stride = 0 then o == r.off
      else o < r.off + r.stride * r.count && (o - r.off) % r.stride == 0)) with
  | none => s
  | some r =>
    let w := BitVec.ofNat 64 v
    if r.cnt then (if w = 0 then wr k 0 s else s)
    else wr k ((rd s k &&& ~~~r.rw &&& ~~~(r.w1c &&& w)) ||| (w &&& r.rw)) s

/-- Events that carry a command's identity (Table 16-2). -/
def attributed (e : Nat) : Bool :=
  decide ((0x03 ≤ e ∧ e ≤ 0x06) ∨ (0x10 ≤ e ∧ e ≤ 0x17) ∨ (0x20 ≤ e ∧ e ≤ 0x28) ∨ (0x30 ≤ e ∧ e ≤ 0x34) ∨
    (0x88 ≤ e ∧ e ≤ 0x8B) ∨ (0xC0 ≤ e ∧ e ≤ 0xC5) ∨ e = 0xCA ∨ e = 0xCB)

/-- Events of a bank: 0 a cluster, 1 an MSD, 2 a fabric die, 3 a gallery (Table 16-2). NONE is an event of every bank. -/
def eventOf (bank e : Nat) : Bool :=
  e == 0 || match bank with
    | 0 => decide (e ≤ 0x08 ∨ (0x10 ≤ e ∧ e ≤ 0x17) ∨ (0x20 ≤ e ∧ e ≤ 0x28) ∨ (0x30 ≤ e ∧ e ≤ 0x34) ∨ (0x40 ≤ e ∧ e ≤ 0x42) ∨
        (0x50 ≤ e ∧ e ≤ 0x53))
    | 1 => decide (0x80 ≤ e ∧ e ≤ 0x8D)
    | 2 => decide (0xC0 ≤ e ∧ e ≤ 0xCB)
    | _ => decide (0xE0 ≤ e ∧ e ≤ 0xE4)

/-- Whether a counter configuration is taken (16 R469, R470). MODE of banks other than a cluster's reads 0 and is discarded. -/
def cntCfgOk (bank v : Nat) : Bool :=
  let e := v % 256
  let mode := bitsAt 8 2 v
  eventOf bank e && (bitsAt 10 2 v == 0 || attributed e) &&
    (bank != 0 || mode == 0 || (mode == 1 && decide (0x10 ≤ e ∧ e ≤ 0x28)))

/-- A write of a counter configuration. -/
def cntCfgWrite (bank : Nat) (specs : List RegSpec) (base k v : Nat) (s : State) : Nat × State :=
  if cntCfgOk bank v then (stOk, plainWrite specs base k v s) else (stBadArg, s)

/-- A write of a cluster's register at offset `o`. -/
def clWrite (p o v : Nat) (s : State) : Nat × State :=
  let k := clBase p + o
  if 0x1200 ≤ o ∧ o < 0x1300 then streamCtlWrite p ((o - 0x1200) / 8) v s
  else if 0x1300 ≤ o ∧ o < 0x1500 then semWrite p ((o - 0x1300) / 8) v s
  else if o = 0x1700 then ctxClrWrite p v s
  else if o = 0x1808 then rangeCtl p (bitsAt 60 4 v) (v % 4096) s
  else if 0x5000 ≤ o ∧ o < 0x5400 then
    (if fld s (rClWinA p ((o - 0x5000) / 16)) fClWinAState ≠ wsClosed then (stWindowOpen, s)
     else (stOk, plainWrite specsCl (clBase p) k v s))
  else if o = 0x5400 then winOpenWrite p v s
  else if o = 0x5408 then winCloseWrite p v s
  else if 0x6100 ≤ o ∧ o < 0x6200 then detourWrite p ((o - 0x6100) / 8) v s
  else if o = 0x6200 then commitWrite p v s
  else if 0x8000 ≤ o ∧ o < 0x8200 then cntCfgWrite 0 specsCl (clBase p) k v s
  else if o = 0x8700 then (stOk, trcCtlWrite p v s)
  else (stOk, plainWrite specsCl (clBase p) k v s)

/-- A write of an MSD's register at offset `o`. -/
def msdWrite (n o v : Nat) (s : State) : Nat × State :=
  let k := msdBase n + o
  if o = 0x140 then slotCtlWrite n v s
  else if 0x1000 ≤ o ∧ o < 0x1100 then cntCfgWrite 1 specsMsd (msdBase n) k v s
  else if o = 0x1200 then (stOk, trcCtlWrite (1000 + n) v s)
  else (stOk, plainWrite specsMsd (msdBase n) k v s)

/-- A write of a fabric die's register at offset `o`. -/
def fabWrite (d o v : Nat) (s : State) : Nat × State :=
  let k := fabBase d + o
  if 0x1000 ≤ o ∧ o < 0x1100 then cntCfgWrite 2 specsFab (fabBase d) k v s
  else if o = 0x1200 then (stOk, trcCtlWrite (2000 + d) v s)
  else (stOk, plainWrite specsFab (fabBase d) k v s)

/-- A write of a register of the blocks MOD to SVC that passed the checks of its block. -/
def rootWrite (rid k v : Nat) (s : State) : Nat × State :=
  let o := k % 0x100000
  match k / 0x100000 with
  | 1 => (stOk, plainWrite specsSec 0x100000 k v s)
  | 2 =>
    if k = rSerOwnCmd then ownCmd rid v s
    else if k = rSerCoh then cohWrite v s
    else if 0x200 ≤ o ∧ o < 0x280 then grantWrite rid ((o - 0x200) / 8) v s
    else (stOk, plainWrite specsSer 0x200000 k v s)
  | 4 => fabWrite 0 o v s
  | 5 => fabWrite 1 o v s
  | 6 => (stOk, plainWrite specsCal 0x600000 k v s)
  | 7 =>
    if 0x100 ≤ o ∧ o < 0x180 then
      (if o % 16 = 0 then trigWrite ((o - 0x100) / 16) v s else trigCtlWrite ((o - 0x100) / 16) v s)
    else (stOk, plainWrite specsEsc 0x700000 k v s)
  | 8 => if k = rPwrCapSet then capSet (v % 65536) s else (stOk, plainWrite specsPwr 0x800000 k v s)
  | 9 => (stOk, plainWrite specsThm 0x900000 k v s)
  | 10 =>
    if k = rClkMode then clkModeWrite v s
    else if 0x3000 ≤ o ∧ o < 0x3000 + 8 * nClusters then fsetWrite ((o - 0x3000) / 8) v s
    else (stOk, plainWrite specsClk 0xA00000 k v s)
  | 11 => (stOk, plainWrite specsBru 0xB00000 k v s)
  | 12 =>
    if 0x10000 ≤ o ∧ o < 0x10000 + 64 * nGal then cntCfgWrite 3 specsObs 0xC00000 k v s
    else (stOk, plainWrite specsObs 0xC00000 k v s)
  | 13 => (stOk, plainWrite specsSvc 0xD00000 k v s)
  | _ => (stOk, s)

/-- A register write that passed the checks of its block: its status. -/
def regWrite (rid k v : Nat) (s : State) : Nat × State :=
  if 0x30000000 ≤ k then clWrite ((k - 0x30000000) / 0x10000) (k % 0x10000) v s
  else if 0x1000000 ≤ k then msdWrite ((k - 0x1000000) / 0x100000) (k % 0x100000) v s
  else rootWrite rid k v s

/-- A write of `size` bytes at an offset of control space by a requestor: its status and the state after it; none where it
waits or the part is down. The checks come in the order mapping, form, ownership, expert level (00 R5, R6, R13, R14; log 21);
SER.OWN_CMD is exempt from the last two (12 R361), a mailbox page from the last. -/
def csWrite (rid o size v : Nat) (s : State) : Option (Nat × State) :=
  if partDown s || accessWaits s o then none
  else match place s o with
    | .none => some (stUnmapped, s)
    | pl =>
      if size ≠ 8 ∨ o % 8 ≠ 0 then some (stAlign, s)
      else match pl with
        | .mailbox page i => some (if mayWrite s rid (mbxBlock page) then mailboxWrite rid page i v s else (stNotOwner, s))
        | .view k =>
          some (if !mayWrite s rid gbCl then (stNotOwner, s)
            else if rdN s (mbxExpertEn mbBru) % 2 = 0 then (stExpertOff, s)
            else regWrite rid k v s)
        | .reg k page =>
          some (if k = rSerOwnCmd then ownCmd rid v s
            else if !mayWrite s rid (mbxBlock page) then (stNotOwner, s)
            else if rdN s (mbxExpertEn page) % 2 = 0 then (stExpertOff, s)
            else regWrite rid k v s)
        | .blank page =>
          some (if !mayWrite s rid (mbxBlock page) then (stNotOwner, s)
            else if rdN s (mbxExpertEn page) % 2 = 0 then (stExpertOff, s)
            else (stOk, s))
        | .none => some (stUnmapped, s)

/-- A write whose status is left as the answer. -/
def csStore (rid o size v : Nat) (s : State) : State :=
  match csWrite rid o size v s with
  | none => s
  | some (st, s) => answerWith st [] s

/-- CONTROL_REGISTER_WRITE: requestor, offset, width in bytes, value. -/
def execControlRegisterWrite (rid o size v : Nat) (s : State) : Host.Outcome State Fault Refusal :=
  .next (csStore rid o size v s)

/-! ### Registers whose writes have rows of their own -/

/-- Offset `r` of the CL block of a logical number. -/
def clOff (l r : Nat) : Nat := 0x10000000 + l * 0x80000 + r
/-- A write of a CL block's register. -/
def clStore (rid l r v : Nat) (s : State) : Host.Outcome State Fault Refusal := onUnit l nLogical s (csStore rid (clOff l r) 8 v)

/-- CL_STREAM_CTL_RESUME and CL_STREAM_CTL_STOP (04 R143). -/
def execClStreamCtlResume (rid l st pc : Nat) (s : State) : Host.Outcome State Fault Refusal :=
  onUnits l nLogical st 32 s (csStore rid (clOff l (0x1200 + 8 * st)) 8 (2 ^ 63 + pc % 2 ^ 13))
def execClStreamCtlStop (rid l st : Nat) (s : State) : Host.Outcome State Fault Refusal :=
  onUnits l nLogical st 32 s (csStore rid (clOff l (0x1200 + 8 * st)) 8 (2 ^ 62))
/-- CL_SEM_WRITE (04 R124). -/
def execClSemWrite (rid l i v : Nat) (s : State) : Host.Outcome State Fault Refusal :=
  onUnits l nLogical i 64 s (csStore rid (clOff l (0x1300 + 8 * i)) 8 v)
/-- DMA_CTX_CLR_WRITE (04 R142). -/
def execDmaCtxClrWrite (rid l mask : Nat) (s : State) : Host.Outcome State Fault Refusal := clStore rid l 0x1700 mask s
/-- MAT_CTRL_WRITE (02 R78). -/
def execMatCtrlWrite (rid l v : Nat) (s : State) : Host.Outcome State Fault Refusal := clStore rid l 0x2018 v s
/-- ARITH_CTRL_WRITE (03 R106). -/
def execArithCtrlWrite (rid l repro : Nat) (s : State) : Host.Outcome State Fault Refusal := clStore rid l 0x2800 (repro % 2) s
/-- RANGE_CLOSE, RANGE_OPEN, RANGE_OFF and RANGE_ON (05 R160). -/
def execRangeClose (rid l mask : Nat) (s : State) : Host.Outcome State Fault Refusal :=
  clStore rid l 0x1808 (1 * 2 ^ 60 + mask % 4096) s
def execRangeOpen (rid l mask : Nat) (s : State) : Host.Outcome State Fault Refusal :=
  clStore rid l 0x1808 (2 * 2 ^ 60 + mask % 4096) s
def execRangeOff (rid l mask : Nat) (s : State) : Host.Outcome State Fault Refusal :=
  clStore rid l 0x1808 (3 * 2 ^ 60 + mask % 4096) s
def execRangeOn (rid l mask : Nat) (s : State) : Host.Outcome State Fault Refusal :=
  clStore rid l 0x1808 (4 * 2 ^ 60 + mask % 4096) s
/-- WIN_OPEN_WRITE (05 R172) and WIN_CLOSE_WRITE (05 R173). -/
def execWinOpenWrite (rid l mask : Nat) (s : State) : Host.Outcome State Fault Refusal := clStore rid l 0x5400 mask s
def execWinCloseWrite (rid l mask : Nat) (s : State) : Host.Outcome State Fault Refusal := clStore rid l 0x5408 mask s
/-- DETOUR_WRITE and RTR_COMMIT_ARM (06 R190). -/
def execDetourWrite (rid l e v : Nat) (s : State) : Host.Outcome State Fault Refusal :=
  onUnits l nLogical e 32 s (csStore rid (clOff l (0x6100 + 8 * e)) 8 v)
def execRtrCommitArm (rid l beat : Nat) (s : State) : Host.Outcome State Fault Refusal :=
  clStore rid l 0x6200 (2 ^ 63 + beat % 2 ^ 63) s
/-- SLOT_APPLY_WRITE (07 R235): WORK_CONSERVE goes with it. -/
def execSlotApplyWrite (rid n wc : Nat) (s : State) : Host.Outcome State Fault Refusal :=
  onUnit n nMsd s (csStore rid (msdBase n + 0x140) 8 (2 + wc % 2))
/-- TRIG_CTL_ARM (09 R297). -/
def execTrigCtlArm (rid t action : Nat) (s : State) : Host.Outcome State Fault Refusal :=
  onUnit t 8 s (csStore rid (0x700108 + 16 * t) 8 (1 + action % 16 * 16))
/-- TRC_REARM (16 R477): a cluster's through its expert view; `v` holds the other fields of TRC_CTL. -/
def execTrcRearm (rid u v : Nat) (s : State) : Host.Outcome State Fault Refusal :=
  if isTraceUnit u then .next (csStore rid (trcCtl u) 8 (v % 2 ^ 64 ||| 4) s) else .fault .noSuchUnit
/-- ADMIT_CTL_WRITE (01 R36). -/
def execAdmitCtlWrite (rid on : Nat) (s : State) : Host.Outcome State Fault Refusal :=
  .next (csStore rid rSvcAdmitCtl 8 (on % 2) s)
/-- SER_COH_WRITE (12 R349). -/
def execSerCohWrite (rid v : Nat) (s : State) : Host.Outcome State Fault Refusal := .next (csStore rid rSerCoh 8 v s)
/-- GRANT_WRITE (12 R363). -/
def execGrantWrite (rid g v : Nat) (s : State) : Host.Outcome State Fault Refusal :=
  onUnit g 16 s (csStore rid (rSerGrant g) 8 v)
/-- CAP_SET_WRITE (14 R422). -/
def execCapSetWrite (rid w : Nat) (s : State) : Host.Outcome State Fault Refusal := .next (csStore rid rPwrCapSet 8 w s)
/-- CLK_MODE_WRITE and FSET_WRITE (14 R416). -/
def execClkModeWrite (rid m : Nat) (s : State) : Host.Outcome State Fault Refusal := .next (csStore rid rClkMode 8 m s)
def execFsetWrite (rid p f : Nat) (s : State) : Host.Outcome State Fault Refusal :=
  onUnit p nClusters s (csStore rid (rClkFset p) 8 f)

/-! ### The end of a running call (00 R17) -/

/-- How a running call stands: its completion status and results, and the state at its end, or none where it runs on. -/
def callPoll (page : Nat) (c : Call) (s : State) : Option (Nat × List Nat × State) :=
  let a (i : Nat) : Nat := c.args.getD i 0
  let l := (page - 0x10000000) / 0x80000
  let n := (page - 0x1000000) / 0x100000
  let here (r : Option (Nat × List Nat)) : Option (Nat × List Nat × State) := r.map (fun e => (e.1, e.2, s))
  match c.code with
  | 0x0502 => here (winClosePoll (physOf s l) (a 0) s)
  | 0x0504 => here (rangeSetPoll (physOf s l) (a 1) s)
  | 0x0702 => if msdState s n = msServing then none else some (stOk, [], s)
  | 0x0703 => if msdState s n = msRebuilding then none else some (stOk, [], s)
  | 0x0C02 => match detachPoll (a 0) s with
    | (some (st, r), s) => some (st, r, s)
    | (none, _) => none
  | 0x0C03 => if portState s (a 0) = psUp then some (stOk, [], s) else none
  | 0x0D04 => groupPoll c.rid (c.keep.getD 1 0) (c.keep.getD 2 0) (c.keep.drop 3) s
  | 0x0D05 => groupPoll c.rid (c.keep.getD 1 0) (c.keep.getD 2 0) (c.keep.drop 3) s
  | 0x0D07 => if s.rejoining.contains (a 0) then none else some (stOk, [], s)
  | 0x0E05 => here (galPoll (a 0) false s)
  | 0x0E06 => here (galPoll (a 0) true s)
  | 0x1103 => fenceMovePoll c s
  | 0x1106 => fwPoll s
  | 0x1203 => here (snapPoll c.keep s)
  | 0x1205 => let (r, s) := hangScanEnd (a 0) (a 1) s; some (stOk, r, s)
  | _ => none

/-- MAILBOX_CALL_COMPLETE at beat `b`: the call running on the mailbox page at `page` ends, if what it waits for has come. -/
def execMailboxCallComplete (page b : Nat) (s : State) : Host.Outcome State Fault Refusal :=
  .next (
    let s := advanceTo b s
    match look s.calls page with
    | none => s
    | some c => match callPoll page c s with
      | none => s
      | some (st, r, s) => endCall page st r s)

/-! ### Uncached requests of a companion (12 R345, R346) -/

/-- The requestor ID of a companion's request (Table 12-8). -/
def serRid (s : State) (port src : Nat) : Nat := (if bonded s port then 2 else port) * 2 ^ 13 + src % 2 ^ 12

/-- The ERR status of a refusal cause (Table 12-6). -/
def erOf (c : Nat) : Nat :=
  if c = ccUnmapped then stUnmapped else if c = ccAlign then stAlign else if c = ccWindowClosed then ccWindowClosed
  else if c = ccRemoteErr then erDataErr else erAccess

/-- CMP_DATA with state I: bytes outside the access are 0. -/
def cmpData (port tag a : Nat) (l : List Byte) (s : State) : State :=
  answerWith stOk (l.map (·.toNat)) (serSend port 1 0x21 tag 0 0 (a / 64)
    (List.replicate (a % 64) 0 ++ l ++ List.replicate (64 - a % 64 - l.length) 0) s)

/-- A request of a companion that its port carries and whose tag is free. -/
def serAccept (port tag : Nat) (f : State → State) (s : State) : State :=
  if !portLive s port then s
  else if tagBusy s port tag then serErrAnswer port tag erTagBusy s
  else f s

/-- RD_NC of `2^lg` bytes at device address `a` by requestor number `src`. -/
def rdNc (port tag src a lg : Nat) (s : State) : State :=
  let n := 2 ^ lg
  let from_ := srcSerica (serRid s port src)
  match rangeAt s a n with
  | .control o =>
    (match csRead o n s with
     | none => s
     | some (st, v, s) => if st = stOk then cmpData port tag a (natLe 8 v) s else serErrAnswer port tag st s)
  | .hbm =>
    if accessForm a n = false then serErrAnswer port tag stAlign s
    else if coherent s (a / 64) then
      homePut ⟨port, tag, soPartRead, a / 64, a % 64, List.replicate n 0, false, false, [], [], false, none⟩ s
    else match hbmRead a n s with
      | (some l, s) => cmpData port tag a l s
      | (none, s) => serErrAnswer port tag erDataErr s
  | .buf m o =>
    if accessForm a n = false then serErrAnswer port tag stAlign s
    else match bufPlace s m o with
      | .no c => serErrAnswer port tag (erOf c) s
      | .at_ _ _ => cmpData port tag a (bufRead s m o n) s
  | .spm l o =>
    match addrDo from_ l o n false [] s with
    | (0, bytes, s) => cmpData port tag a bytes s
    | (c, _, s) => serErrAnswer port tag (erOf c) s
  | _ => serErrAnswer port tag stUnmapped s

/-- RD_NC. -/
def execRdNc (port tag src a lg : Nat) (s : State) : Host.Outcome State Fault Refusal :=
  onUnit port 2 s (serAccept port tag (rdNc port tag src a lg))

/-- The runs of a byte mask: first byte and length. -/
def maskRuns (mask : Nat) : List (Nat × Nat) :=
  ((List.range 64).foldr (fun i acc =>
    if !bitAt mask i then acc
    else match acc with
      | (j, n) :: t => if j = i + 1 then (i, n + 1) :: t else (i, 1) :: acc
      | [] => [(i, 1)]) [])

/-- The bytes of a mask written at line address `a` of a scratchpad or buffer: the cause of the first refusal, and then no byte
of the request is written. -/
def writeRuns (src : Source) (a mask : Nat) (data : List Byte) (s : State) : Nat × State :=
  let r := (maskRuns mask).foldl (fun (acc : Nat × State) e =>
    if acc.1 ≠ 0 then acc
    else match devWrite src 0 (a + e.1) (slice e.1 e.2 data) acc.2 with
      | (.ok _, s) => (0, s)
      | (.no c, s) => (c, s)
      | (.wait, s) => (0, s)) (0, s)
  if r.1 = 0 then r else (r.1, { r.2 with spm := s.spm, buf := s.buf })

/-- A write of the bytes of a mask of the line at `a`: WR_LINE has every byte. -/
def wrNc (port tag src a mask : Nat) (data : List Byte) (s : State) : State :=
  let from_ := srcSerica (serRid s port src)
  let done (c : Nat) (s : State) : State :=
    if c = 0 then answerWith stOk [] (serSend port 1 0x20 tag 0 0 (a / 64) [] s) else serErrAnswer port tag (erOf c) s
  match rangeAt s a 64 with
  | .control o =>
    let i := ((List.range 8).find? (fun i => mask == 0xFF * 2 ^ (8 * i))).getD 8
    (match csWrite (serRid s port src) (o + 8 * i % 64) (if i < 8 then 8 else 0) (leAt (8 * i) 8 data) s with
     | none => s
     | some (st, s) =>
       if st = stOk then answerWith stOk [] (serSend port 1 0x20 tag 0 0 (a / 64) [] s) else serErrAnswer port tag st s)
  | .hbm =>
    if (maskRuns mask).any (fun e => hbmGuarded s from_ (a + e.1) e.2) then serErrAnswer port tag erAccess s
    else if coherent s (a / 64) then
      homePut ⟨port, tag, soMask, a / 64, mask, padTo 64 data, false, false, [], [], false, none⟩ s
    else
      let (c, s) := hbmMask (a / 64) mask data s
      done c s
  | .spm _ _ => let (c, s) := writeRuns from_ a mask data s; done c s
  | .buf _ _ => let (c, s) := writeRuns from_ a mask data s; done c s
  | _ => serErrAnswer port tag stUnmapped s

/-- WR_LINE of a line and WR_PART of the bytes of a line that a mask names. -/
def execWrLine (port tag src line : Nat) (data : List Byte) (s : State) : Host.Outcome State Fault Refusal :=
  onUnit port 2 s (serAccept port tag (wrNc port tag src (line * 64) (2 ^ 64 - 1) data))
def execWrPart (port tag src line mask : Nat) (data : List Byte) (s : State) : Host.Outcome State Fault Refusal :=
  onUnit port 2 s (serAccept port tag (wrNc port tag src (line * 64) (mask % 2 ^ 64) data))

end Sys2Proof.Machine
end

