-- ==== Sys2Proof/Machine/Stair.lean ====
section
/-! DEFINITION. Frames of the service stair (06 R203-R206): control-space accesses and their responses, fences, parks, fault reports,
and the links themselves. -/
namespace Sys2Proof.Machine

/-- A request answered by its unit; the answer waits there, behind earlier ones of the unit (06 R206). -/
def stairAnswer (tag code st v : Nat) (s : State) : State := { s with stairReqs := s.stairReqs ++ [⟨tag, code, st, v⟩] }

/-- STAIR_READ: a read of a register. -/
def execStairRead (tag o : Nat) (s : State) : Host.Outcome State Fault Refusal :=
  .next (match csRead o 8 s with
    | none => s
    | some (st, v, t) => stairAnswer tag (stairUnit s o) st v t)

/-- STAIR_WRITE: a write of a register by a requestor. -/
def execStairWrite (tag rid o v : Nat) (s : State) : Host.Outcome State Fault Refusal :=
  .next (match csWrite rid o 8 v s with
    | none => s
    | some (st, t) => stairAnswer tag (stairUnit s o) st 0 t)

/-- STAIR_RESPONSE: the oldest answer of a unit, where its tag matches. -/
def execStairResponse (tag unit : Nat) (s : State) : Host.Outcome State Fault Refusal :=
  .next (
    match s.stairReqs.find? (fun r => r.unit == unit) with
    | none => s
    | some r =>
      if r.tag ≠ tag ∨ stairUp s unit = false then s
      else answerWith r.status [r.value] { s with stairReqs := s.stairReqs.erase r })

/-- The cluster a frame addresses. -/
def frameCluster (node quad unit : Nat) : Option Nat :=
  if node < 36 ∧ unit < 6 then (clustersOf (4 * node + quad))[unit]? else none

/-- A frame carried to its unit. -/
def frameDown (node quad unit : Nat) (f : State → State) (s : State) : State :=
  whenS (!partDown s && stairUp s (stairCode node quad unit)) f s

/-- STAIR_FENCE of a cluster (15 R450, R452). -/
def execStairFence (node quad unit : Nat) (s : State) : Host.Outcome State Fault Refusal :=
  onUnits node 64 quad 4 s (frameDown node quad unit (fun s =>
    match frameCluster node quad unit with
    | none => s
    | some p => if clState s p = csBad ∨ clState s p = csFenced then s else updStatus (fenceCluster p s)))

/-- STAIR_UNFENCE of a cluster: a spare again, where it is fenced, holds no number, and no defect record is pending against it
(15 Table 15-5). -/
def execStairUnfence (node quad unit : Nat) (s : State) : Host.Outcome State Fault Refusal :=
  onUnits node 64 quad 4 s (frameDown node quad unit (fun s =>
    match frameCluster node quad unit with
    | none => s
    | some p =>
      if clState s p = csFenced ∧ nLogical ≤ logicalOf s p ∧ fld s (rBruCl p) fBruClPending = 0 then
        updStatus (setClState p csStandby s)
      else s))

/-- STAIR_PARK of gallery node × 4 + quadrant (14 R433). -/
def execStairPark (node quad : Nat) (s : State) : Host.Outcome State Fault Refusal :=
  onUnits node 36 quad 4 s (fun s =>
    let g := 4 * node + quad
    frameDown node quad 14 (fun s => if galFree s g && galClocked s g then parkGal g gcService s else s) s)

/-- STAIR_UNPARK: a parked gallery asks for power (14 R435). -/
def execStairUnpark (node quad : Nat) (s : State) : Host.Outcome State Fault Refusal :=
  onUnits node 36 quad 4 s (fun s =>
    let g := 4 * node + quad
    frameDown node quad 14 (fun s => if galState s g = gsParked then askPower g s else s) s)

/-- The stair unit that reports for a unit of Table 15-8. -/
def reporter (kind unit : Nat) : Nat :=
  match kind with
  | 0 => stairCluster unit
  | 1 => stairCode (galleryOf unit / 4) (galleryOf unit % 4) 14
  | 2 => stairCode (unit / 4) (unit % 4) 14
  | 3 => stairCode (unit / 4) (unit % 4) 6
  | 4 => stairCode (40 + unit) 0 0
  | 5 => stairCode (if unit < 9 then 56 else 57) 0 0
  | _ => stairRoot

/-- STAIR_REPORT at beat `b`: a fault report with the beat `at_` of its event comes to the root, and its recovery starts (15 R451). -/
def execStairReport (kind unit cause unitCause at_ b : Nat) (s : State) : Host.Outcome State Fault Refusal :=
  .next (
    let s := advanceTo b s
    whenS (!partDown s && stairUp s (reporter kind unit) && at_ ≤ s.beat) (faultRecovery kind unit cause unitCause) s)

/-- STAIR_FRAME_CRC_FAIL on link `k`: the frame is refused and resent; the third failure in a row is reported by the parent node,
and the units below are reported unpowered. `again` says it is the frame that failed last. -/
def execStairFrameCrcFail (k : Nat) (again : Bool) (s : State) : Host.Outcome State Fault Refusal :=
  .next (
    let n := if again then tabGet (fun _ => 0) s.stairRun k + 1 else 1
    if s.stairDown.contains k then s
    else if n < 3 then { s with stairRun := tabSet (fun _ => 0) s.stairRun k n }
    else { s with stairRun := tabDel k s.stairRun, stairDown := k :: s.stairDown })

/-- STAIR_LINK_RETRAIN: a failed link trains again. -/
def execStairLinkRetrain (k : Nat) (s : State) : Host.Outcome State Fault Refusal :=
  .next { s with stairDown := s.stairDown.filter (· != k), stairRun := tabDel k s.stairRun }

/-- STAIR_RESERVED_OP: the first node refuses the frame, and nothing else changes (Table 06-6). -/
def execStairReservedOp (s : State) : Host.Outcome State Fault Refusal := .next s

end Sys2Proof.Machine
end

