-- ==== Sys2Proof/Machine/Module.lean ====
section
/-! DEFINITION. The module's interfaces (18): power input and presence (R506, R509, R510), trips (14 R431, R432), the loss of REFCLK
(R513), I3C (R514), PMBus (R515) and boundary scan (R517). -/
namespace Sys2Proof.Machine

/-! ### Input and presence -/

/-- PRSNT_ASSERT: PRSNT_N goes low at module time `us`; its debounce begins again (18 R506, R510). -/
def execPrsntAssert (us : Nat) (s : State) : Host.Outcome State Fault Refusal := .next { s with presentAt := some us }

/-- INPUT_STAGE_CLOSE at module time `us`, with the input and the bus in units of 10 mV: the part has power, and starts cold (18
R506, 15 R441). -/
def execInputStageClose (us vin bus : Nat) (s : State) : Host.Outcome State Fault Refusal :=
  .next (whenS (s.inputOpen && s.presentAt.any (fun t => t + 50000 ≤ us) &&
      decide (3200 ≤ vin ∧ vin ≤ 4000 ∧ vin ≤ bus + 100 ∧ bus ≤ vin + 100))
    (fun s => resetPart false { s with inputOpen := false }) s)

/-- The input stage opens: the part loses power and what it held; flash and fuses keep theirs. -/
def openInput (s : State) : State := resetPart false { s with inputOpen := true }

/-- PRSNT_REMOVE: PRSNT_N has read high for `us` microseconds: 20 open the input stage; fewer end a debounce (18 R509, R510). -/
def execPrsntRemove (us : Nat) (s : State) : Host.Outcome State Fault Refusal :=
  .next (
    let s' := { s with presentAt := none }
    if us < 20 then (if s.inputOpen then s' else s) else if s.inputOpen then s' else openInput s')

/-- MODULE_TRIP: inlet above 50 °C for 1 s (1), input current above 600 A for 100 µs (2), input outside 30-42 V for 1 ms (3), the CID at
115 °C (4); the cause goes to flash before the input opens (14 R432). -/
def moduleTrip (cause : Nat) (s : State) : State := openInput { s with tripCause := some cause }
def execModuleTrip (cause : Nat) (s : State) : Host.Outcome State Fault Refusal :=
  .next (whenS (!s.inputOpen && decide (1 ≤ cause ∧ cause ≤ 4)) (moduleTrip cause) s)

/-- THERMAL_TRIP of gallery `u`, or of the die of sensor `u` − 144 of THM.DIE_TEMP (14 R431): MSDs fail, a fabric die's links fail, the
CID trips the module. -/
def execThermalTrip (u : Nat) (s : State) : Host.Outcome State Fault Refusal :=
  onUnit u 163 s (fun s =>
    whenS (!s.inputOpen) (fun s =>
      let s := thmFault 2 u s
      if u < 144 then (if galState s u = gsDark then s else darken u gcTrip s)
      else if u < 160 then failMsd (u - 144) s
      else if u = 160 then moduleTrip 4 s
      else (s.links.filter (fun l => lgDie l.lg == u - 161)).foldl (fun s l => if l.state = lsFailed then s else failLink l s) s) s)

/-- REFCLK_LOST for `us` microseconds: past 10 the CID is lost as a whole, service ends, and the part waits for RST_N (18 R513, 15
R464). -/
def execRefclkLost (us : Nat) (s : State) : Host.Outcome State Fault Refusal :=
  .next (whenS (decide (10 < us) && !partDown s) (fun s =>
    { addRecord { mkRecord 5 9 0 0 0 with action := 7 } s with
      cidLost := true, intake := [], reqs := [], ansPend := [], routed := [], calls := [] }) s)

/-! ### I3C (18 R514) -/

/-- The board management controller (Table 12-8). -/
def bmcRid : Nat := 0x8000

/-- An answer read over I3C. -/
def i3cAnswer (st : Nat) (l : List Byte) (s : State) : State := answerWith st (l.map (·.toNat)) (send .i3c 0 [st] l s)

/-- I3C_CS_READ of device address `a`. -/
def execI3cCsRead (a : Nat) (s : State) : Host.Outcome State Fault Refusal :=
  .next (
    if a < controlDev ∨ controlDev + 2 ^ 30 ≤ a then whenS (!partDown s) (i3cAnswer stUnmapped []) s
    else match csRead (a - controlDev) 8 s with
      | none => s
      | some (st, v, s) => i3cAnswer st (if st = stOk then natLe 8 v else []) s)

/-- I3C_CS_WRITE of device address `a`, as requestor 0x8000. -/
def execI3cCsWrite (a v : Nat) (s : State) : Host.Outcome State Fault Refusal :=
  .next (
    if a < controlDev ∨ controlDev + 2 ^ 30 ≤ a then whenS (!partDown s) (i3cAnswer stUnmapped []) s
    else match csWrite bmcRid (a - controlDev) 8 v s with
      | none => s
      | some (st, s) => i3cAnswer st [] s)

/-- The oldest record beyond those read and acknowledged. -/
def nextUnread (s : State) : Option Record :=
  s.records.reverse.find? (fun r => s.recRead < r.num && s.recAcked < r.num)

/-- I3C_REC_NEXT. -/
def execI3cRecNext (s : State) : Host.Outcome State Fault Refusal :=
  .next (whenS (!partDown s) (fun s =>
    match nextUnread s with
    | none => i3cAnswer stOk (natLe 2 0) s
    | some r => i3cAnswer stOk (natLe 2 296 ++ cperBytes r) { s with recRead := r.num }) s)

/-- Whether a record of class PERMANENT or UNCOVERED lies beyond the last acknowledged one. -/
def alertDue (s : State) : Bool := s.records.any (fun r => (r.cls == 3 || r.cls == 5) && s.recAcked < r.num)

/-- I3C_REC_ACK of the records up to number `n`. -/
def execI3cRecAck (n : Nat) (s : State) : Host.Outcome State Fault Refusal :=
  .next (whenS (!partDown s) (fun s =>
    if s.nRecords < n then i3cAnswer stBadArg [] s
    else
      let s := { s with recAcked := max s.recAcked n }
      i3cAnswer stOk [] { s with alertN := alertDue s }) s)

/-- I3C_STATUS: MOD.STATUS. -/
def execI3cStatus (s : State) : Host.Outcome State Fault Refusal :=
  .next (whenS (!partDown s) (fun s => i3cAnswer stOk (natLe 8 (rdN s rModStatus)) s) s)

/-- I3C_OTHER_OP: an operation byte outside Table 18-5. -/
def execI3cOtherOp (op : Nat) (s : State) : Host.Outcome State Fault Refusal :=
  .next (whenS (!partDown s && decide (op = 0 ∨ 5 < op)) (i3cAnswer stBadService []) s)

/-! ### PMBus (18 R515) -/

/-- `num / den` over `2^(k − 16)`, as a fraction. -/
def linScaled (num : Int) (den k : Nat) : Int × Int :=
  if k < 16 then (num * (2 ^ (16 - k) : Nat), den) else (num, ((den * 2 ^ (k - 16) : Nat) : Int))

/-- The exponent of a LINEAR11 number for `num / den`, counted up from −16: the least whose mantissa fits 11 bits. -/
def linExp (num : Int) (den : Nat) : Nat → Nat → Nat
  | 0, k => k
  | fuel + 1, k =>
    let (n, d) := linScaled num den k
    if -1024 ≤ n / d ∧ (n / d < 1023 ∨ (n / d = 1023 ∧ n % d = 0)) then k else linExp num den fuel (k + 1)

/-- A number in the LINEAR11 format; where the mantissa is not exact it is rounded up or down by a free bit (log 5). -/
def linear11 (num : Int) (den : Nat) (s : State) : Nat × State :=
  let k := linExp num den 31 0
  let (n, d) := linScaled num den k
  let (up, s) := if n % d = 0 then (0, s) else takeFree 1 s
  (ofSigned 5 ((k : Int) - 16) * 2048 + ofSigned 11 (n / d + up), s)

/-- A word answered over PMBus; a part without power does not answer. -/
def pmWord (num : Int) (den : Nat) (s : State) : Host.Outcome State Fault Refusal :=
  .next (whenS (!partDown s) (fun s =>
    let (w, s) := linear11 num den s
    answerWith stOk [w] (send .pmbus 0 [w] [] s)) s)

/-- A block answered over PMBus. -/
def pmBlock (l : List Byte) (s : State) : Host.Outcome State Fault Refusal :=
  .next (whenS (!partDown s) (fun s => answerWith stOk (l.map (·.toNat)) (send .pmbus 0 [] l s)) s)

/-- Bits of STATUS_WORD: CML, and INPUT. -/
def pmCml : Nat := 2
def pmInput : Nat := 0x2000

/-- A command refused with a CML fault. -/
def pmRefuse (s : State) : State := answerWith stBadArg [] { s with pmFaults := s.pmFaults ||| pmCml }

/-- PMBUS_CLEAR_FAULTS. -/
def execPmbusClearFaults (s : State) : Host.Outcome State Fault Refusal :=
  .next (whenS (!partDown s) (fun s => answerWith stOk [] { s with pmFaults := 0 }) s)

/-- PMBUS_STATUS_WORD: the interface's faults, and INPUT while a module trip waits to be reported. -/
def execPmbusStatusWord (s : State) : Host.Outcome State Fault Refusal :=
  .next (whenS (!partDown s) (fun s =>
    let w := s.pmFaults ||| (if s.tripCause.isSome then pmInput else 0)
    answerWith stOk [w] (send .pmbus 0 [w] [] s)) s)

/-- PMBUS_READ_VIN, PMBUS_READ_IIN and PMBUS_READ_PIN. -/
def execPmbusReadVin (s : State) : Host.Outcome State Fault Refusal := pmWord (fld s rPwrInput fPwrInputVin) 100 s
def execPmbusReadIin (s : State) : Host.Outcome State Fault Refusal := pmWord (fld s rPwrInput fPwrInputIin) 10 s
def execPmbusReadPin (s : State) : Host.Outcome State Fault Refusal := pmWord (fld s rPwrStatus fPwrStatusInputW) 1 s

/-- The hottest junction in 1/16 °C: of the galleries and the dies. -/
def hottest (s : State) : Int :=
  (List.range 19).foldl (fun m k => max m (dieTemp s k)) ((List.range nGal).foldl (fun m g => max m (galTemp s g)) (-32768))

/-- PMBUS_READ_TEMPERATURE_1: the inlet coolant; PMBUS_READ_TEMPERATURE_2: the hottest junction. -/
def execPmbusReadTemperature1 (s : State) : Host.Outcome State Fault Refusal := pmWord (dieTemp s 19) 16 s
def execPmbusReadTemperature2 (s : State) : Host.Outcome State Fault Refusal := pmWord (hottest s) 16 s

/-- PMBUS_MFR_ID: FOLAUX; PMBUS_MFR_MODEL: XKB800-M36-A2. -/
def execPmbusMfrId (s : State) : Host.Outcome State Fault Refusal := pmBlock [0x46, 0x4F, 0x4C, 0x41, 0x55, 0x58] s
def execPmbusMfrModel (s : State) : Host.Outcome State Fault Refusal :=
  pmBlock [0x58, 0x4B, 0x42, 0x38, 0x30, 0x30, 0x2D, 0x4D, 0x33, 0x36, 0x2D, 0x41, 0x32] s

/-- PMBUS_POWER_LIMIT: the board cap read, or set from a LINEAR11 word to 6,000-18,000 W (14 R426). -/
def execPmbusPowerLimit (write : Bool) (w : Nat) (s : State) : Host.Outcome State Fault Refusal :=
  if write then
    .next (whenS (!partDown s) (fun s =>
      let e := toSigned 5 (bitsAt 11 5 w)
      let m := toSigned 11 (w % 2048)
      let v : Int := if 0 ≤ e then m * (2 ^ e.toNat : Nat) else 0
      if v < 6000 ∨ 18000 < v then pmRefuse s
      else answerWith stOk [] (setFld rPwrBoard fPwrBoardBoardCap v.toNat s)) s)
  else pmWord (fld s rPwrBoard fPwrBoardBoardCap) 1 s

/-- Codes of Table 18-6. -/
def pmKnown : List Nat := [0x03, 0x79, 0x88, 0x89, 0x97, 0x8D, 0x8E, 0x99, 0x9A, 0xD0]

/-- PMBUS_OTHER_COMMAND. -/
def execPmbusOtherCommand (code : Nat) (s : State) : Host.Outcome State Fault Refusal :=
  .next (whenS (!partDown s && !pmKnown.contains code) pmRefuse s)

/-! ### Boundary scan (18 R517): die 0 CID, 1 FIDW, 2 FIDE -/

/-- An instruction loaded in a die's test port, with what drives its pins: 0 the part, 1 the boundary register, 2 nothing. -/
def jtagLoad (d ir drive : Nat) (s : State) : State :=
  { s with jtagIr := listSet s.jtagIr d ir, pinDrive := listSet s.pinDrive d drive }

/-- An instruction that acts only while RST_N is low, and is loaded as BYPASS at other times. -/
def jtagTest (d ir drive : Nat) (low : Bool) (s : State) : State := if low then jtagLoad d ir drive s else jtagLoad d 0xFF 0 s

/-- Whether the test ports have power. -/
def jtagDo (d : Nat) (f : State → State) (s : State) : Host.Outcome State Fault Refusal :=
  onUnit d 3 s (whenS (!s.inputOpen) f)

/-- The values of pins, as an answer. -/
def pinBits (l : List Bool) : List Nat := l.map bit

/-- JTAG_EXTEST: `pins` are captured and `shift` updates the register that drives them. -/
def execJtagExtest (d : Nat) (low : Bool) (pins shift : List Bool) (s : State) : Host.Outcome State Fault Refusal :=
  jtagDo d (fun s =>
    let s := jtagTest d 0x00 1 low s
    if low then answerWith stOk (pinBits pins) { s with boundary := listSet s.boundary d shift } else s) s

/-- JTAG_IDCODE. -/
def execJtagIdcode (d : Nat) (s : State) : Host.Outcome State Fault Refusal :=
  jtagDo d (fun s => answerWith stOk [[0x2800156B, 0x2800256B, 0x2800356B].getD d 0] (jtagLoad d 0x01 0 s)) s

/-- JTAG_SAMPLE_PRELOAD: `pins` are captured and `shift` updates the register, which drives nothing. -/
def execJtagSamplePreload (d : Nat) (pins shift : List Bool) (s : State) : Host.Outcome State Fault Refusal :=
  jtagDo d (fun s =>
    let s := jtagLoad d 0x02 0 s
    answerWith stOk (pinBits pins) { s with boundary := listSet s.boundary d shift }) s

/-- JTAG_CLAMP, JTAG_HIGHZ and JTAG_BYPASS. -/
def execJtagClamp (d : Nat) (low : Bool) (s : State) : Host.Outcome State Fault Refusal := jtagDo d (jtagTest d 0x03 1 low) s
def execJtagHighz (d : Nat) (low : Bool) (s : State) : Host.Outcome State Fault Refusal := jtagDo d (jtagTest d 0x04 2 low) s
def execJtagBypass (d : Nat) (s : State) : Host.Outcome State Fault Refusal := jtagDo d (jtagLoad d 0xFF 0) s

end Sys2Proof.Machine
end

