-- ==== Sys2Proof/Machine/Dispatch.lean ====
section
/-! DEFINITION. Which meaning each command has: one arm per constructor. -/
namespace Sys2Proof.Machine

/-- The effect of a command on everything but the queue. -/
def exec (i : Instr) (s : State) : Host.Outcome State Fault Refusal :=
  match i with
  | .controlRegisterWrite rid o size v => Sys2Proof.Machine.execControlRegisterWrite rid o size v s
  | .mailboxCallComplete page b => Sys2Proof.Machine.execMailboxCallComplete page b s
  | .escLateMaxRead p => Sys2Proof.Machine.execEscLateMaxRead p s
  | .rstNReset us vinOk => Sys2Proof.Machine.execRstNReset us vinOk s
  | .stagePower straps refclk shorts ms => Sys2Proof.Machine.execStagePower straps refclk shorts ms s
  | .stageSecureBoot b => Sys2Proof.Machine.execStageSecureBoot b s
  | .stageFusesRead b => Sys2Proof.Machine.execStageFusesRead b s
  | .stageDefectMerge b => Sys2Proof.Machine.execStageDefectMerge b s
  | .stagePhaseTraining failed b => Sys2Proof.Machine.execStagePhaseTraining failed b s
  | .stageMemoryTraining failed b => Sys2Proof.Machine.execStageMemoryTraining failed b s
  | .stageSelfTests fails b => Sys2Proof.Machine.execStageSelfTests fails b s
  | .stageTopologyDiscovery refBeat b => Sys2Proof.Machine.execStageTopologyDiscovery refBeat b s
  | .discoveryTimeout b => Sys2Proof.Machine.execDiscoveryTimeout b s
  | .stageCalibreLoad bad b => Sys2Proof.Machine.execStageCalibreLoad bad b s
  | .stairRead tag o => Sys2Proof.Machine.execStairRead tag o s
  | .stairWrite tag rid o v => Sys2Proof.Machine.execStairWrite tag rid o v s
  | .stairResponse tag unit => Sys2Proof.Machine.execStairResponse tag unit s
  | .stairFence node quad unit => Sys2Proof.Machine.execStairFence node quad unit s
  | .stairUnfence node quad unit => Sys2Proof.Machine.execStairUnfence node quad unit s
  | .stairPark node quad => Sys2Proof.Machine.execStairPark node quad s
  | .stairUnpark node quad => Sys2Proof.Machine.execStairUnpark node quad s
  | .stairReport kind unit cause unitCause at_ b => Sys2Proof.Machine.execStairReport kind unit cause unitCause at_ b s
  | .stairSnapshotData id off => Sys2Proof.Machine.execStairSnapshotData id off s
  | .stairFrameCrcFail k again => Sys2Proof.Machine.execStairFrameCrcFail k again s
  | .ctlNop p st b => Sys2Proof.Machine.execCtlNop p st b s
  | .ctlMark p st b => Sys2Proof.Machine.execCtlMark p st b s
  | .ctlJump p st b => Sys2Proof.Machine.execCtlJump p st b s
  | .ctlLoopSet p st b => Sys2Proof.Machine.execCtlLoopSet p st b s
  | .ctlLoop p st b => Sys2Proof.Machine.execCtlLoop p st b s
  | .ctlExec p st b => Sys2Proof.Machine.execCtlExec p st b s
  | .ctlHalt p st b => Sys2Proof.Machine.execCtlHalt p st b s
  | .semSet p st b => Sys2Proof.Machine.execSemSet p st b s
  | .semAdd p st b => Sys2Proof.Machine.execSemAdd p st b s
  | .semSignal p st b => Sys2Proof.Machine.execSemSignal p st b s
  | .semSignalArrive t sem n dev src tag => Sys2Proof.Machine.execSemSignalArrive t sem n dev src tag s
  | .signalAck p tag status => Sys2Proof.Machine.execSignalAck p tag status s
  | .fenceRel p st b => Sys2Proof.Machine.execFenceRel p st b s
  | .fenceRelComplete p st => Sys2Proof.Machine.execFenceRelComplete p st s
  | .fenceAcq p st b => Sys2Proof.Machine.execFenceAcq p st b s
  | .matRun p st b => Sys2Proof.Machine.execMatRun p st b s
  | .matDescArrive p => Sys2Proof.Machine.execMatDescArrive p s
  | .feederLineArrive p r => Sys2Proof.Machine.execFeederLineArrive p r s
  | .actLineArrive p => Sys2Proof.Machine.execActLineArrive p s
  | .matPassStart p => Sys2Proof.Machine.execMatPassStart p s
  | .matSlotUpdate p => Sys2Proof.Machine.execMatSlotUpdate p s
  | .matRunComplete p => Sys2Proof.Machine.execMatRunComplete p s
  | .matReadout p st b => Sys2Proof.Machine.execMatReadout p st b s
  | .matReadoutCopy p bad => Sys2Proof.Machine.execMatReadoutCopy p bad s
  | .matReadoutDrain p => Sys2Proof.Machine.execMatReadoutDrain p s
  | .matReadoutComplete p => Sys2Proof.Machine.execMatReadoutComplete p s
  | .matClear p st b => Sys2Proof.Machine.execMatClear p st b s
  | .matCtrlWrite rid l v => Sys2Proof.Machine.execMatCtrlWrite rid l v s
  | .arithCtrlWrite rid l repro => Sys2Proof.Machine.execArithCtrlWrite rid l repro s
  | .vecEw p st b => Sys2Proof.Machine.execVecEw p st b s
  | .vecSfu p st b => Sys2Proof.Machine.execVecSfu p st b s
  | .vecRed p st b => Sys2Proof.Machine.execVecRed p st b s
  | .vecSmax p st b => Sys2Proof.Machine.execVecSmax p st b s
  | .vecNorm p st b => Sys2Proof.Machine.execVecNorm p st b s
  | .vecCvt p st b => Sys2Proof.Machine.execVecCvt p st b s
  | .vecMove p st b => Sys2Proof.Machine.execVecMove p st b s
  | .vecComplete p => Sys2Proof.Machine.execVecComplete p s
  | .dmaSubmit p st b => Sys2Proof.Machine.execDmaSubmit p st b s
  | .dmaDescStart p c j => Sys2Proof.Machine.execDmaDescStart p c j s
  | .dmaDescComplete p c j => Sys2Proof.Machine.execDmaDescComplete p c j s
  | .dmaDescFail p c j => Sys2Proof.Machine.execDmaDescFail p c j s
  | .clStreamCtlResume rid l st pc => Sys2Proof.Machine.execClStreamCtlResume rid l st pc s
  | .clStreamCtlStop rid l st => Sys2Proof.Machine.execClStreamCtlStop rid l st s
  | .clSemWrite rid l sem v => Sys2Proof.Machine.execClSemWrite rid l sem v s
  | .dmaCtxClrWrite rid l mask => Sys2Proof.Machine.execDmaCtxClrWrite rid l mask s
  | .streamStatus rid l a0 => Sys2Proof.Machine.execStreamStatus rid l a0 s
  | .streamResume rid l a0 a1 => Sys2Proof.Machine.execStreamResume rid l a0 a1 s
  | .streamStop rid l a0 => Sys2Proof.Machine.execStreamStop rid l a0 s
  | .ctxClear rid l a0 => Sys2Proof.Machine.execCtxClear rid l a0 s
  | .mbxSemSet rid l a0 a1 => Sys2Proof.Machine.execMbxSemSet rid l a0 a1 s
  | .clErrRead rid l => Sys2Proof.Machine.execClErrRead rid l s
  | .spmAccess p reqs ecc ew => Sys2Proof.Machine.execSpmAccess p reqs ecc ew s
  | .eccWriteback p word => Sys2Proof.Machine.execEccWriteback p word s
  | .scrubRead p bank ecc ew displaced => Sys2Proof.Machine.execScrubRead p bank ecc ew displaced s
  | .rangeClose rid l mask => Sys2Proof.Machine.execRangeClose rid l mask s
  | .rangeOpen rid l mask => Sys2Proof.Machine.execRangeOpen rid l mask s
  | .rangeOff rid l mask => Sys2Proof.Machine.execRangeOff rid l mask s
  | .rangeOn rid l mask => Sys2Proof.Machine.execRangeOn rid l mask s
  | .rangePowerDown p k => Sys2Proof.Machine.execRangePowerDown p k s
  | .rangeOnComplete p k => Sys2Proof.Machine.execRangeOnComplete p k s
  | .windowAccess src tag l w gen off size write data => Sys2Proof.Machine.execWindowAccess src tag l w gen off size write data s
  | .spmAddrAccess src tag l off size write data => Sys2Proof.Machine.execSpmAddrAccess src tag l off size write data s
  | .winOpenWrite rid l mask => Sys2Proof.Machine.execWinOpenWrite rid l mask s
  | .winCloseWrite rid l mask => Sys2Proof.Machine.execWinCloseWrite rid l mask s
  | .windowDrained p w => Sys2Proof.Machine.execWindowDrained p w s
  | .winOpen rid l a0 a1 a2 => Sys2Proof.Machine.execWinOpen rid l a0 a1 a2 s
  | .winClose rid l a0 => Sys2Proof.Machine.execWinClose rid l a0 s
  | .winStatus rid l a0 => Sys2Proof.Machine.execWinStatus rid l a0 s
  | .rangeSet rid l a0 a1 => Sys2Proof.Machine.execRangeSet rid l a0 a1 s
  | .eccRead rid l => Sys2Proof.Machine.execEccRead rid l s
  | .meshPacketInject p dst vc flits tag => Sys2Proof.Machine.execMeshPacketInject p dst vc flits tag s
  | .meshFlitRetry p port again => Sys2Proof.Machine.execMeshFlitRetry p port again s
  | .responderRefuse p kind tag => Sys2Proof.Machine.execResponderRefuse p kind tag s
  | .meshRequestTimeout p tag => Sys2Proof.Machine.execMeshRequestTimeout p tag s
  | .landingHandshakeEnter p port offset => Sys2Proof.Machine.execLandingHandshakeEnter p port offset s
  | .landingRecentre p port offset => Sys2Proof.Machine.execLandingRecentre p port offset s
  | .detourWrite rid l e v => Sys2Proof.Machine.execDetourWrite rid l e v s
  | .rtrCommitArm rid l beat => Sys2Proof.Machine.execRtrCommitArm rid l beat s
  | .rtrCommit p b => Sys2Proof.Machine.execRtrCommit p b s
  | .mapChange b => Sys2Proof.Machine.execMapChange b s
  | .distPublish => Sys2Proof.Machine.execDistPublish s
  | .hbmRead req a size => Sys2Proof.Machine.execHbmRead req a size s
  | .hbmReadData a sev => Sys2Proof.Machine.execHbmReadData a sev s
  | .combineExpire a => Sys2Proof.Machine.execCombineExpire a s
  | .hbmWrite req a data => Sys2Proof.Machine.execHbmWrite req a data s
  | .parityDelta a => Sys2Proof.Machine.execParityDelta a s
  | .parityAck a => Sys2Proof.Machine.execParityAck a s
  | .lineReconstruct a => Sys2Proof.Machine.execLineReconstruct a s
  | .refresh n pc => Sys2Proof.Machine.execRefresh n pc s
  | .dramTempRead n t => Sys2Proof.Machine.execDramTempRead n t s
  | .msdFail n why => Sys2Proof.Machine.execMsdFail n why s
  | .proxyInstall n b => Sys2Proof.Machine.execProxyInstall n b s
  | .rebuildComplete n b => Sys2Proof.Machine.execRebuildComplete n b s
  | .patrolScrub n o sev => Sys2Proof.Machine.execPatrolScrub n o sev s
  | .engineDoorbell src n q idx => Sys2Proof.Machine.execEngineDoorbell src n q idx s
  | .seCommandStart n q => Sys2Proof.Machine.execSeCommandStart n q s
  | .seNop n q => Sys2Proof.Machine.execSeNop n q s
  | .seAttn n q => Sys2Proof.Machine.execSeAttn n q s
  | .seGather n q => Sys2Proof.Machine.execSeGather n q s
  | .seTopk n q => Sys2Proof.Machine.execSeTopk n q s
  | .seDigest n q => Sys2Proof.Machine.execSeDigest n q s
  | .seFence n q => Sys2Proof.Machine.execSeFence n q s
  | .seCommandComplete n q => Sys2Proof.Machine.execSeCommandComplete n q s
  | .slotApplyWrite rid n wc => Sys2Proof.Machine.execSlotApplyWrite rid n wc s
  | .slotTableSwitch n => Sys2Proof.Machine.execSlotTableSwitch n s
  | .msdStatus rid n => Sys2Proof.Machine.execMsdStatus rid n s
  | .offline rid n => Sys2Proof.Machine.execOffline rid n s
  | .online rid n => Sys2Proof.Machine.execOnline rid n s
  | .queueClear rid n q => Sys2Proof.Machine.execQueueClear rid n q s
  | .parityMode rid n on => Sys2Proof.Machine.execParityMode rid n on s
  | .msdErrRead rid n => Sys2Proof.Machine.execMsdErrRead rid n s
  | .imageLoad rid a0 a1 => Sys2Proof.Machine.execImageLoad rid a0 a1 s
  | .admissionComplete bad => Sys2Proof.Machine.execAdmissionComplete bad s
  | .imageDiscard rid => Sys2Proof.Machine.execImageDiscard rid s
  | .imageSwitch rid a0 => Sys2Proof.Machine.execImageSwitch rid a0 s
  | .calCancel rid => Sys2Proof.Machine.execCalCancel rid s
  | .imageRollback rid a0 => Sys2Proof.Machine.execImageRollback rid a0 s
  | .confirm rid => Sys2Proof.Machine.execConfirm rid s
  | .healthFail rid => Sys2Proof.Machine.execHealthFail rid s
  | .releasePrevious rid => Sys2Proof.Machine.execReleasePrevious rid s
  | .storeBoot rid a0 => Sys2Proof.Machine.execStoreBoot rid a0 s
  | .calStatus rid => Sys2Proof.Machine.execCalStatus rid s
  | .switchStopBeat b => Sys2Proof.Machine.execSwitchStopBeat b s
  | .switchDrained => Sys2Proof.Machine.execSwitchDrained s
  | .switchActivationStart b bad => Sys2Proof.Machine.execSwitchActivationStart b bad s
  | .switchBeat b => Sys2Proof.Machine.execSwitchBeat b s
  | .watchEnd b => Sys2Proof.Machine.execWatchEnd b s
  | .watchFail c b => Sys2Proof.Machine.execWatchFail c b s
  | .escMarker leaf behind ahead => Sys2Proof.Machine.execEscMarker leaf behind ahead s
  | .alignExchange b => Sys2Proof.Machine.execAlignExchange b s
  | .alignLost b => Sys2Proof.Machine.execAlignLost b s
  | .trigCtlArm rid t action => Sys2Proof.Machine.execTrigCtlArm rid t action s
  | .triggerFire t b => Sys2Proof.Machine.execTriggerFire t b s
  | .escNow rid => Sys2Proof.Machine.execEscNow rid s
  | .alignStatus rid => Sys2Proof.Machine.execAlignStatus rid s
  | .trigArm rid a0 a1 a2 => Sys2Proof.Machine.execTrigArm rid a0 a1 a2 s
  | .trigCancel rid a0 => Sys2Proof.Machine.execTrigCancel rid a0 s
  | .escFaultRead rid => Sys2Proof.Machine.execEscFaultRead rid s
  | .intakeDescriptor r => Sys2Proof.Machine.execIntakeDescriptor r s
  | .reqSubmit => Sys2Proof.Machine.execReqSubmit s
  | .reqCancel => Sys2Proof.Machine.execReqCancel s
  | .stepBoundary b => Sys2Proof.Machine.execStepBoundary b s
  | .waitLimitTimeout b => Sys2Proof.Machine.execWaitLimitTimeout b s
  | .retrievalMerge ring id lists => Sys2Proof.Machine.execRetrievalMerge ring id lists s
  | .sampleToken ring id logits drafts b => Sys2Proof.Machine.execSampleToken ring id logits drafts b s
  | .answerRecordWrite ring id => Sys2Proof.Machine.execAnswerRecordWrite ring id s
  | .answerFlushTimeout ring id b => Sys2Proof.Machine.execAnswerFlushTimeout ring id b s
  | .answerIndexWrite ans => Sys2Proof.Machine.execAnswerIndexWrite ans s
  | .answerStallTimeout ring id b => Sys2Proof.Machine.execAnswerStallTimeout ring id b s
  | .coreFail k => Sys2Proof.Machine.execCoreFail k s
  | .admitCtlWrite rid on => Sys2Proof.Machine.execAdmitCtlWrite rid on s
  | .ringOpen rid a0 a1 a2 a3 => Sys2Proof.Machine.execRingOpen rid a0 a1 a2 a3 s
  | .ringClose rid a0 a1 => Sys2Proof.Machine.execRingClose rid a0 a1 s
  | .ringStatus rid a0 a1 => Sys2Proof.Machine.execRingStatus rid a0 a1 s
  | .tokLoad rid a0 a1 a2 => Sys2Proof.Machine.execTokLoad rid a0 a1 a2 s
  | .tokUnload rid a0 => Sys2Proof.Machine.execTokUnload rid a0 s
  | .svcCancel rid a0 a1 => Sys2Proof.Machine.execSvcCancel rid a0 a1 s
  | .reqStatus rid a0 a1 => Sys2Proof.Machine.execReqStatus rid a0 a1 s
  | .svcAdmit rid a0 => Sys2Proof.Machine.execSvcAdmit rid a0 s
  | .prefixFlush rid => Sys2Proof.Machine.execPrefixFlush rid s
  | .svcStats rid => Sys2Proof.Machine.execSvcStats rid s
  | .serPortTrain port width rate reversed => Sys2Proof.Machine.execSerPortTrain port width rate reversed s
  | .serInitFlit port version flags node req snp data => Sys2Proof.Machine.execSerInitFlit port version flags node req snp data s
  | .serPortDown port => Sys2Proof.Machine.execSerPortDown port s
  | .serProtocolError port => Sys2Proof.Machine.execSerProtocolError port s
  | .rdShared port tag line => Sys2Proof.Machine.execRdShared port tag line s
  | .rdOwn port tag line => Sys2Proof.Machine.execRdOwn port tag line s
  | .upgrade port tag line => Sys2Proof.Machine.execUpgrade port tag line s
  | .evictDirty port tag line data => Sys2Proof.Machine.execEvictDirty port tag line data s
  | .evictClean port tag line => Sys2Proof.Machine.execEvictClean port tag line s
  | .rdNc port tag src a lg => Sys2Proof.Machine.execRdNc port tag src a lg s
  | .wrLine port tag src line data => Sys2Proof.Machine.execWrLine port tag src line data s
  | .wrPart port tag src line mask data => Sys2Proof.Machine.execWrPart port tag src line mask data s
  | .cmp port tag => Sys2Proof.Machine.execCmp port tag s
  | .cmpData port tag state data => Sys2Proof.Machine.execCmpData port tag state data s
  | .errResponse port tag status => Sys2Proof.Machine.execErrResponse port tag status s
  | .snpAck port tag line state => Sys2Proof.Machine.execSnpAck port tag line state s
  | .snpData port tag line state data => Sys2Proof.Machine.execSnpData port tag line state data s
  | .snpInv port tag line => Sys2Proof.Machine.execSnpInv port tag line s
  | .snpShare port tag line => Sys2Proof.Machine.execSnpShare port tag line s
  | .homeAgentAccess src tag a size write data => Sys2Proof.Machine.execHomeAgentAccess src tag a size write data s
  | .serRequestTimeout port tag => Sys2Proof.Machine.execSerRequestTimeout port tag s
  | .snoopEvictTimeout line => Sys2Proof.Machine.execSnoopEvictTimeout line s
  | .ownStand rid prio b => Sys2Proof.Machine.execOwnStand rid prio b s
  | .ownWithdraw rid b => Sys2Proof.Machine.execOwnWithdraw rid b s
  | .ownRenew rid b => Sys2Proof.Machine.execOwnRenew rid b s
  | .ownResign rid b => Sys2Proof.Machine.execOwnResign rid b s
  | .ownOffer rid cand b => Sys2Proof.Machine.execOwnOffer rid cand b s
  | .ownAccept rid b => Sys2Proof.Machine.execOwnAccept rid b s
  | .electionClose b => Sys2Proof.Machine.execElectionClose b s
  | .leaseEnd b => Sys2Proof.Machine.execLeaseEnd b s
  | .offerExpire b => Sys2Proof.Machine.execOfferExpire b s
  | .serCohWrite rid v => Sys2Proof.Machine.execSerCohWrite rid v s
  | .grantWrite rid g v => Sys2Proof.Machine.execGrantWrite rid g v s
  | .portStatus rid p => Sys2Proof.Machine.execPortStatus rid p s
  | .detach rid p => Sys2Proof.Machine.execDetach rid p s
  | .attach rid p => Sys2Proof.Machine.execAttach rid p s
  | .attachTimeout b => Sys2Proof.Machine.execAttachTimeout b s
  | .ownerStatus rid => Sys2Proof.Machine.execOwnerStatus rid s
  | .filterStatus rid => Sys2Proof.Machine.execFilterStatus rid s
  | .fabHello lg lane dev plg plane role n g => Sys2Proof.Machine.execFabHello lg lane dev plg plane role n g s
  | .helloSendTick => Sys2Proof.Machine.execHelloSendTick s
  | .linkAbsentTimeout => Sys2Proof.Machine.execLinkAbsentTimeout s
  | .ctrlMembers h mask => Sys2Proof.Machine.execCtrlMembers h mask s
  | .ctrlGroups h mask => Sys2Proof.Machine.execCtrlGroups h mask s
  | .fabWrite h cl data => Sys2Proof.Machine.execFabWrite h cl data s
  | .fabSignal h => Sys2Proof.Machine.execFabSignal h s
  | .fabAck h => Sys2Proof.Machine.execFabAck h s
  | .fabNak h => Sys2Proof.Machine.execFabNak h s
  | .fabAckTick => Sys2Proof.Machine.execFabAckTick s
  | .e2eRetryTimeout dev ch => Sys2Proof.Machine.execE2eRetryTimeout dev ch s
  | .fabFlitRetry lg n again => Sys2Proof.Machine.execFabFlitRetry lg n again s
  | .fabCollPacket h data => Sys2Proof.Machine.execFabCollPacket h data s
  | .fabBarrier h => Sys2Proof.Machine.execFabBarrier h s
  | .fabRelease h => Sys2Proof.Machine.execFabRelease h s
  | .fabTime h t1 t2 t3 answer => Sys2Proof.Machine.execFabTime h t1 t2 t3 answer s
  | .fabAnswer h data => Sys2Proof.Machine.execFabAnswer h data s
  | .ctrlHeartbeat h gen aligned => Sys2Proof.Machine.execCtrlHeartbeat h gen aligned s
  | .heartbeatTick => Sys2Proof.Machine.execHeartbeatTick s
  | .memberLost t b => Sys2Proof.Machine.execMemberLost t b s
  | .ctrlDigest h set gen step value => Sys2Proof.Machine.execCtrlDigest h set gen step value s
  | .digestReport b => Sys2Proof.Machine.execDigestReport b s
  | .digestCompare set gen step b => Sys2Proof.Machine.execDigestCompare set gen step b s
  | .ctrlExpel h expel fails rb => Sys2Proof.Machine.execCtrlExpel h expel fails rb s
  | .ctrlSwitch h op gen beat => Sys2Proof.Machine.execCtrlSwitch h op gen beat s
  | .ctrlSwitchAck h status gen => Sys2Proof.Machine.execCtrlSwitchAck h status gen s
  | .ctrlCollFail h id cause => Sys2Proof.Machine.execCtrlCollFail h id cause s
  | .routeRequest ring log2n area => Sys2Proof.Machine.execRouteRequest ring log2n area s
  | .laneFail lg lane => Sys2Proof.Machine.execLaneFail lg lane s
  | .relayInstall dev up => Sys2Proof.Machine.execRelayInstall dev up s
  | .collDoorbellPoll => Sys2Proof.Machine.execCollDoorbellPoll s
  | .collAllReduce q => Sys2Proof.Machine.execCollAllReduce q s
  | .collReduceScatter q => Sys2Proof.Machine.execCollReduceScatter q s
  | .collAllGather q => Sys2Proof.Machine.execCollAllGather q s
  | .collBroadcast q => Sys2Proof.Machine.execCollBroadcast q s
  | .collBarrier q => Sys2Proof.Machine.execCollBarrier q s
  | .collComplete q => Sys2Proof.Machine.execCollComplete q s
  | .lgStatus rid d a0 => Sys2Proof.Machine.execLgStatus rid d a0 s
  | .fabErrRead rid d => Sys2Proof.Machine.execFabErrRead rid d s
  | .collClear rid d q => Sys2Proof.Machine.execCollClear rid d q s
  | .groupSwitch rid d a0 a1 => Sys2Proof.Machine.execGroupSwitch rid d a0 a1 s
  | .groupRollback rid d a0 => Sys2Proof.Machine.execGroupRollback rid d a0 s
  | .fabExpel rid d a0 => Sys2Proof.Machine.execFabExpel rid d a0 s
  | .rejoin rid d a0 => Sys2Proof.Machine.execRejoin rid d a0 s
  | .fabMembersStatus rid d => Sys2Proof.Machine.execFabMembersStatus rid d s
  | .phaseLost g phase => Sys2Proof.Machine.execPhaseLost g phase s
  | .crackDetect g excess b => Sys2Proof.Machine.execCrackDetect g excess b s
  | .crackPersist g b => Sys2Proof.Machine.execCrackPersist g b s
  | .shortDetect g => Sys2Proof.Machine.execShortDetect g s
  | .efuseOpen g => Sys2Proof.Machine.execEfuseOpen g s
  | .capTick p10 vin iin b => Sys2Proof.Machine.execCapTick p10 vin iin b s
  | .galleryCurrentTick g iout low => Sys2Proof.Machine.execGalleryCurrentTick g iout low s
  | .sensorRead u l b => Sys2Proof.Machine.execSensorRead u l b s
  | .thermalSoftTick g => Sys2Proof.Machine.execThermalSoftTick g s
  | .heatPark g b => Sys2Proof.Machine.execHeatPark g b s
  | .heatUnpark g b => Sys2Proof.Machine.execHeatUnpark g b s
  | .thermalTrip u => Sys2Proof.Machine.execThermalTrip u s
  | .moduleTrip cause => Sys2Proof.Machine.execModuleTrip cause s
  | .marginAlert p alert b => Sys2Proof.Machine.execMarginAlert p alert b s
  | .alertHoldEnd p b => Sys2Proof.Machine.execAlertHoldEnd p b s
  | .fmaxRefine p b => Sys2Proof.Machine.execFmaxRefine p b s
  | .galPowerRequest g b => Sys2Proof.Machine.execGalPowerRequest g b s
  | .galGrant b => Sys2Proof.Machine.execGalGrant b s
  | .galForcing g skips theta b => Sys2Proof.Machine.execGalForcing g skips theta b s
  | .galRampDone g b => Sys2Proof.Machine.execGalRampDone g b s
  | .galOn g passes b => Sys2Proof.Machine.execGalOn g passes b s
  | .pmbusPowerLimit write w => Sys2Proof.Machine.execPmbusPowerLimit write w s
  | .throtAssert => Sys2Proof.Machine.execThrotAssert s
  | .throtRelease => Sys2Proof.Machine.execThrotRelease s
  | .capSetWrite rid w => Sys2Proof.Machine.execCapSetWrite rid w s
  | .clkModeWrite rid m => Sys2Proof.Machine.execClkModeWrite rid m s
  | .fsetWrite rid p f => Sys2Proof.Machine.execFsetWrite rid p f s
  | .calTableApply b => Sys2Proof.Machine.execCalTableApply b s
  | .capService rid w => Sys2Proof.Machine.execCapService rid w s
  | .pwrStatus rid => Sys2Proof.Machine.execPwrStatus rid s
  | .thrRead rid => Sys2Proof.Machine.execThrRead rid s
  | .galPark rid g => Sys2Proof.Machine.execGalPark rid g s
  | .galUnpark rid g => Sys2Proof.Machine.execGalUnpark rid g s
  | .galRestore rid g => Sys2Proof.Machine.execGalRestore rid g s
  | .calLoad rid a0 a1 => Sys2Proof.Machine.execCalLoad rid a0 a1 s
  | .pwrFaultRead rid => Sys2Proof.Machine.execPwrFaultRead rid s
  | .temps rid g => Sys2Proof.Machine.execTemps rid g s
  | .thmFaultRead rid => Sys2Proof.Machine.execThmFaultRead rid s
  | .clkFreq rid l f => Sys2Proof.Machine.execClkFreq rid l f s
  | .clkFmax rid p => Sys2Proof.Machine.execClkFmax rid p s
  | .faultReport kind unit cause unitCause b => Sys2Proof.Machine.execFaultReport kind unit cause unitCause b s
  | .ctrlPoll g answers b => Sys2Proof.Machine.execCtrlPoll g answers b s
  | .move l at_ fails b => Sys2Proof.Machine.execMove l at_ fails b s
  | .stepReplay rb b => Sys2Proof.Machine.execStepReplay rb b s
  | .replayStopTimeout b => Sys2Proof.Machine.execReplayStopTimeout b s
  | .replayRestart b => Sys2Proof.Machine.execReplayRestart b s
  | .trialRun p first again b => Sys2Proof.Machine.execTrialRun p first again b s
  | .fwRolloutRound at_ fails b => Sys2Proof.Machine.execFwRolloutRound at_ fails b s
  | .bruStatus rid => Sys2Proof.Machine.execBruStatus rid s
  | .logExport rid a0 a1 a2 => Sys2Proof.Machine.execLogExport rid a0 a1 a2 s
  | .fenceMove rid l => Sys2Proof.Machine.execFenceMove rid l s
  | .trialService rid p first again => Sys2Proof.Machine.execTrialService rid p first again s
  | .dmapLoad rid a0 a1 => Sys2Proof.Machine.execDmapLoad rid a0 a1 s
  | .fwUpdate rid a0 a1 a2 => Sys2Proof.Machine.execFwUpdate rid a0 a1 a2 s
  | .bruReset rid vinOk => Sys2Proof.Machine.execBruReset rid vinOk s
  | .fuseRead rid a0 a1 => Sys2Proof.Machine.execFuseRead rid a0 a1 s
  | .traceLostRecord u => Sys2Proof.Machine.execTraceLostRecord u s
  | .trcRearm rid u v => Sys2Proof.Machine.execTrcRearm rid u v s
  | .trcDataRead u => Sys2Proof.Machine.execTrcDataRead u s
  | .counterThaw b => Sys2Proof.Machine.execCounterThaw b s
  | .counterClearBeat b => Sys2Proof.Machine.execCounterClearBeat b s
  | .snapshotAreaWritten => Sys2Proof.Machine.execSnapshotAreaWritten s
  | .autoHangScan b => Sys2Proof.Machine.execAutoHangScan b s
  | .obsThaw rid a0 => Sys2Proof.Machine.execObsThaw rid a0 s
  | .obsClear rid a0 => Sys2Proof.Machine.execObsClear rid a0 s
  | .snapNow rid => Sys2Proof.Machine.execSnapNow rid s
  | .traceDump rid a0 a1 a2 => Sys2Proof.Machine.execTraceDump rid a0 a1 a2 s
  | .hangScan rid a0 a1 => Sys2Proof.Machine.execHangScan rid a0 a1 s
  | .attest rid a0 a1 a2 => Sys2Proof.Machine.execAttest rid a0 a1 a2 s
  | .certRead rid a0 => Sys2Proof.Machine.execCertRead rid a0 s
  | .logRead rid a0 a1 a2 => Sys2Proof.Machine.execLogRead rid a0 a1 a2 s
  | .extend rid a0 a1 => Sys2Proof.Machine.execExtend rid a0 a1 s
  | .svnCommit rid a0 a1 => Sys2Proof.Machine.execSvnCommit rid a0 a1 s
  | .revoke rid a0 => Sys2Proof.Machine.execRevoke rid a0 s
  | .prsntAssert us => Sys2Proof.Machine.execPrsntAssert us s
  | .inputStageClose us vin bus => Sys2Proof.Machine.execInputStageClose us vin bus s
  | .prsntRemove us => Sys2Proof.Machine.execPrsntRemove us s
  | .refclkLost us => Sys2Proof.Machine.execRefclkLost us s
  | .i3cCsRead a => Sys2Proof.Machine.execI3cCsRead a s
  | .i3cCsWrite a v => Sys2Proof.Machine.execI3cCsWrite a v s
  | .i3cRecNext => Sys2Proof.Machine.execI3cRecNext s
  | .i3cRecAck n => Sys2Proof.Machine.execI3cRecAck n s
  | .i3cStatus => Sys2Proof.Machine.execI3cStatus s
  | .pmbusClearFaults => Sys2Proof.Machine.execPmbusClearFaults s
  | .pmbusStatusWord => Sys2Proof.Machine.execPmbusStatusWord s
  | .pmbusReadVin => Sys2Proof.Machine.execPmbusReadVin s
  | .pmbusReadIin => Sys2Proof.Machine.execPmbusReadIin s
  | .pmbusReadPin => Sys2Proof.Machine.execPmbusReadPin s
  | .pmbusReadTemperature1 => Sys2Proof.Machine.execPmbusReadTemperature1 s
  | .pmbusReadTemperature2 => Sys2Proof.Machine.execPmbusReadTemperature2 s
  | .pmbusMfrId => Sys2Proof.Machine.execPmbusMfrId s
  | .pmbusMfrModel => Sys2Proof.Machine.execPmbusMfrModel s
  | .jtagExtest d low pins shift => Sys2Proof.Machine.execJtagExtest d low pins shift s
  | .jtagIdcode d => Sys2Proof.Machine.execJtagIdcode d s
  | .jtagSamplePreload d pins shift => Sys2Proof.Machine.execJtagSamplePreload d pins shift s
  | .jtagClamp d low => Sys2Proof.Machine.execJtagClamp d low s
  | .jtagHighz d low => Sys2Proof.Machine.execJtagHighz d low s
  | .jtagBypass d => Sys2Proof.Machine.execJtagBypass d s
  | .serFlitReplay port => Sys2Proof.Machine.execSerFlitReplay port s
  | .stairLinkRetrain k => Sys2Proof.Machine.execStairLinkRetrain k s
  | .msdBufferAccess src req n o size write data => Sys2Proof.Machine.execMsdBufferAccess src req n o size write data s
  | .membersDeadline => Sys2Proof.Machine.execMembersDeadline s
  | .badOpcodeCommand p st b => Sys2Proof.Machine.execBadOpcodeCommand p st b s
  | .fabReservedPacket h => Sys2Proof.Machine.execFabReservedPacket h s
  | .stairReservedOp => Sys2Proof.Machine.execStairReservedOp s
  | .i3cOtherOp op => Sys2Proof.Machine.execI3cOtherOp op s
  | .pmbusOtherCommand code => Sys2Proof.Machine.execPmbusOtherCommand code s

end Sys2Proof.Machine
end

