-- ==== Sys2Proof/WellFormed.lean ====
section
/-! DEFINITION. Which commands name only units the part has and forms the spec gives: the checks a sender's command passes. -/
namespace Sys2Proof

/-- Whether the command's unit numbers are the part's. -/
def Instr.wf (i : Instr) : Bool :=
  match i with
  | .controlRegisterWrite rid _ _ v => decide (rid < 65536 ∧ v < 2 ^ 64)
  | .mailboxCallComplete _ _ => true
  | .escLateMaxRead p => decide (p < 864)
  | .rstNReset _ _ => true
  | .stagePower straps _ shorts _ => decide (straps < 2 ^ 18) && shorts.all (fun g => decide (g < 144))
  | .stageSecureBoot _ => true
  | .stageFusesRead _ => true
  | .stageDefectMerge _ => true
  | .stagePhaseTraining failed _ => failed.all (fun e => decide (e.1 < 864 ∧ e.2 < 7))
  | .stageMemoryTraining failed _ => failed.all (fun n => decide (n < 16))
  | .stageSelfTests fails _ => fails.all (fun p => decide (p < 864))
  | .stageTopologyDiscovery refBeat _ => decide (refBeat < 2 ^ 64)
  | .discoveryTimeout _ => true
  | .stageCalibreLoad _ _ => true
  | .stairRead tag _ => decide (tag < 256)
  | .stairWrite tag _ _ v => decide (tag < 256 ∧ v < 2 ^ 64)
  | .stairResponse tag unit => decide (tag < 256 ∧ unit < 4096)
  | .stairFence node quad unit => decide (node < 64 ∧ quad < 4 ∧ unit < 16)
  | .stairUnfence node quad unit => decide (node < 64 ∧ quad < 4 ∧ unit < 16)
  | .stairPark node quad => decide (node < 36 ∧ quad < 4)
  | .stairUnpark node quad => decide (node < 36 ∧ quad < 4)
  | .stairReport kind _ _ _ _ _ => decide (kind < 11)
  | .stairSnapshotData _ off => decide (off < 0x80000)
  | .stairFrameCrcFail k _ => decide (k < 2560)
  | .ctlNop p st _ => decide (p < 864 ∧ st < 32)
  | .ctlMark p st _ => decide (p < 864 ∧ st < 32)
  | .ctlJump p st _ => decide (p < 864 ∧ st < 32)
  | .ctlLoopSet p st _ => decide (p < 864 ∧ st < 32)
  | .ctlLoop p st _ => decide (p < 864 ∧ st < 32)
  | .ctlExec p st _ => decide (p < 864 ∧ st < 32)
  | .ctlHalt p st _ => decide (p < 864 ∧ st < 32)
  | .semSet p st _ => decide (p < 864 ∧ st < 32)
  | .semAdd p st _ => decide (p < 864 ∧ st < 32)
  | .semSignal p st _ => decide (p < 864 ∧ st < 32)
  | .semSignalArrive t sem _ _ _ _ => decide (t < 800 ∧ sem < 64)
  | .signalAck p _ _ => decide (p < 864)
  | .fenceRel p st _ => decide (p < 864 ∧ st < 32)
  | .fenceRelComplete p st => decide (p < 864 ∧ st < 32)
  | .fenceAcq p st _ => decide (p < 864 ∧ st < 32)
  | .matRun p st _ => decide (p < 864 ∧ st < 32)
  | .matDescArrive p => decide (p < 864)
  | .feederLineArrive p r => decide (p < 864 ∧ r < 16)
  | .actLineArrive p => decide (p < 864)
  | .matPassStart p => decide (p < 864)
  | .matSlotUpdate p => decide (p < 864)
  | .matRunComplete p => decide (p < 864)
  | .matReadout p st _ => decide (p < 864 ∧ st < 32)
  | .matReadoutCopy p _ => decide (p < 864)
  | .matReadoutDrain p => decide (p < 864)
  | .matReadoutComplete p => decide (p < 864)
  | .matClear p st _ => decide (p < 864 ∧ st < 32)
  | .matCtrlWrite _ l v => decide (l < 800 ∧ v < 2 ^ 64)
  | .arithCtrlWrite _ l repro => decide (l < 800 ∧ repro < 2)
  | .vecEw p st _ => decide (p < 864 ∧ st < 32)
  | .vecSfu p st _ => decide (p < 864 ∧ st < 32)
  | .vecRed p st _ => decide (p < 864 ∧ st < 32)
  | .vecSmax p st _ => decide (p < 864 ∧ st < 32)
  | .vecNorm p st _ => decide (p < 864 ∧ st < 32)
  | .vecCvt p st _ => decide (p < 864 ∧ st < 32)
  | .vecMove p st _ => decide (p < 864 ∧ st < 32)
  | .vecComplete p => decide (p < 864)
  | .dmaSubmit p st _ => decide (p < 864 ∧ st < 32)
  | .dmaDescStart p c j => decide (p < 864 ∧ c < 64 ∧ j < 16)
  | .dmaDescComplete p c j => decide (p < 864 ∧ c < 64 ∧ j < 16)
  | .dmaDescFail p c j => decide (p < 864 ∧ c < 64 ∧ j < 16)
  | .clStreamCtlResume _ l st pc => decide (l < 800 ∧ st < 32 ∧ pc < 8192)
  | .clStreamCtlStop _ l st => decide (l < 800 ∧ st < 32)
  | .clSemWrite _ l sem v => decide (l < 800 ∧ sem < 64 ∧ v < 2 ^ 64)
  | .dmaCtxClrWrite _ l mask => decide (l < 800 ∧ mask < 2 ^ 64)
  | .streamStatus _ l _ => decide (l < 800)
  | .streamResume _ l _ _ => decide (l < 800)
  | .streamStop _ l _ => decide (l < 800)
  | .ctxClear _ l _ => decide (l < 800)
  | .mbxSemSet _ l _ _ => decide (l < 800)
  | .clErrRead _ l => decide (l < 800)
  | .spmAccess p reqs ecc _ => decide (p < 864 ∧ ecc < 3) && reqs.all (fun r => decide (r.q < 24))
  | .eccWriteback p _ => decide (p < 864)
  | .scrubRead p bank ecc ew _ => decide (p < 864 ∧ bank < 128 ∧ ecc < 3 ∧ ew < 8)
  | .rangeClose _ l mask => decide (l < 800 ∧ mask < 4096)
  | .rangeOpen _ l mask => decide (l < 800 ∧ mask < 4096)
  | .rangeOff _ l mask => decide (l < 800 ∧ mask < 4096)
  | .rangeOn _ l mask => decide (l < 800 ∧ mask < 4096)
  | .rangePowerDown p k => decide (p < 864 ∧ k < 12)
  | .rangeOnComplete p k => decide (p < 864 ∧ k < 12)
  | .windowAccess _ _ l w gen _ _ _ _ => decide (l < 800 ∧ w < 64 ∧ gen < 256)
  | .spmAddrAccess _ _ l _ _ _ _ => decide (l < 800)
  | .winOpenWrite _ l mask => decide (l < 800 ∧ mask < 2 ^ 64)
  | .winCloseWrite _ l mask => decide (l < 800 ∧ mask < 2 ^ 64)
  | .windowDrained p w => decide (p < 864 ∧ w < 64)
  | .winOpen _ l _ _ _ => decide (l < 800)
  | .winClose _ l _ => decide (l < 800)
  | .winStatus _ l _ => decide (l < 800)
  | .rangeSet _ l _ _ => decide (l < 800)
  | .eccRead _ l => decide (l < 800)
  | .meshPacketInject p dst vc flits _ => decide (p < 864 ∧ dst < 819 ∧ vc < 4 ∧ 1 ≤ flits ∧ flits ≤ 5)
  | .meshFlitRetry p port _ => decide (p < 864 ∧ port < 7)
  | .responderRefuse p kind _ => decide (p < 864 ∧ kind < 3)
  | .meshRequestTimeout p _ => decide (p < 864)
  | .landingHandshakeEnter p port offset => decide (p < 864 ∧ port < 7 ∧ offset < 16)
  | .landingRecentre p port offset => decide (p < 864 ∧ port < 7 ∧ offset < 16)
  | .detourWrite _ l e v => decide (l < 800 ∧ e < 32 ∧ v < 2 ^ 64)
  | .rtrCommitArm _ l beat => decide (l < 800 ∧ beat < 2 ^ 63)
  | .rtrCommit p _ => decide (p < 864)
  | .mapChange _ => true
  | .distPublish => true
  | .hbmRead _ _ _ => true
  | .hbmReadData _ sev => decide (sev < 3)
  | .combineExpire _ => true
  | .hbmWrite _ _ _ => true
  | .parityDelta _ => true
  | .parityAck _ => true
  | .lineReconstruct _ => true
  | .refresh n pc => decide (n < 16 ∧ pc < 32)
  | .dramTempRead n _ => decide (n < 16)
  | .msdFail n why => decide (n < 16 ∧ why < 5)
  | .proxyInstall n _ => decide (n < 16)
  | .rebuildComplete n _ => decide (n < 16)
  | .patrolScrub n _ sev => decide (n < 16 ∧ sev < 3)
  | .engineDoorbell _ n q _ => decide (n < 16 ∧ q < 32)
  | .seCommandStart n q => decide (n < 16 ∧ q < 32)
  | .seNop n q => decide (n < 16 ∧ q < 32)
  | .seAttn n q => decide (n < 16 ∧ q < 32)
  | .seGather n q => decide (n < 16 ∧ q < 32)
  | .seTopk n q => decide (n < 16 ∧ q < 32)
  | .seDigest n q => decide (n < 16 ∧ q < 32)
  | .seFence n q => decide (n < 16 ∧ q < 32)
  | .seCommandComplete n q => decide (n < 16 ∧ q < 32)
  | .slotApplyWrite _ n wc => decide (n < 16 ∧ wc < 2)
  | .slotTableSwitch n => decide (n < 16)
  | .msdStatus _ n => decide (n < 16)
  | .offline _ n => decide (n < 16)
  | .online _ n => decide (n < 16)
  | .queueClear _ n _ => decide (n < 16)
  | .parityMode _ n _ => decide (n < 16)
  | .msdErrRead _ n => decide (n < 16)
  | .imageLoad rid a0 a1 => decide (rid < 2 ^ 16 ∧ a0 < 2 ^ 64 ∧ a1 < 2 ^ 64)
  | .admissionComplete _ => true
  | .imageDiscard rid => decide (rid < 2 ^ 16)
  | .imageSwitch rid a0 => decide (rid < 2 ^ 16 ∧ a0 < 2 ^ 64)
  | .calCancel rid => decide (rid < 2 ^ 16)
  | .imageRollback rid a0 => decide (rid < 2 ^ 16 ∧ a0 < 2 ^ 64)
  | .confirm rid => decide (rid < 2 ^ 16)
  | .healthFail rid => decide (rid < 2 ^ 16)
  | .releasePrevious rid => decide (rid < 2 ^ 16)
  | .storeBoot rid a0 => decide (rid < 2 ^ 16 ∧ a0 < 2 ^ 64)
  | .calStatus rid => decide (rid < 2 ^ 16)
  | .switchStopBeat b => decide (b < 2 ^ 64)
  | .switchDrained => true
  | .switchActivationStart b _ => decide (b < 2 ^ 64)
  | .switchBeat b => decide (b < 2 ^ 64)
  | .watchEnd b => decide (b < 2 ^ 64)
  | .watchFail c b => decide (c < 4 ∧ b < 2 ^ 64)
  | .escMarker leaf behind ahead => decide (leaf < 919 ∧ (behind = 0 ∨ ahead = 0))
  | .alignExchange b => decide (b < 2 ^ 64)
  | .alignLost b => decide (b < 2 ^ 64)
  | .trigCtlArm _ t action => decide (t < 8 ∧ action < 16)
  | .triggerFire t b => decide (t < 9 ∧ b < 2 ^ 64)
  | .escNow rid => decide (rid < 2 ^ 16)
  | .alignStatus rid => decide (rid < 2 ^ 16)
  | .trigArm rid a0 a1 a2 => decide (rid < 2 ^ 16 ∧ a0 < 2 ^ 64 ∧ a1 < 2 ^ 64 ∧ a2 < 2 ^ 64)
  | .trigCancel rid a0 => decide (rid < 2 ^ 16 ∧ a0 < 2 ^ 64)
  | .escFaultRead rid => decide (rid < 2 ^ 16)
  | .intakeDescriptor r => decide (r < 64)
  | .reqSubmit => true
  | .reqCancel => true
  | .stepBoundary b => decide (b < 2 ^ 64)
  | .waitLimitTimeout b => decide (b < 2 ^ 64)
  | .retrievalMerge ring id lists => decide (ring < 64 ∧ id < 2 ^ 64 ∧ lists.length = 16)
  | .sampleToken ring id logits drafts b => decide (ring < 64 ∧ id < 2 ^ 64 ∧ logits.length = drafts.length + 1 ∧ drafts.length ≤ 8 ∧ b < 2 ^ 64)
  | .answerRecordWrite ring id => decide (ring < 64 ∧ id < 2 ^ 64)
  | .answerFlushTimeout ring id b => decide (ring < 64 ∧ id < 2 ^ 64 ∧ b < 2 ^ 64)
  | .answerIndexWrite ans => decide (ans < 256)
  | .answerStallTimeout ring id b => decide (ring < 64 ∧ id < 2 ^ 64 ∧ b < 2 ^ 64)
  | .coreFail k => decide (k < 16)
  | .admitCtlWrite _ on => decide (on < 2)
  | .ringOpen rid a0 a1 a2 a3 => decide (rid < 2 ^ 16 ∧ a0 < 2 ^ 64 ∧ a1 < 2 ^ 64 ∧ a2 < 2 ^ 64 ∧ a3 < 2 ^ 64)
  | .ringClose rid a0 a1 => decide (rid < 2 ^ 16 ∧ a0 < 2 ^ 64 ∧ a1 < 2 ^ 64)
  | .ringStatus rid a0 a1 => decide (rid < 2 ^ 16 ∧ a0 < 2 ^ 64 ∧ a1 < 2 ^ 64)
  | .tokLoad rid a0 a1 a2 => decide (rid < 2 ^ 16 ∧ a0 < 2 ^ 64 ∧ a1 < 2 ^ 64 ∧ a2 < 2 ^ 64)
  | .tokUnload rid a0 => decide (rid < 2 ^ 16 ∧ a0 < 2 ^ 64)
  | .svcCancel rid a0 a1 => decide (rid < 2 ^ 16 ∧ a0 < 2 ^ 64 ∧ a1 < 2 ^ 64)
  | .reqStatus rid a0 a1 => decide (rid < 2 ^ 16 ∧ a0 < 2 ^ 64 ∧ a1 < 2 ^ 64)
  | .svcAdmit rid a0 => decide (rid < 2 ^ 16 ∧ a0 < 2 ^ 64)
  | .prefixFlush rid => decide (rid < 2 ^ 16)
  | .svcStats rid => decide (rid < 2 ^ 16)
  | .serPortTrain port width rate reversed => decide (port < 2 ∧ width < 4 ∧ rate < 2 ∧ reversed < 2)
  | .serInitFlit port _ _ _ _ _ _ => decide (port < 2)
  | .serPortDown port => decide (port < 2)
  | .serProtocolError port => decide (port < 2)
  | .rdShared port tag _ => decide (port < 2 ∧ tag < 4096)
  | .rdOwn port tag _ => decide (port < 2 ∧ tag < 4096)
  | .upgrade port tag _ => decide (port < 2 ∧ tag < 4096)
  | .evictDirty port tag _ data => decide (port < 2 ∧ tag < 4096 ∧ data.length = 64)
  | .evictClean port tag _ => decide (port < 2 ∧ tag < 4096)
  | .rdNc port tag src _ lg => decide (port < 2 ∧ tag < 4096 ∧ src < 4096 ∧ 2 ≤ lg ∧ lg ≤ 6)
  | .wrLine port tag src _ data => decide (port < 2 ∧ tag < 4096 ∧ src < 4096 ∧ data.length = 64)
  | .wrPart port tag src _ mask data => decide (port < 2 ∧ tag < 4096 ∧ src < 4096 ∧ mask < 2 ^ 64 ∧ data.length = 64)
  | .cmp port tag => decide (port < 2 ∧ tag < 4096)
  | .cmpData port tag state data => decide (port < 2 ∧ tag < 4096 ∧ state < 4 ∧ data.length = 64)
  | .errResponse port tag _ => decide (port < 2 ∧ tag < 4096)
  | .snpAck port _ _ state => decide (port < 2 ∧ state < 4)
  | .snpData port _ _ state data => decide (port < 2 ∧ state < 4 ∧ data.length = 64)
  | .snpInv port _ _ => decide (port < 2)
  | .snpShare port _ _ => decide (port < 2)
  | .homeAgentAccess _ _ a size _ _ => decide (a % 64 + size ≤ 64)
  | .serRequestTimeout port tag => decide (port < 2 ∧ tag < 4096)
  | .snoopEvictTimeout _ => true
  | .ownStand rid prio _ => decide (rid < 65536 ∧ prio < 16)
  | .ownWithdraw rid _ => decide (rid < 65536)
  | .ownRenew rid _ => decide (rid < 65536)
  | .ownResign rid _ => decide (rid < 65536)
  | .ownOffer rid cand _ => decide (rid < 65536 ∧ cand < 16)
  | .ownAccept rid _ => decide (rid < 65536)
  | .electionClose _ => true
  | .leaseEnd _ => true
  | .offerExpire _ => true
  | .serCohWrite _ v => decide (v < 2 ^ 64)
  | .grantWrite _ g v => decide (g < 16 ∧ v < 2 ^ 64)
  | .portStatus _ _ => true
  | .detach _ _ => true
  | .attach _ _ => true
  | .attachTimeout _ => true
  | .ownerStatus _ => true
  | .filterStatus _ => true
  | .fabHello lg lane _ _ _ _ _ _ => decide (lg < 18 ∧ lane < 8)
  | .helloSendTick => true
  | .linkAbsentTimeout => true
  | .ctrlMembers h mask => decide (h.lg < 18 ∧ h.type = 8 ∧ h.vc = 2 ∧ mask < 65536)
  | .ctrlGroups h mask => decide (h.lg < 18 ∧ h.type = 8 ∧ h.vc = 2 ∧ mask < 65536)
  | .fabWrite h _ _ => decide (h.lg < 18 ∧ h.type = 1 ∧ h.vc = 0)
  | .fabSignal h => decide (h.lg < 18 ∧ h.type = 2 ∧ h.vc = 0)
  | .fabAck h => decide (h.lg < 18 ∧ h.type = 3 ∧ h.packet < 3)
  | .fabNak h => decide (h.lg < 18 ∧ h.type = 4 ∧ h.packet < 3)
  | .fabAckTick => true
  | .e2eRetryTimeout dev ch => decide (dev < 256 ∧ ch < 3)
  | .fabFlitRetry lg _ _ => decide (lg < 18)
  | .fabCollPacket h _ => decide (h.lg < 18 ∧ h.type = 5 ∧ h.vc = 1)
  | .fabBarrier h => decide (h.lg < 18 ∧ h.type = 6 ∧ h.vc = 2)
  | .fabRelease h => decide (h.lg < 18 ∧ h.type = 7 ∧ h.vc = 2)
  | .fabTime h _ _ _ _ => decide (h.lg < 18 ∧ h.type = 0xA ∧ h.vc = 2)
  | .fabAnswer h _ => decide (h.lg < 18 ∧ h.type = 11 ∧ h.vc = 0)
  | .ctrlHeartbeat h _ aligned => decide (h.lg < 18 ∧ h.type = 8 ∧ h.vc = 2 ∧ aligned < 2)
  | .heartbeatTick => true
  | .memberLost t _ => decide (t < 16)
  | .ctrlDigest h _ _ _ _ => decide (h.lg < 18 ∧ h.type = 8 ∧ h.vc = 2)
  | .digestReport _ => true
  | .digestCompare _ _ _ _ => true
  | .ctrlExpel h _ _ _ => decide (h.lg < 18 ∧ h.type = 8 ∧ h.vc = 2)
  | .ctrlSwitch h op _ _ => decide (h.lg < 18 ∧ h.type = 8 ∧ h.vc = 2 ∧ op < 3)
  | .ctrlSwitchAck h _ _ => decide (h.lg < 18 ∧ h.type = 8 ∧ h.vc = 2)
  | .ctrlCollFail h _ _ => decide (h.lg < 18 ∧ h.type = 8 ∧ h.vc = 2)
  | .routeRequest _ log2n _ => decide (log2n < 17)
  | .laneFail lg lane => decide (lg < 18 ∧ lane < 8)
  | .relayInstall dev _ => decide (dev < 256)
  | .collDoorbellPoll => true
  | .collAllReduce q => q < 16
  | .collReduceScatter q => q < 16
  | .collAllGather q => q < 16
  | .collBroadcast q => q < 16
  | .collBarrier q => q < 16
  | .collComplete q => q < 16
  | .lgStatus _ d _ => decide (d < 2)
  | .fabErrRead _ d => decide (d < 2)
  | .collClear _ d _ => d < 2
  | .groupSwitch _ d _ _ => decide (d < 2)
  | .groupRollback _ d _ => decide (d < 2)
  | .fabExpel _ d _ => decide (d < 2)
  | .rejoin _ d _ => decide (d < 2)
  | .fabMembersStatus _ d => decide (d < 2)
  | .phaseLost g phase => decide (g < 144 ∧ phase < 16)
  | .crackDetect g _ _ => decide (g < 144)
  | .crackPersist g _ => decide (g < 144)
  | .shortDetect g => decide (g < 144)
  | .efuseOpen g => decide (g < 144)
  | .capTick p10 vin iin _ => decide (p10 < 65536 ∧ vin < 65536 ∧ iin < 65536)
  | .galleryCurrentTick g iout _ => decide (g < 144 ∧ iout < 256)
  | .sensorRead u l _ => decide (u < 164 ∧ l.length = (if u < 144 then 4 else 1))
  | .thermalSoftTick g => decide (g < 144)
  | .heatPark g _ => decide (g < 144)
  | .heatUnpark g _ => decide (g < 144)
  | .thermalTrip u => decide (u < 163)
  | .moduleTrip cause => decide (1 ≤ cause ∧ cause ≤ 4)
  | .marginAlert p _ _ => decide (p < 864)
  | .alertHoldEnd p _ => decide (p < 864)
  | .fmaxRefine p _ => decide (p < 864)
  | .galPowerRequest g _ => decide (g < 144)
  | .galGrant _ => true
  | .galForcing g _ _ _ => decide (g < 144)
  | .galRampDone g _ => decide (g < 144)
  | .galOn g passes _ => decide (g < 144 ∧ passes < 64)
  | .pmbusPowerLimit _ w => decide (w < 65536)
  | .throtAssert => true
  | .throtRelease => true
  | .capSetWrite _ w => decide (w < 65536)
  | .clkModeWrite _ m => decide (m < 2)
  | .fsetWrite _ p f => decide (p < 864 ∧ f < 65536)
  | .calTableApply _ => true
  | .capService _ _ => true
  | .pwrStatus _ => true
  | .thrRead _ => true
  | .galPark _ _ => true
  | .galUnpark _ _ => true
  | .galRestore _ _ => true
  | .calLoad _ _ _ => true
  | .pwrFaultRead _ => true
  | .temps _ _ => true
  | .thmFaultRead _ => true
  | .clkFreq _ _ _ => true
  | .clkFmax _ _ => true
  | .faultReport kind _ cause unitCause _ => decide (kind ≤ 10 ∧ cause < 256 ∧ unitCause < 256)
  | .ctrlPoll g answers _ => decide (g < 144 ∧ answers < 64)
  | .move l _ _ _ => decide (l < 800)
  | .stepReplay _ _ => true
  | .replayStopTimeout _ => true
  | .replayRestart _ => true
  | .trialRun p _ _ _ => decide (p < 864)
  | .fwRolloutRound _ fails _ => fails.all (fun p => decide (p < 864))
  | .bruStatus rid => decide (rid < 65536)
  | .logExport rid a0 a1 a2 => decide (rid < 65536 ∧ a0 < 2 ^ 64 ∧ a1 < 2 ^ 64 ∧ a2 < 2 ^ 64)
  | .fenceMove rid l => decide (rid < 65536 ∧ l < 2 ^ 64)
  | .trialService _ _ _ _ => true
  | .dmapLoad _ _ _ => true
  | .fwUpdate rid a0 a1 a2 => decide (rid < 65536 ∧ a0 < 2 ^ 64 ∧ a1 < 2 ^ 64 ∧ a2 < 2 ^ 64)
  | .bruReset rid _ => decide (rid < 65536)
  | .fuseRead _ _ _ => true
  | .traceLostRecord u => decide (u < 864 ∨ (1000 ≤ u ∧ u < 1016) ∨ u = 2000 ∨ u = 2001)
  | .trcRearm _ u _ => decide (u < 864 ∨ (1000 ≤ u ∧ u < 1016) ∨ u = 2000 ∨ u = 2001)
  | .trcDataRead u => decide (u < 864 ∨ (1000 ≤ u ∧ u < 1016) ∨ u = 2000 ∨ u = 2001)
  | .counterThaw b => decide (b < 2 ^ 64)
  | .counterClearBeat b => decide (b < 2 ^ 64)
  | .snapshotAreaWritten => true
  | .autoHangScan b => decide (b < 2 ^ 64)
  | .obsThaw rid a0 => decide (rid < 2 ^ 16 ∧ a0 < 2 ^ 64)
  | .obsClear rid a0 => decide (rid < 2 ^ 16 ∧ a0 < 2 ^ 64)
  | .snapNow rid => decide (rid < 2 ^ 16)
  | .traceDump rid a0 a1 a2 => decide (rid < 2 ^ 16 ∧ a0 < 2 ^ 64 ∧ a1 < 2 ^ 64 ∧ a2 < 2 ^ 64)
  | .hangScan rid a0 a1 => decide (rid < 2 ^ 16 ∧ a0 < 2 ^ 64 ∧ a1 < 2 ^ 64)
  | .attest _ _ _ _ => true
  | .certRead _ _ => true
  | .logRead _ _ _ _ => true
  | .extend _ _ _ => true
  | .svnCommit _ _ _ => true
  | .revoke _ _ => true
  | .prsntAssert _ => true
  | .inputStageClose _ _ _ => true
  | .prsntRemove _ => true
  | .refclkLost _ => true
  | .i3cCsRead a => decide (a < 2 ^ 48)
  | .i3cCsWrite a v => decide (a < 2 ^ 48 ∧ v < 2 ^ 64)
  | .i3cRecNext => true
  | .i3cRecAck n => decide (n < 2 ^ 64)
  | .i3cStatus => true
  | .pmbusClearFaults => true
  | .pmbusStatusWord => true
  | .pmbusReadVin => true
  | .pmbusReadIin => true
  | .pmbusReadPin => true
  | .pmbusReadTemperature1 => true
  | .pmbusReadTemperature2 => true
  | .pmbusMfrId => true
  | .pmbusMfrModel => true
  | .jtagExtest d _ _ _ => decide (d < 3)
  | .jtagIdcode d => decide (d < 3)
  | .jtagSamplePreload d _ _ => decide (d < 3)
  | .jtagClamp d _ => decide (d < 3)
  | .jtagHighz d _ => decide (d < 3)
  | .jtagBypass d => decide (d < 3)
  | .serFlitReplay port => decide (port < 2)
  | .stairLinkRetrain k => decide (k < 2560)
  | .msdBufferAccess _ _ n _ _ _ _ => decide (n < 16)
  | .membersDeadline => true
  | .badOpcodeCommand p st _ => decide (p < 864 ∧ st < 32)
  | .fabReservedPacket h => decide (h.lg < 18 ∧ (h.type = 0 ∨ 11 < h.type))
  | .stairReservedOp => true
  | .i3cOtherOp op => decide (op = 0 ∨ (5 < op ∧ op < 256))
  | .pmbusOtherCommand code => decide (code < 256) && !(([0x03, 0x79, 0x88, 0x89, 0x97, 0x8D, 0x8E, 0x99, 0x9A, 0xD0] : List Nat).contains code)

/-- A well-formed command. -/
def Instr.WellFormed (i : Instr) : Prop := i.wf = true

end Sys2Proof
end

