-- ==== Sys2Proof/Safety.lean ====
section
/-! DEFINITION. What statements about the part are written in: the canonical form of what it holds, that a command completes, what a
command leaves alone, and who may write. -/
namespace Sys2Proof.Machine

/-- The register file and every memory in canonical form. -/
def State.Canonical (s : State) : Prop :=
  tabWf regReset s.regs = true ∧ Memory.wf s.spm = true ∧ Memory.wf s.hbm = true ∧ Memory.wf s.buf = true

/-- Every waiting command names units the part has. -/
def State.QueueWf (s : State) : Prop := ∀ c ∈ s.pending, c.WellFormed

/-- What every step keeps: the canonical form, and that every waiting command names units the part has. -/
def State.Inv (s : State) : Prop := s.Canonical ∧ s.QueueWf

/-- A command completes, in a state of which `p` holds. -/
def Completes (c : Instr) (s : State) (p : State → Prop) : Prop := ∃ t, exec c s = .next t ∧ p t

/-- The registers that only count and log what happens: event counters and their configurations' overflow flags, the trace
pointers of clusters, MSDs and fabric dies (16), and the durations of throttle reasons (14 R427). -/
abbrev Tally (k : Nat) : Prop :=
  (0x30000000 ≤ k ∧ ((0x8000 ≤ k % 0x10000 ∧ k % 0x10000 < 0x8600) ∨ k % 0x10000 = 0x8708)) ∨
  (0x1000000 ≤ k ∧ k < 0x2000000 ∧ ((0x1000 ≤ k % 0x100000 ∧ k % 0x100000 < 0x1200) ∨ k % 0x100000 = 0x1208)) ∨
  (0x400000 ≤ k ∧ k < 0x600000 ∧ ((0x1000 ≤ k % 0x100000 ∧ k % 0x100000 < 0x1200) ∨ k % 0x100000 = 0x1208)) ∨
  (0xC10000 ≤ k ∧ k < 0xC30000) ∨ (0x800100 ≤ k ∧ k < 0x800130)

/-- Memories, map and registers are the same in two states but for the registers that `k` names. -/
def SameBut (k : Nat → Prop) (s t : State) : Prop :=
  t.spm = s.spm ∧ t.hbm = s.hbm ∧ t.buf = s.buf ∧ t.lmap = s.lmap ∧ ∀ i, ¬ k i → rd t i = rd s i

/-- No register, memory, or map entry differs. -/
def SameAll (s t : State) : Prop := SameBut (fun _ => False) s t

/-! ### Service calls (00 R14-R18) -/

/-- A requestor's call of a block's mailbox page `b` is taken: the part answers, a cluster's number is held and not on the move,
the requestor owns the part or holds a grant for the block, and no call runs there. -/
abbrev Callable (s : State) (rid b : Nat) : Prop :=
  partDown s = false ∧
  (mbxBlock b = gbCl → held s ((b - 0x10000000) / 0x80000) = true ∧ moving s ((b - 0x10000000) / 0x80000) = false) ∧
  mayWrite s rid (mbxBlock b) = true ∧ look s.calls b = none

/-- Whether a register lies in the mailbox page at `b`. -/
abbrev InPage (b k : Nat) : Prop := b ≤ k ∧ k < b + 0x1000

/-- The page at `b` shows a call that has ended with a status and results (00 R17): BUSY 0, DONE 1, the status, and every MBX_RES
register. -/
def CallEnded (t : State) (b status : Nat) (res : List Nat) : Prop :=
  rdN t (mbxStatus b) % 2 = 0 ∧ bitAt (rdN t (mbxStatus b)) 1 = true ∧ bitsAt 8 8 (rdN t (mbxStatus b)) = status % 256 ∧
  look t.calls b = none ∧ ∀ i, i < 16 → rd t (mbxRes b i) = BitVec.ofNat 64 (res.getD i 0)

/-- The call that command `c` makes on page `b` is taken and ends with `status` and `res`; memories, the map, and every register
outside the page and outside `K` are as before, and `p` holds. -/
def Calls (c : Instr) (s : State) (b status : Nat) (res : List Nat) (K : Nat → Prop) (p : State → Prop) : Prop :=
  Completes c s (fun t => t.answer = ⟨stOk, status :: res⟩ ∧ CallEnded t b status res ∧ SameBut (fun k => InPage b k ∨ K k) s t ∧ p t)

/-- The call that command `c` makes on page `b` is taken and runs on (00 R17): BUSY is 1, and the call is kept as `k`; memories, the
map, and every register outside the page and outside `K` are as before, and `p` holds. -/
def Starts (c : Instr) (s : State) (b : Nat) (k : Call) (K : Nat → Prop) (p : State → Prop) : Prop :=
  Completes c s (fun t => t.answer = ⟨stOk, []⟩ ∧ rdN t (mbxStatus b) % 2 = 1 ∧ look t.calls b = some k ∧
    SameBut (fun k => InPage b k ∨ K k) s t ∧ p t)

/-- The call that command `c` makes on page `b` is taken and ends with status OK and `res`, and nothing outside the page changes. -/
def Reads (c : Instr) (s : State) (b : Nat) (res : List Nat) : Prop := Calls c s b stOk res (fun _ => False) (fun t => t.cl = s.cl)

/-- The requestor and the mailbox page of a service call; none for a command that is no service call. -/
def callerOf (c : Instr) : Option (Nat × Nat) :=
  match c with
  | .bruStatus rid => some (rid, mbBru)
  | .logExport rid _ _ _ => some (rid, mbBru)
  | .fenceMove rid _ => some (rid, mbBru)
  | .fwUpdate rid _ _ _ => some (rid, mbBru)
  | .imageLoad rid _ _ => some (rid, mbCal)
  | .imageDiscard rid => some (rid, mbCal)
  | .imageSwitch rid _ => some (rid, mbCal)
  | .calCancel rid => some (rid, mbCal)
  | .imageRollback rid _ => some (rid, mbCal)
  | .confirm rid => some (rid, mbCal)
  | .healthFail rid => some (rid, mbCal)
  | .releasePrevious rid => some (rid, mbCal)
  | .storeBoot rid _ => some (rid, mbCal)
  | .calStatus rid => some (rid, mbCal)
  | .collClear rid d _ => some (rid, mbFab d)
  | .streamStatus rid l _ => some (rid, mbCl l)
  | .streamResume rid l _ _ => some (rid, mbCl l)
  | .streamStop rid l _ => some (rid, mbCl l)
  | .ctxClear rid l _ => some (rid, mbCl l)
  | .mbxSemSet rid l _ _ => some (rid, mbCl l)
  | .clErrRead rid l => some (rid, mbCl l)
  | .escNow rid => some (rid, mbEsc)
  | .alignStatus rid => some (rid, mbEsc)
  | .trigArm rid _ _ _ => some (rid, mbEsc)
  | .trigCancel rid _ => some (rid, mbEsc)
  | .escFaultRead rid => some (rid, mbEsc)
  | .lgStatus rid d _ => some (rid, mbFab d)
  | .fabErrRead rid d => some (rid, mbFab d)
  | .fabMembersStatus rid d => some (rid, mbFab d)
  | .groupSwitch rid d _ _ => some (rid, mbFab d)
  | .groupRollback rid d _ => some (rid, mbFab d)
  | .fabExpel rid d _ => some (rid, mbFab d)
  | .rejoin rid d _ => some (rid, mbFab d)
  | .detach rid _ => some (rid, mbSer)
  | .attach rid _ => some (rid, mbSer)
  | .obsThaw rid _ => some (rid, mbObs)
  | .obsClear rid _ => some (rid, mbObs)
  | .snapNow rid => some (rid, mbObs)
  | .traceDump rid _ _ _ => some (rid, mbObs)
  | .hangScan rid _ _ => some (rid, mbObs)
  | .galPark rid _ => some (rid, mbPwr)
  | .galUnpark rid _ => some (rid, mbPwr)
  | .galRestore rid _ => some (rid, mbPwr)
  | .calLoad rid _ _ => some (rid, mbPwr)
  | .capService rid _ => some (rid, mbPwr)
  | .pwrStatus rid => some (rid, mbPwr)
  | .thrRead rid => some (rid, mbPwr)
  | .pwrFaultRead rid => some (rid, mbPwr)
  | .temps rid _ => some (rid, mbThm)
  | .thmFaultRead rid => some (rid, mbThm)
  | .clkFreq rid _ _ => some (rid, mbClk)
  | .clkFmax rid _ => some (rid, mbClk)
  | .trialService rid _ _ _ => some (rid, mbBru)
  | .dmapLoad rid _ _ => some (rid, mbBru)
  | .attest rid _ _ _ => some (rid, mbSec)
  | .certRead rid _ => some (rid, mbSec)
  | .logRead rid _ _ _ => some (rid, mbSec)
  | .extend rid _ _ => some (rid, mbSec)
  | .svnCommit rid _ _ => some (rid, mbSec)
  | .revoke rid _ => some (rid, mbSec)
  | .fuseRead rid _ _ => some (rid, mbBru)
  | .portStatus rid _ => some (rid, mbSer)
  | .ownerStatus rid => some (rid, mbSer)
  | .filterStatus rid => some (rid, mbSer)
  | .winOpen rid l _ _ _ => some (rid, mbCl l)
  | .winClose rid l _ => some (rid, mbCl l)
  | .winStatus rid l _ => some (rid, mbCl l)
  | .rangeSet rid l _ _ => some (rid, mbCl l)
  | .eccRead rid l => some (rid, mbCl l)
  | .msdStatus rid n => some (rid, mbMsd n)
  | .offline rid n => some (rid, mbMsd n)
  | .online rid n => some (rid, mbMsd n)
  | .queueClear rid n _ => some (rid, mbMsd n)
  | .parityMode rid n _ => some (rid, mbMsd n)
  | .msdErrRead rid n => some (rid, mbMsd n)
  | .ringOpen rid _ _ _ _ => some (rid, mbSvc)
  | .ringClose rid _ _ => some (rid, mbSvc)
  | .ringStatus rid _ _ => some (rid, mbSvc)
  | .tokLoad rid _ _ _ => some (rid, mbSvc)
  | .tokUnload rid _ => some (rid, mbSvc)
  | .svcCancel rid _ _ => some (rid, mbSvc)
  | .reqStatus rid _ _ => some (rid, mbSvc)
  | .svcAdmit rid _ => some (rid, mbSvc)
  | .prefixFlush rid => some (rid, mbSvc)
  | .svcStats rid => some (rid, mbSvc)
  | _ => none

/-! ### Writes of control registers (00 R5-R14, 01 R39) -/

/-- A requestor's write reaches the registers of the cluster that holds number `l`: the part answers, the number is held and not on
the move, the stair to it is up, the requestor may write the CL block, and the block's EXPERT_EN is 1. -/
abbrev ClWritable (s : State) (rid l : Nat) : Prop :=
  l < 800 ∧ partDown s = false ∧ held s l = true ∧ moving s l = false ∧ stairUp s (stairCluster (physOf s l)) = true ∧
  mayWrite s rid gbCl = true ∧ rdN s (mbxExpertEn (mbCl l)) % 2 = 1

/-- A requestor's write reaches the register `k` of a block outside the clusters, whose mailbox page is `page`. -/
abbrev Writable (s : State) (rid k page : Nat) : Prop :=
  partDown s = false ∧ stairUp s (stairUnit s k) = true ∧ place s k = .reg k page ∧ k < 0x10000000 ∧ k % 8 = 0 ∧ k ≠ rSerOwnCmd ∧
  mayWrite s rid (mbxBlock page) = true ∧ rdN s (mbxExpertEn page) % 2 = 1

/-- A requestor's write reaches a register of the expert view of a cluster, at canonical offset `k` (01 R39): the requestor may write
the CL block and the BRU block's EXPERT_EN is 1. -/
abbrev ViewWritable (s : State) (rid k : Nat) : Prop :=
  0x30000000 ≤ k ∧ k < 0x30000000 + 864 * 0x10000 ∧ k % 8 = 0 ∧ partDown s = false ∧ stairUp s (stairUnit s k) = true ∧
  mayWrite s rid gbCl = true ∧ rdN s (mbxExpertEn mbBru) % 2 = 1

/-- The command ends with a status as its answer; memories, the map and every register outside `K` are as before, and `p` holds. -/
def Writes (c : Instr) (s : State) (status : Nat) (K : Nat → Prop) (p : State → Prop) : Prop :=
  Completes c s (fun t => t.answer = ⟨status, []⟩ ∧ SameBut K s t ∧ p t)

/-! ### HBM (07) -/

/-- Every stack gives its own lines: all MSDs SERVING, no line with an uncorrected error, no line write in progress. -/
def HbmReady (s : State) : Prop := (∀ n, n < 16 → msdState s n = msServing) ∧ s.hbmBad = [] ∧ s.lineWrites = []

/-- The byte of HBM at a device address, by the spread of addresses over the stacks (07 R213). -/
def hbmByte (s : State) (x : Nat) : Byte := memByte s.hbm (hkey (stackOf x) (stackOff x))

/-- `l` stands at device address `a`, and every other byte of addressable HBM is as before. -/
def Stored (s t : State) (a : Nat) (l : List Byte) : Prop :=
  ∀ x, x < hbmTop s → hbmByte t x = if a ≤ x ∧ x < a + l.length then l.getD (x - a) 0 else hbmByte s x

/-- Scratchpads, buffers, map and registers are the same in two states but for the registers that `k` names; HBM may differ. -/
def HbmBut (k : Nat → Prop) (s t : State) : Prop :=
  t.spm = s.spm ∧ t.buf = s.buf ∧ t.lmap = s.lmap ∧ ∀ i, ¬ k i → rd t i = rd s i

/-- The window generation map can be written: no image has one, or every stack is in service and the map lies in addressable HBM. -/
def GenMapReady (s : State) : Prop := s.genMap = none ∨ ∃ g, s.genMap = some g ∧ HbmReady s ∧ g + 51200 ≤ hbmTop s

/-- The bytes of HBM outside the `n` bytes at `a` are as before. -/
def HbmSame (s t : State) (a n : Nat) : Prop := ∀ x, x < hbmTop s → ¬ (a ≤ x ∧ x < a + n) → hbmByte t x = hbmByte s x

/-! ### Streams (04) -/

/-- `h` is the head command of stream `st` of cluster `p`, has opcode `o`, and launches now: the stream runs in a cluster in
service, no fence holds it, the command passes the controller's checks, and its launch condition holds (04 R117). -/
abbrev Launches (s : State) (p st o : Nat) (h : Head) : Prop :=
  headOf s p st = some h ∧ inService s p = true ∧ (streamState s p st = ssRunning ∨ streamState s p st = ssWaiting) ∧
  cOpcode h.cmd = o ∧ (streamOf s p st).fence = none ∧
  checkCause h.cmd st (streamOf s p st).first (streamOf s p st).last = 0 ∧
  (cLaunch h.cmd = 1 → cBeat h.cmd ≤ leafCount s (leafCl p)) ∧
  (cLaunch h.cmd = 2 → semReached (semOf s p (cWaitSem h.cmd)) (cWaitValue h.cmd) = true)

/-- The stream stands past its head command: at the next command of the block or at the next index, RUNNING, or HALTED where its
range ends (04 R112, R121). -/
def PastHead (s t : State) (p st : Nat) (h : Head) : Prop :=
  let z := streamOf s p st
  let block := if h.inBlock then z.block.tail else z.block
  (streamOf t p st).block = block ∧
  streamState t p st = (if block ≠ [] ∨ h.idx + 1 < z.last then ssRunning else ssHalted) ∧
  (block = [] → streamPc t p st = (h.idx + 1) % 2 ^ 13)

/-- The registers a launch and a completion of command `c` may write: the stream's, the late-launch group of the cluster (09
R287), the semaphore of done_add (04 R119), and the counting and tracing registers. -/
def LaunchReg (p st : Nat) (c : Cmd) (k : Nat) : Prop :=
  Tally k ∨ k = rClStream p st ∨ k = rClSem p (cDoneSem c) ∨ k = rClEscLate p ∨ k = rClEscLateCnt p ∨ k = rClEscLateBy p ∨
  k = rClEscLateMax p

/-- done_add has been applied (04 R119). -/
def DoneAdded (s t : State) (p : Nat) (c : Cmd) : Prop :=
  semOf t p (cDoneSem c) = (semOf s p (cDoneSem c) + cDoneAdd c) % 2 ^ 32

/-! ### Units of a cluster (02-05) -/

/-- Every cluster but `p` is as before. -/
def Others (p : Nat) (s t : State) : Prop := ∀ q, q ≠ p → cluster t q = cluster s q

/-- No MAT.CLEAR is the executing command of the matrix engine of cluster `p` (04 R118). -/
def NoClear (s : State) (p : Nat) : Prop := ∀ j, executing (cluster s p) = some j → isClear j = false

/-- A job of the matrix engine changed by `f`, every other one as it was. -/
def jobsWith (l : List MatJob) (j : MatJob) : List MatJob := l.map (fun k => if k.l.ord = j.l.ord then j else k)

/-- Byte `o` of the scratchpad of cluster `p`. -/
def spmByte (s : State) (p o : Nat) : Byte := memByte s.spm (p * 2 ^ 25 + o)

/-- HBM, buffers, map and registers are the same in two states but for the registers that `k` names; scratchpads may differ. -/
def SpmBut (k : Nat → Prop) (s t : State) : Prop :=
  t.hbm = s.hbm ∧ t.buf = s.buf ∧ t.lmap = s.lmap ∧ ∀ i, ¬ k i → rd t i = rd s i

/-- The command of stream `st` of cluster `p` that launches as `h` at leaf count `leafCount`, as its unit keeps it. -/
def launchedAs (s : State) (p st : Nat) (h : Head) : Launched := ⟨(cluster s p).nLaunch, st, h.idx, h.cmd, leafCount s (leafCl p)⟩

/-- The state after the first `n` rows of a vector command from `v` on, each row's results written before the next is read; a
transposition reads its source as it was (04 R135, R136). -/
def rowsDone (p o f : Nat) (repro : Bool) (d : List Byte) (v : State) (n : Nat) : State :=
  (List.range n).foldl (fun x r =>
    { applyWrites p (rowWork (if o = opVecMove ∧ f = 2 then v else x) p o f repro d r).writes x with free := x.free + 1 }) v

/-- One error record has been made, of this class, unit kind, unit and cause (15 R465). -/
def Recorded (s t : State) (cls kind unit cause : Nat) : Prop :=
  t.nRecords = s.nRecords + 1 ∧ ∃ r, t.records.head? = some r ∧ r.num = s.nRecords + 1 ∧ r.cls = cls ∧ r.unitKind = kind ∧
    r.unit = unit ∧ r.cause = cause

/-- The registers an error record writes. -/
abbrev Logged (k : Nat) : Prop := k = rBruFault ∨ k = rBruFaultCnt ∨ k = rBruLog

/-- The registers a failing command of a stream writes (04 R143). -/
abbrev FailReg (p : Nat) (l : Launched) (k : Nat) : Prop :=
  Tally k ∨ Logged k ∨ k = rClCmdErr p ∨ k = rClCmdErrCnt p ∨ k = rClStream p l.stream ∨ k = rClSem p (cDoneSem l.cmd)

/-- CL.CMD_ERR shows a failed command with its cause and unit, a record is made, and the stream is in ERROR unless the command goes on
after an error (04 R143). -/
def Failed (s t : State) (p : Nat) (l : Launched) (unit cause : Nat) : Prop :=
  fld t (rClCmdErr p) fClCmdErrCause = cause % 256 ∧ fld t (rClCmdErr p) fClCmdErrUnit = unit ∧
  fld t (rClCmdErr p) fClCmdErrStream = l.stream % 32 ∧ fld t (rClCmdErr p) fClCmdErrErr = 1 ∧
  Recorded s t (if hwCause cause then 2 else 6) 0 p 0x17 ∧ (cErrCont l.cmd = false → streamState t p l.stream = ssError) ∧
  semOf t p (cDoneSem l.cmd) =
    (if cErrCont l.cmd then (semOf s p (cDoneSem l.cmd) + cDoneAdd l.cmd) % 2 ^ 32 else semOf s p (cDoneSem l.cmd))

/-! ### Other blocks -/

/-- Registers are the same in two states but for those that `k` names. -/
def RegsBut (k : Nat → Prop) (s t : State) : Prop := ∀ i, ¬ k i → rd t i = rd s i

/-- The registers that show throttling: PWR.STATUS and PWR.GAL of every gallery (14 R427). -/
abbrev ThrReg (k : Nat) : Prop := k = rPwrStatus ∨ ∃ g, g < 144 ∧ k = rPwrGal g

/-- The newest message sent. -/
def SentLast (t : State) (kind : MsgKind) (dst : Nat) (args : List Nat) (data : List Byte) : Prop :=
  t.sent.head? = some ⟨kind, dst, args, data⟩

/-- Every requester of a read has an answer with this status and these bytes (07 R229). -/
def ReadAnswered (t : State) (r : LineRead) (status : Nat) (data : List Byte) : Prop :=
  ∀ q ∈ r.reqs, ∃ m ∈ t.sent, m.kind = .meshResp ∧ m.args.take 2 = [status, r.addr] ∧ q ∈ m.args.drop 2 ∧ m.data = data

/-- The reads in progress after `r` has been answered: an open combining entry stays with its data sent, any other one ends. -/
def readsAfter (l : List LineRead) (r : LineRead) : List LineRead :=
  if r.combine && r.isOpen then l.map (fun x => if x = r then { r with sent := true, reqs := [] } else x) else l.erase r

/-- `l` stands at offset `o` of stack `st`, and every other stored byte of the stacks is as before. -/
def StackStored (s t : State) (st o : Nat) (l : List Byte) : Prop :=
  ∀ k, memByte t.hbm k = if hkey st o ≤ k ∧ k < hkey st o + l.length then l.getD (k - hkey st o) 0 else memByte s.hbm k

/-- Bytes of addressable HBM. -/
def hbmBytes (s : State) (a n : Nat) : List Byte := (List.range n).map (fun i => hbmByte s (a + i))

/-- A run lies in addressable HBM and no companion holds a line of it. -/
abbrev HbmRun (s : State) (a n : Nat) : Prop := a + n ≤ hbmTop s ∧ conflicts s a n true = []

/-! ### Calibre images (08) -/

/-- A watch that failed for condition `c` (08 R275): an automatic rollback is armed for the first whole millisecond the rule allows,
or, without a previous image, the watch is over and ROLLBACK_BLOCKED is reported. -/
def WatchFailed (s t : State) (c : Nat) : Prop :=
  fld t rCalSwitchStat fCalSwitchStatHealthBit = c + 1 ∧
  (slotState s 1 = slPrevious → swPhase t = 1 ∧ fld t rCalSwitchStat fCalSwitchStatRollback = 1 ∧
    rd t rCalSwitchBeat = BitVec.ofNat 64 ((s.beat + drainBeats s 0 + 1100000 + 999999) / 1000000 * 1000000)) ∧
  (slotState s 1 ≠ slPrevious → slotState t 0 = slActive ∧ fld t rCalSwitchStat fCalSwitchStatOutcome = sxNoPrevious ∧
    fld t rCalSwitchStat fCalSwitchStatAborted = 1 ∧ fld t rBruFault fBruFaultRollbackBlocked = 1 ∧ Recorded s t 5 9 0 0x12) ∧
  rd t rCalWatchEnd = 0

/-- The registers a failed watch writes. -/
abbrev WatchReg (k : Nat) : Prop := Logged k ∨ k = rCalSlot 0 ∨ k = rCalSwitchStat ∨ k = rCalSwitchStatCnt ∨ k = rCalSwitchBeat ∨
  k = rCalWatchEnd

/-! ### Bytes that firmware writes -/

/-- The call that command `c` makes on page `b` is taken and ends with `status` and `res`, with `l` written to HBM at `a`: the rest of
HBM, every other memory, the map, and every register outside the page and outside `K` are as before, and `p` holds. -/
def CallsHbm (c : Instr) (s : State) (b status : Nat) (res : List Nat) (a : Nat) (l : List Byte) (K : Nat → Prop) (p : State → Prop) :
    Prop :=
  Completes c s (fun t => t.answer = ⟨stOk, status :: res⟩ ∧ CallEnded t b status res ∧ Stored s t a l ∧
    HbmBut (fun k => InPage b k ∨ Tally k ∨ K k) s t ∧ p t)

/-- MSDn answers for its own buffer: it is not failed and not behind a proxy. -/
abbrev BufOwn (s : State) (n : Nat) : Prop := s.proxied.contains n = false ∧ msdState s n ≠ msFailed

/-- `l` stands at offset `o` of the buffer of MSDn, every other byte of the buffers is as before, and so are the other memories, the map
and the registers that `k` does not name. -/
def BufStored (k : Nat → Prop) (s t : State) (n o : Nat) (l : List Byte) : Prop :=
  (∀ x, memByte t.buf x = if n * 2 ^ 26 + o ≤ x ∧ x < n * 2 ^ 26 + o + l.length then l.getD (x - (n * 2 ^ 26 + o)) 0
    else memByte s.buf x) ∧
  t.hbm = s.hbm ∧ t.spm = s.spm ∧ t.lmap = s.lmap ∧ RegsBut k s t

/-! ### Serica Link (12) -/

/-- The registers that show the ports' state and occupancy. -/
abbrev PortReg (k : Nat) : Prop := k = rSerPort 0 ∨ k = rSerPort 1

/-- A response to a companion's request was the last message of port `port` (12 Tables 12-3, 12-4). -/
def Responded (t : State) (port op tag state line : Nat) (data : List Byte) : Prop :=
  SentLast t .serica port [1, op, tag, 0, state, line] data

/-! ### The fabric (13) -/

/-- Every link is one of a lane group of the part. -/
def LinksKnown (s : State) : Prop := ∀ l ∈ s.links, l.lg < 18

/-- A packet for this device that came in on one of its lane groups and carries the number expected of its source and channel (13
R384). -/
def FabNext (s : State) (h : FabHead) : Prop :=
  h.dst = ownDev s ∧ h.seq = expected s h.src h.vc ∧ h.lg < 18 ∧ LinksKnown s

/-- A packet's number is taken: the next one is expected, and an ACK is owed, or, where a status refuses the packet, goes out at once,
as far as a link toward the source is up (13 R384, R385). -/
def FabTaken (s t : State) (h : FabHead) (status : Nat) : Prop :=
  expected t h.src h.vc = (h.seq + 1) % 2 ^ 32 ∧ (status = 0 → (h.src, h.vc) ∈ t.ackDue) ∧
  (status ≠ 0 → ∀ l, linkOf s h.src 0 = some l → ∃ a, SentLast t .fabric h.src a [] ∧ a.getD 0 0 = ptAck ∧ a.getD 4 0 = status ∧
    a.getD 7 0 = h.seq ∧ a.getD 10 0 = h.vc)

/-- A control message with a code and data stands in the retry buffer toward a device, numbered, since `s` (13 R384). -/
def CtrlQueued (s t : State) (dst code : Nat) (data : List Byte) : Prop :=
  ∃ p ∈ t.unacked, p.head.type = ptCtrl ∧ p.head.vc = vcCtrl ∧ p.head.dst = dst ∧ p.data = natLe 1 code ++ data ∧
    p.head.seq = tabGet (fun _ => 0) s.txSeq (4 * dst + vcCtrl)

/-- Every packet of `l` that has a link toward its device has been sent again, under its number and with its data. -/
def SentAgain (s t : State) (l : List FabPkt) : Prop :=
  ∀ p ∈ l, linkOf s p.head.dst p.head.slice ≠ none → ∃ m ∈ t.sent, m.dst = p.head.dst ∧ m.data = p.data ∧
    m.args.getD 0 0 = p.head.type ∧ m.args.getD 6 0 = p.head.seq

/-- The registers of the flags of fabric die `d`. -/
abbrev FabErrReg (d k : Nat) : Prop := k = rFabErr d ∨ ∃ i, i < 7 ∧ k = rFabErrCnt d i

/-- Flag `b` of fabric die `d` is set, for a lane group and a device. -/
def FabFlag (t : State) (d b lg dev : Nat) : Prop :=
  bitAt (rdN t (rFabErr d)) b = true ∧ fld t (rFabErr d) fFabErrLastLg = lg % 256 ∧ fld t (rFabErr d) fFabErrLastDev = dev % 256

/-- The registers a failed collective of queue `q` writes (13 R393). -/
abbrev CollReg (q k : Nat) : Prop := Tally k ∨ Logged k ∨ FabErrReg 1 k ∨ k = rFabCollLast 1 ∨ k = rFabCollQ 1 q

/-- A collective of queue `q` with descriptor `d` has failed for a cause and a device: it is reported and recorded, the queue stands past
it, in ERROR unless the descriptor goes on after an error (13 R393). -/
def CollFailed (s t : State) (q : Nat) (d : List Byte) (cause dev : Nat) : Prop :=
  look t.colls q = none ∧ bitAt (rdN t (rFabErr 1)) feCollFail = true ∧ fld t (rFabErr 1) fFabErrLastDev = dev % 256 ∧
  fld t (rFabCollLast 1) fFabCollLastCollId = cdId d ∧ fld t (rFabCollLast 1) fFabCollLastCause = cause % 256 ∧
  fld t (rFabCollQ 1 q) fFabCollQConsumer = (fld s (rFabCollQ 1 q) fFabCollQConsumer + 1) % 2 ^ 32 ∧
  (cdErrCont d = false → fld t (rFabCollQ 1 q) fFabCollQState = cqError ∧ fld t (rFabCollQ 1 q) fFabCollQCause = cause % 256) ∧
  Recorded s t (if cause = kcDataLost ∨ cause = kcMemberLost then 2 else 6) 9 0 0x19

/-- A COLL packet of the collective `d` stands in the retry buffer toward a device (13 R391, R392). -/
def CollSent (t : State) (d : List Byte) (dst stage p : Nat) (data : List Byte) : Prop :=
  ∃ x ∈ t.unacked, x.head.type = ptColl ∧ x.head.dst = dst ∧ x.head.coll = cdId d ∧ x.head.addr = stage ∧ x.head.packet = p ∧
    x.head.check = collCheck d ∧ x.data = data

/-! ### Clusters and galleries that stop (14, 15) -/

/-- The registers of cluster `p`, and its BRU.CL. -/
abbrev ClReg (p k : Nat) : Prop := (clBase p ≤ k ∧ k < clBase p + 0x10000) ∨ k = rBruCl p

/-- The registers that stopping clusters `ps` may write: theirs, the window generations mirrored in the BRU block, MOD.STATUS, the log of
records, and the counting and tracing registers. -/
abbrev StopReg (ps : List Nat) (k : Nat) : Prop :=
  Tally k ∨ Logged k ∨ k = rModStatus ∨ (∃ i, i < 6400 ∧ k = rBruGenMirror i) ∨ ∃ p ∈ ps, ClReg p k

/-- Clusters `ps` may have lost what they held; no other scratchpad byte, no buffer, no entry of the map, and no byte of HBM outside the
window generation map differs (05 R166, R177; 15 R452). -/
def StopKeeps (s t : State) (ps : List Nat) : Prop :=
  (∀ q, q ∉ ps → ∀ o, o < 2 ^ 25 → spmByte t q o = spmByte s q o) ∧ t.buf = s.buf ∧ t.lmap = s.lmap ∧ t.genMap = s.genMap ∧
  (s.genMap = none → t.hbm = s.hbm) ∧ ∀ g, s.genMap = some g → HbmSame s t g 51200

/-- Cluster `p` is FENCED and its state lost (15 R450, R452). -/
def ClusterGone (s t : State) (p : Nat) : Prop := clState t p = csFenced ∧ StopKeeps s t [p] ∧ RegsBut (StopReg [p]) s t

/-- Cluster `p` has failed for good for a cause: it is FENCED with class PERMANENT, and a record says so (15 R451, R465). -/
def ClusterFailed (s t : State) (p cause : Nat) : Prop :=
  ClusterGone s t p ∧ fld t (rBruCl p) fBruClClass = 2 ∧ Recorded s t 3 0 p cause ∧ p ∈ t.suspects

/-- The registers of the power block that the state of gallery `g` may change: its own and the faults. -/
abbrev GalReg (g k : Nat) : Prop := k = rPwrGal g ∨ k = rPwrFault ∨ ∃ i, i < 7 ∧ k = rPwrFaultCnt i

/-- Gallery `g` is DARK for a cause: no limit, no current, GAL_DARK set, its clusters FENCED but for BAD ones (14 R413). -/
def Darkened (s t : State) (g cause : Nat) : Prop :=
  galState t g = gsDark ∧ galCause t g = cause ∧ fld t (rPwrGal g) fPwrGalILim = 0 ∧ fld t (rPwrGal g) fPwrGalIOut = 0 ∧
  bitAt (rdN t rPwrFault) 2 = true ∧ fld t rPwrFault fPwrFaultLastGal = g ∧
  (∀ p ∈ clustersOf g, clState s p ≠ csBad → clState t p = csFenced) ∧ StopKeeps s t (clustersOf g)

/-- Gallery `g` is PARKED for a cause, and its clusters' state lost (14 R433). -/
def Parked (s t : State) (g cause : Nat) : Prop :=
  galState t g = gsParked ∧ galCause t g = cause ∧ fld t (rPwrGal g) fPwrGalIOut = 0 ∧ StopKeeps s t (clustersOf g)

/-- Gallery `g` WAITS for a grant it asked for at this beat (14 R435). -/
def Asking (s t : State) (g : Nat) : Prop :=
  galState t g = gsWaiting ∧ galCause t g = 0 ∧ look t.galAsked g = some s.beat

/-- The registers of a heat flag. -/
abbrev ThmReg (k : Nat) : Prop := k = rThmFault ∨ ∃ i, i < 5 ∧ k = rThmFaultCnt i

/-- Flag `b` of THM.FAULT is set for unit `u`. -/
def ThmFlag (t : State) (b u : Nat) : Prop := bitAt (rdN t rThmFault) b = true ∧ fld t rThmFault fThmFaultLastUnit = u % 256

/-- The registers a measurement writes (17 R498). -/
abbrev MeasReg (k : Nat) : Prop := k = rSecStatus ∨ ∃ i, i < 128 ∧ k = rSecMeas i

/-- The part has been reset (01 R41, R44): every memory and register is as at reset but for the fuses, the flash bank in use, the kind of
start, and the frequencies the field calibration record lowers; flash keeps what it holds. -/
def PartReset (s t : State) : Prop :=
  t.spm = State.reset.spm ∧ t.hbm = State.reset.hbm ∧ t.buf = State.reset.buf ∧ t.lmap = State.reset.lmap ∧ t.cl = State.reset.cl ∧
  t.calls = State.reset.calls ∧ t.records = State.reset.records ∧ t.images = State.reset.images ∧
  t.flash = s.flash ∧ t.lowered = s.lowered ∧ t.faultLog = s.faultLog ∧ t.suspects = s.suspects ∧ t.trainRecord = s.trainRecord ∧
  fld t rSecStatus fSecStatusBank = fld s rSecStatus fSecStatusBank ∧
  ((∀ e ∈ s.lowered, e.1 < 864) → ∀ k, k ≠ rSecStatus → k ≠ rBruStatus → (∀ p, p < 864 → k ≠ rClkFmax p) →
    rd t k = if fuseReg k then rd s k else regReset k)

/-- A trial has run on cluster `p`: it passed, it failed and its repeat passed, or it failed for good (15 R457-R460). -/
def TrialRan (s t : State) (p : Nat) (first again : Bool) : Prop :=
  let n := min 0xFFFF (fld s (rBruCl p) fBruClTrials + 1)
  (first = true → fld t (rBruCl p) fBruClTrials = n ∧ t.nRecords = s.nRecords ∧
    clState t p = if clState s p = csSuspect ∧ 300 ≤ n then csServing else clState s p) ∧
  (first = false → again = true → clState s p ≠ csSuspect → fld t (rBruCl p) fBruClTrials = 0 ∧ fld t (rBruCl p) fBruClClass = 1 ∧
    Recorded s t 2 0 p 1 ∧ clState t p = if clState s p = csServing then csSuspect else clState s p) ∧
  (first = false → (again = false ∨ clState s p = csSuspect) → clState t p = csFenced ∧ fld t (rBruCl p) fBruClClass = 2 ∧
    Recorded s t 3 0 p 1) ∧
  StopKeeps s t [p] ∧ RegsBut (StopReg [p]) s t

/-- A word of the LINEAR11 format, two's complement mantissa in bits 10:0 and exponent in bits 15:11, stands for `num / den` to less than
one unit of its mantissa (18 R515). -/
def Lin11 (w : Nat) (num : Int) (den : Nat) : Prop :=
  let k := (toSigned 5 (bitsAt 11 5 w) + 16).toNat
  let x := toSigned 11 (w % 2048) * (2 ^ k : Nat) * den - num * (2 ^ 16 : Nat)
  w < 2 ^ 16 ∧ x < ((2 ^ k * den : Nat) : Int) ∧ -x < ((2 ^ k * den : Nat) : Int)

/-- An answer read over I3C (18 R514). -/
def I3cAnswered (t : State) (st : Nat) (l : List Byte) : Prop := t.answer = ⟨st, l.map (·.toNat)⟩ ∧ SentLast t .i3c 0 [st] l

/-- Start-up has stopped at a stage, with cause STAGE_FAIL, and a record says so (01 R43). -/
def StageStopped (s t : State) (n kind unit : Nat) : Prop :=
  stageNow t = n ∧ fld t rBruStatus fBruStatusFailStage = n ∧ fld t rBruStatus fBruStatusFailCause = 0x15 ∧
  fld t rBruStatus fBruStatusFailUnit = unit ∧ Recorded s t 3 kind unit 0x15

/-- A stage has completed, and its duration in milliseconds stands in its BRU.STAGE_MS (15 R442). -/
def StagePassed (t : State) (n ms : Nat) : Prop :=
  stageNow t = n + 1 ∧ rd t (rBruStageMs (n - 1)) = BitVec.ofNat 64 ms ∧ t.stageAt = t.beat

end Sys2Proof.Machine
end

