-- ==== Sys2Proof/Certificates/Slice0/Obligations.lean ====
section
/-! DEFINITION. The statements for the provers. Each docstring names the rules it speaks of; a hypothesis is on the state and the
operands alone. -/
open Sys2Proof Sys2Proof.Machine


/-- The block's step (log 1, log 6): with a command at the front of the queue a step is that command's effect on the state with the
queue's rest; with none waiting one beat of 1 ns passes on a part that has power and its CID, memories, map, units and the queue as
they were. -/
def Obligations.StepRunsTheFrontCommand : Prop :=
  (∀ (c : Instr) (rest : List Instr) (s : State), step { s with pending := c :: rest } = exec c { s with pending := rest }) ∧
  (∀ s : State, s.pending = [] → step s = .next (idle s)) ∧
  (∀ s : State, s.inputOpen = false → s.cidLost = false → (idle s).beat = (s.beat + 1) % 2 ^ 64 ∧ (idle s).pending = s.pending ∧
    SameBut (fun k => Tally k) s (idle s) ∧ (idle s).cl = s.cl) ∧
  (∀ s : State, s.inputOpen = true ∨ s.cidLost = true → idle s = s)

/-- The state after reset (log 3 says what an unlisted byte reads as): no command waits, the register file and the memories are in
canonical form, the part is at start-up stage 1 (01 Table 01-6), MOD.ID is the identity word (01 R41), and no number of the map has a
holder (01 R40: the map comes with stage 4). -/
def Obligations.ResetStateHoldsTheInvariant : Prop :=
  State.reset.Inv ∧ State.reset.pending = [] ∧ rd State.reset rModId = 0x0F1A080041020100 ∧
  fld State.reset rModStatus fModStatusStage = 1 ∧ fld State.reset rModStatus fModStatusReady = 0 ∧
  (∀ l, l < 800 → held State.reset l = false) ∧ (∀ x, hbmByte State.reset x = 0) ∧ rd State.reset rCalSwitchStat = 0

/-- The invariant of the part: whatever command runs, at whatever beat, the register file and the scratchpad, HBM and buffer memories
stay in their canonical form (keys rising, no entry equal to what an unlisted key reads as), and the queue keeps only commands that
name units the part has; a step removes at most the front command from it. -/
def Obligations.EveryStepKeepsTheInvariant : Prop :=
  ∀ s t : State, s.Inv → step s = .next t → t.Inv ∧ (t.pending = s.pending ∨ ∃ c, s.pending = c :: t.pending)

/-- No command that names units the part has ends a run: each answers a next state, from every state (00 R16, 16: what the spec does
not allow is refused with a status or an error record and the part goes on). -/
def Obligations.WellFormedCommandsNeverStop : Prop :=
  ∀ (c : Instr) (s : State), c.WellFormed → ∃ t, exec c s = .next t

/-- 00 R14, R17, R18, 12 R363, 17 R494: a service call by a requestor that neither owns the part nor holds a grant for the block is refused
NOT_OWNER, one made by the owner while the page's call runs is refused BUSY, and one for a vacant number is refused UNMAPPED; nothing else
changes. The model's choices that it rests on: log 21, 100. -/
def Obligations.ServiceCallsAreRefusedWhole : Prop :=
  ∀ (c : Instr) (s : State) (rid b : Nat), callerOf c = some (rid, b) → c.WellFormed → partDown s = false →
    let l := (b - 0x10000000) / 0x80000
    (mbxBlock b = gbCl → held s l = false → isOwner s rid = true → exec c s = .next { s with answer := ⟨stUnmapped, []⟩ }) ∧
    ((mbxBlock b = gbCl → held s l = true ∧ moving s l = false) →
      (mayWrite s rid (mbxBlock b) = false → exec c s = .next { s with answer := ⟨stNotOwner, []⟩ }) ∧
      (isOwner s rid = true → (look s.calls b).isSome = true → exec c s = .next { s with answer := ⟨stBusy, []⟩ }))

/-- 04 R123: a semaphore value v has reached w exactly when the difference modulo 2^32, read as a signed 32-bit integer, is 0 or
greater, and an addition to a semaphore wraps modulo 2^32 and leaves every other register as it was. A value up to 2^31 - 1 ahead of w
is seen as reached; one further ahead is seen as behind. -/
def Obligations.SemaphoreComparisonWraps : Prop :=
  (∀ v w, v < 2 ^ 32 → w < 2 ^ 32 → (semReached v w = true ↔ 0 ≤ (BitVec.ofNat 32 v - BitVec.ofNat 32 w).toInt)) ∧
  (∀ w k, w < 2 ^ 32 → k < 2 ^ 31 → semReached ((w + k) % 2 ^ 32) w = true) ∧
  (∀ w k, w < 2 ^ 32 → 2 ^ 31 ≤ k → k < 2 ^ 32 → semReached ((w + k) % 2 ^ 32) w = false) ∧
  (∀ (s : State) (p i n : Nat), semOf (semAdd p i n s) p i = (semOf s p i + n) % 2 ^ 32 ∧
    SameBut (fun k => k = rClSem p i) s (semAdd p i n s))

/-- 07 R213: HBM device address A lies in chunk A >> 16, on stack chunk mod 16, at stack offset ((chunk >> 4) << 16) | (A & 0xFFFF); the
two name the byte alone, and an address is addressable exactly when its stack offset lies in the data region, which ends at
0x8_6FFF_FFFF with parity on and at 0x8_FFFF_FFFF with parity off. -/
def Obligations.HbmAddressesAreSpreadOverStacks : Prop :=
  (∀ a : Nat, stackOf a = (a >>> 16) % 16 ∧ stackOff a = (((a >>> 16) >>> 4) <<< 16) ||| (a &&& 0xFFFF)) ∧
  (∀ a b : Nat, stackOf a = stackOf b → stackOff a = stackOff b → a = b) ∧
  (∀ a : Nat, stackOf a < 16 ∧ devAddr (stackOf a) (stackOff a) = a) ∧
  (∀ n o : Nat, n < 16 → stackOf (devAddr n o) = n ∧ stackOff (devAddr n o) = o) ∧
  (∀ (s : State) (a : Nat), (parityOn s = true → (a < hbmTop s ↔ stackOff a < 0x870000000)) ∧
    (parityOn s = false → (a < hbmTop s ↔ stackOff a < 0x900000000)))

/-- 00 R10: a hardware setting of a status flag sets it, whether or not it was set, and counts one in the flag's event counter, which
saturates at 0xFFFF_FFFF; no other register and no memory changes. -/
def Obligations.FlagSettingsAreCounted : Prop :=
  ∀ (s : State) (k b cnt : Nat), b < 64 → cnt ≠ k →
    let t := raise k b cnt s
    bitAt (rdN t k) b = true ∧ (∀ i, i < 64 → i ≠ b → bitAt (rdN t k) i = bitAt (rdN s k) i) ∧
    rdN t cnt = (if rdN s cnt % 2 ^ 32 = 0xFFFFFFFF then 0xFFFFFFFF else rdN s cnt % 2 ^ 32 + 1) ∧
    SameBut (fun i => i = k ∨ i = cnt) s t
/-- 04 R117, R119-R122, R129: a controller command at the head of a stream that launches completes: CTL.NOP, CTL.MARK and FENCE.ACQ
leave the stream past them, CTL.HALT halts it, CTL.JUMP sets its next index, CTL.LOOP_SET sets a loop counter, CTL.LOOP counts it
down and jumps unless it reaches 0, CTL.EXEC puts the checked block in front; done_add is applied, and no memory, no number of the
map and no register but those of a launch changes. -/
def Obligations.StreamControlCommandsComplete : Prop :=
  ∀ (s : State) (p st b : Nat) (h : Head), p < 864 → st < 32 →
    let u := advanceTo b s
    let c := h.cmd
    let z := streamOf u p st
    (∀ t, (t = Instr.ctlNop p st b ∧ Launches u p st opNop h ∨ t = .ctlMark p st b ∧ Launches u p st opMark h ∨
        t = .fenceAcq p st b ∧ Launches u p st opFenceAcq h) →
      Completes t s (fun t => PastHead u t p st h ∧ DoneAdded u t p c ∧ SameBut (LaunchReg p st c) u t)) ∧
    (Launches u p st opHalt h → Completes (.ctlHalt p st b) s (fun t =>
      streamState t p st = ssHalted ∧ DoneAdded u t p c ∧ SameBut (LaunchReg p st c) u t)) ∧
    (Launches u p st opJump h → Completes (.ctlJump p st b) s (fun t =>
      streamState t p st = ssRunning ∧ streamPc t p st = cOpA c % 2 ^ 13 ∧ DoneAdded u t p c ∧ SameBut (LaunchReg p st c) u t)) ∧
    (Launches u p st opLoopSet h → Completes (.ctlLoopSet p st b) s (fun t =>
      (streamOf t p st).ctr = listSet z.ctr (cOpA c) (cOpB c) ∧ PastHead u t p st h ∧ DoneAdded u t p c ∧
      SameBut (LaunchReg p st c) u t)) ∧
    (Launches u p st opLoop h → Completes (.ctlLoop p st b) s (fun t =>
      let v := z.ctr.getD (cOpA c) 0 - 1
      (streamOf t p st).ctr = listSet z.ctr (cOpA c) v ∧
      (if v = 0 then PastHead u t p st h else streamState t p st = ssRunning ∧ streamPc t p st = cOpB c % 2 ^ 13) ∧
      DoneAdded u t p c ∧ SameBut (LaunchReg p st c) u t)) ∧
    (Launches u p st opExec h → spmOpen u p (cOpA c) (32 * cOpB c) = true → spmBad u p (cOpA c) (32 * cOpB c) = false →
      (readBlock u p (cOpA c) (cOpB c)).all blockCmdOk = true → Completes (.ctlExec p st b) s (fun t =>
      (streamOf t p st).block = readBlock u p (cOpA c) (cOpB c) ∧ streamState t p st = ssRunning ∧
      streamPc t p st = h.idx % 2 ^ 13 ∧ DoneAdded u t p c ∧ SameBut (LaunchReg p st c) u t))

/-- 04 R123-R125, R128: SEM.SET and SEM.ADD write their semaphore; SEM.SIGNAL to a held number of this device sends one request and
waits for its acknowledgement; an arriving signal is added where the semaphore is in the target's remote mask and the cluster is in
service, and refused otherwise; SIGNAL_ACK completes the command, or fails it; FENCE.REL holds its stream until every covered write
is done. -/
def Obligations.SemaphoreAndFenceCommandsComplete : Prop :=
  (∀ (s : State) (p st b : Nat) (h : Head), p < 864 → st < 32 →
    let u := advanceTo b s
    let c := h.cmd
    (Launches u p st opSemSet h → Completes (.semSet p st b) s (fun t => PastHead u t p st h ∧
      (∀ i, i < 64 → semOf t p i = ((if i = cOpA c then cOpB c else semOf u p i) +
        (if i = cDoneSem c then cDoneAdd c else 0)) % 2 ^ 32) ∧
      SameBut (fun k => LaunchReg p st c k ∨ k = rClSem p (cOpA c)) u t)) ∧
    (Launches u p st opSemAdd h → Completes (.semAdd p st b) s (fun t => PastHead u t p st h ∧
      (∀ i, i < 64 → semOf t p i = (semOf u p i + (if i = cOpA c then cOpB c else 0) +
        (if i = cDoneSem c then cDoneAdd c else 0)) % 2 ^ 32) ∧
      SameBut (fun k => LaunchReg p st c k ∨ k = rClSem p (cOpA c)) u t)) ∧
    (Launches u p st opSemSignal h → bitAt (cOpA c) 16 = false → held u (bitsAt 0 10 (cOpA c)) = true →
      Completes (.semSignal p st b) s (fun t => PastHead u t p st h ∧
      (cluster t p).signals = (cluster u p).signals ++ [⟨(cluster u p).nLaunch, st, h.idx, c, leafCount u (leafCl p)⟩] ∧
      t.sent.head? = some ⟨.signal, 0xFFFF, [bitsAt 0 10 (cOpA c), bitsAt 10 6 (cOpA c), cOpB c, p, (cluster u p).nLaunch], []⟩ ∧
      SameBut (LaunchReg p st c) u t)) ∧
    (Launches u p st opFenceRel h → Completes (.fenceRel p st b) s (fun t => PastHead u t p st h ∧
      (streamOf t p st).fence = some ⟨(cluster u p).nLaunch, st, h.idx, c, leafCount u (leafCl p)⟩ ∧
      SameBut (LaunchReg p st c) u t))) ∧
  (∀ (s : State) (p st : Nat) (f : Launched), p < 864 → st < 32 → (streamOf s p st).fence = some f →
    fenceWaits (cluster s p) f = false → Completes (.fenceRelComplete p st) s (fun t =>
      (streamOf t p st).fence = none ∧ (fld s (rClStream p st) fClStreamWaitKind = 4 → streamState t p st = ssRunning) ∧
      DoneAdded s t p f.cmd ∧ SameBut (fun k => Tally k ∨ k = rClStream p st ∨ k = rClSem p (cDoneSem f.cmd)) s t)) ∧
  (∀ (s : State) (t sem n dev src tag : Nat), t < 800 → sem < 64 → held s t = true →
    let p := physOf s t
    (inService s p = true → bitAt (cluster s p).semRemote sem = true →
      Completes (.semSignalArrive t sem n dev src tag) s (fun u =>
        semOf u p sem = (semOf s p sem + n) % 2 ^ 32 ∧ u.answer = ⟨stOk, []⟩ ∧
        u.sent = ⟨.signalAck, dev, [src, tag, stOk], []⟩ :: s.sent ∧ SameBut (fun k => k = rClSem p sem) s u)) ∧
    (bitAt (cluster s p).semRemote sem = false → Completes (.semSignalArrive t sem n dev src tag) s (fun u =>
      u.answer = ⟨0x15, []⟩ ∧ u.sent = ⟨.signalAck, dev, [src, tag, 0x15], []⟩ :: s.sent ∧ SameAll s u))) ∧
  (∀ (s : State) (p tag : Nat) (l : Launched), p < 864 → (cluster s p).signals.find? (fun l => l.ord == tag) = some l →
    Completes (.signalAck p tag stOk) s (fun t =>
      (cluster t p).signals = (cluster s p).signals.filter (fun x => x.ord != tag) ∧ DoneAdded s t p l.cmd ∧
      SameBut (fun k => Tally k ∨ k = rClSem p (cDoneSem l.cmd)) s t))

/-- 00 R17 and the service tables of 04, 05, 07, 08, 09, 10, 12, 14, 15: a call that only reads ends at once with status OK and, as its
results, the registers or counts its table names, and changes nothing but its mailbox page and the answer. -/
def Obligations.ReadServicesComplete : Prop :=
  ∀ (s : State) (rid : Nat),
    (∀ n, n < 16 → Callable s rid (mbMsd n) →
      Reads (.msdStatus rid n) s (mbMsd n) [rdN s (rMsdStatus n)] ∧
      Reads (.msdErrRead rid n) s (mbMsd n) [rdN s (rMsdErr n), rdN s (rMsdErrCnt n 0), rdN s (rMsdErrCnt n 1), rdN s (rMsdErrCnt n 2)]) ∧
    (∀ l, l < 800 → Callable s rid (mbCl l) →
      let p := physOf s l
      Reads (.clErrRead rid l) s (mbCl l) [rdN s (rClCmdErr p), rdN s (rClCmdErrCnt p)] ∧
      Reads (.eccRead rid l) s (mbCl l) [rdN s (rClSpmEcc p), rdN s (rClSpmEccCnt p 0), rdN s (rClSpmEccCnt p 1)] ∧
      (∀ st, st < 28 → Reads (.streamStatus rid l st) s (mbCl l) [rdN s (rClStream p st)]) ∧
      (∀ w, w < 64 → Reads (.winStatus rid l w) s (mbCl l) [rdN s (rClWinA p w), rdN s (rClWinB p w)])) ∧
    (Callable s rid mbCal →
      Reads (.calStatus rid) s mbCal [rdN s (rCalSlot 0), rdN s (rCalSlot 1), rdN s (rCalSlot 2), rdN s rCalSwitchStat]) ∧
    (Callable s rid mbEsc →
      Reads (.escNow rid) s mbEsc [leafCount s leafCid] ∧
      Reads (.alignStatus rid) s mbEsc [rdN s rEscStatus, rdN s rEscAlign, rdN s rEscAlignBeat] ∧
      Reads (.escFaultRead rid) s mbEsc [rdN s rEscFault, rdN s (rEscFaultCnt 0), rdN s (rEscFaultCnt 1), rdN s (rEscFaultCnt 2)]) ∧
    (Callable s rid mbSvc → ∀ a q,
      (look s.reqRings a = some q → Reads (.ringStatus rid 0 a) s mbSvc
        [2 ^ 62 + q.log2 * 2 ^ 52, producerOf s q, q.mine, liveOn s a]) ∧
      (look s.ansRings a = some q → Reads (.ringStatus rid 1 a) s mbSvc
        [2 ^ 62 + q.log2 * 2 ^ 52, q.mine, q.other, (s.reqs.filter (fun r => !r.isOver && r.ans == a)).length])) ∧
    (Callable s rid mbSvc → ∀ ring id r, reqOf s ring id = some r → Reads (.reqStatus rid ring id) s mbSvc
      [r.phase % 4, r.prompt.length + r.gen.length - 1, r.prompt.length + r.streamed - 1, r.sets.length]) ∧
    (Callable s rid mbSer →
      Reads (.ownerStatus rid) s mbSer [rdN s rSerOwner, rdN s rSerLeaseEnd, rdN s (rSerCand 0), rdN s (rSerCand 1),
        rdN s (rSerCand 2), rdN s (rSerCand 3)] ∧
      ∀ p, p < 2 → Reads (.portStatus rid p) s mbSer [rdN s (rSerPort p), rdN s (rSerPortErr p)]) ∧
    (Callable s rid mbPwr →
      Reads (.pwrStatus rid) s mbPwr [rdN s rPwrStatus, rdN s rPwrInput, rdN s rPwrEnergy, rdN s rPwrBoard] ∧
      Reads (.thrRead rid) s mbPwr ((List.range 6).map (fun r => rdN s (rPwrThrDur r))) ∧
      Reads (.pwrFaultRead rid) s mbPwr (rdN s rPwrFault :: (List.range 7).map (fun i => rdN s (rPwrFaultCnt i)))) ∧
    (Callable s rid mbThm →
      Reads (.thmFaultRead rid) s mbThm (rdN s rThmFault :: (List.range 5).map (fun i => rdN s (rThmFaultCnt i))) ∧
      ∀ g, g < 144 → Reads (.temps rid g) s mbThm [rdN s (rThmGalTemp g), rdN s (rPwrGal g)]) ∧
    (Callable s rid mbClk → ∀ p, p < 864 → Reads (.clkFmax rid p) s mbClk [rdN s (rClkFmax p), rdN s (rClkFset p)]) ∧
    (Callable s rid mbBru → Reads (.bruStatus rid) s mbBru [rdN s rBruStatus, rdN s rBruFault, rdN s rBruLog])

/-- 10 R301, R327, 17 R488: the calls of the SVC mailbox that change something: RING_OPEN takes the lowest free ring, RING_CLOSE frees
an idle one, TOK_LOAD verifies a table and, where it verifies, measures it and puts it in a slot no image names, TOK_UNLOAD empties it, SVC_CANCEL marks a live
request, SVC_ADMIT sets ADMIT, PREFIX_FLUSH drops the sets no request refers to, SVC_STATS clears RING_FULL. -/
def Obligations.RequestServiceCallsComplete : Prop :=
  ∀ (s : State) (rid : Nat), Callable s rid mbSvc →
    (∀ base n who r, who < 65536 → ringBaseOk s 0 base n = true →
      (List.range 64).find? (fun r => (look s.reqRings r).isNone) = some r →
      Calls (.ringOpen rid 0 base n who) s mbSvc stOk [r] (fun _ => False) (fun t =>
        t.reqRings = tabPut r ⟨base, n, who, 0, 0⟩ s.reqRings ∧ t.ansRings = s.ansRings)) ∧
    (∀ base n who r, who < 65536 → ringBaseOk s 1 base n = true →
      (List.range 256).find? (fun r => (look s.ansRings r).isNone) = some r →
      Calls (.ringOpen rid 1 base n who) s mbSvc stOk [r] (fun _ => False) (fun t =>
        t.ansRings = tabPut r ⟨base, n, who, 0, 0⟩ s.ansRings ∧ t.reqRings = s.reqRings)) ∧
    (∀ a q, look s.reqRings a = some q → producerOf s q = q.mine → liveOn s a = 0 → s.intake.any (fun t => t.ring == a) = false →
      Calls (.ringClose rid 0 a) s mbSvc stOk [] (fun _ => False) (fun t => t.reqRings = tabDel a s.reqRings ∧ t.ansRings = s.ansRings)) ∧
    (∀ a q, look s.ansRings a = some q → namesAns s a = false →
      Calls (.ringClose rid 1 a) s mbSvc stOk [] (fun _ => False) (fun t => t.ansRings = tabDel a s.ansRings ∧ t.reqRings = s.reqRings)) ∧
    (∀ slot a n, slot < 4 → a % 64 = 0 → a + n ≤ hbmTop s → tokNamed s slot = false →
      let c := verifyCause s otTok (hbmPeek s a n).length (hbmPeek s a n)
      Calls (.tokLoad rid slot a n) s mbSvc (if c = vcOk then stOk else sxSignature) []
        (fun k => k = rSecVerifyLast ∨ k = rSecVerifyLastCnt ∨ k = rSecStatus ∨ ∃ i, k = rSecMeas i) (fun t =>
        t.tokTables = (if c = vcOk then tabPut slot ⟨a, n⟩ s.tokTables else s.tokTables) ∧
        fld t rSecVerifyLast fSecVerifyLastCause = c % 16 ∧
        fld t rSecStatus fSecStatusLogCount = (fld s rSecStatus fSecStatusLogCount + (if c = vcOk then 1 else 0)) % 2 ^ 32)) ∧
    (∀ slot, slot < 4 → tokNamed s slot = false →
      Calls (.tokUnload rid slot) s mbSvc stOk [] (fun _ => False) (fun t => t.tokTables = tabDel slot s.tokTables)) ∧
    (∀ ring id r, reqOf s ring id = some r →
      Calls (.svcCancel rid ring id) s mbSvc stOk [] (fun _ => False) (fun t => t.reqs =
        s.reqs.map (fun x => if x.ring = ring ∧ x.id = id ∧ x.isOver = false then { x with cancel := true } else x))) ∧
    (∀ on, on ≤ 1 → Calls (.svcAdmit rid on) s mbSvc stOk [] (fun k => k = rSvcAdmitCtl) (fun t =>
      fld t rSvcAdmitCtl fSvcAdmitCtlAdmit = on)) ∧
    Calls (.prefixFlush rid) s mbSvc stOk [(unreferenced s).length] (fun _ => False) (fun t =>
      ∀ x, x ∈ t.prefixes ↔ x ∈ s.prefixes ∧ ∃ r ∈ s.reqs, x.set ∈ r.sets) ∧
    Calls (.svcStats rid) s mbSvc stOk [(svcStatus s).toNat, (svcCounts s).toNat] (fun k => k = rSvcCounts) (fun t =>
      fld t rSvcCounts fSvcCountsRingFull = 0)

/-- 04 R142, R143, 05 R160-R165, R173, R178: the calls of a cluster's mailbox: STREAM_RESUME runs a halted or failed stream again,
STREAM_STOP halts one, CTX_CLEAR clears a context in ERROR and answers its register, SEM_SET writes a semaphore and answers its old value,
WIN_OPEN writes a CLOSED window's registers, opens it and answers its generation, WIN_CLOSE ends at once for a CLOSED window and else runs
until the window is CLOSED, RANGE_SET moves bank ranges and runs while one it names is BUSY. The model's choices that it rests on: log 27,
47, 102. -/
def Obligations.ClusterServiceCallsComplete : Prop :=
  ∀ (s : State) (rid l : Nat), l < 800 → Callable s rid (mbCl l) →
    let p := physOf s l
    (∀ st pc, st < 28 → (streamState s p st = ssHalted ∨ streamState s p st = ssError) → (streamOf s p st).first ≤ pc →
      pc < (streamOf s p st).last → Calls (.streamResume rid l st pc) s (mbCl l) stOk [] (fun k => k = rClStream p st) (fun t =>
        streamState t p st = ssRunning ∧ streamPc t p st = pc % 2 ^ 13 ∧ (streamOf t p st).block = [] ∧
        (streamOf t p st).ctr = (streamOf s p st).ctr)) ∧
    (∀ st, st < 28 → streamState s p st ≠ ssIdle →
      Calls (.streamStop rid l st) s (mbCl l) stOk [] (fun k => k = rClStream p st) (fun t =>
        streamState t p st = ssHalted ∧ streamPc t p st = streamPc s p st ∧ t.cl = s.cl)) ∧
    (∀ c, c < 60 → Calls (.ctxClear rid l c) s (mbCl l) stOk [rdN s (rClDmaCtx p c)] (fun k => k = rClDmaCtx p c) (fun t =>
      t.cl = s.cl ∧ ctxState t p c = if ctxState s p c = dxError then (if ctxQueue s p c = [] then dxIdle else dxActive)
        else ctxState s p c)) ∧
    (∀ i v, i < 56 → Calls (.mbxSemSet rid l i v) s (mbCl l) stOk [semOf s p i] (fun k => k = rClSem p i) (fun t =>
      t.cl = s.cl ∧ semOf t p i = v % 2 ^ 32)) ∧
    (∀ w a1 a2, w < 64 → fld s (rClWinA p w) fClWinAState = wsClosed →
      let a := (rd s (rClWinA p w) &&& ~~~winARw) ||| (BitVec.ofNat 64 a1 &&& winARw)
      let b := BitVec.ofNat 64 a2 &&& winBRw
      windowFits s p a b = true → Calls (.winOpen rid l w a1 a2) s (mbCl l) stOk [fget fClWinAGen a]
        (fun k => k = rClWinA p w ∨ k = rClWinB p w) (fun t =>
        rd t (rClWinA p w) = fset fClWinAState a wsOpen ∧ rd t (rClWinB p w) = b ∧ t.cl = s.cl)) ∧
    (∀ w, w < 64 →
      (fld s (rClWinA p w) fClWinAState = wsClosed →
        Calls (.winClose rid l w) s (mbCl l) stOk [fld s (rClWinA p w) fClWinAGen] (fun _ => False) (fun t => t.cl = s.cl)) ∧
      (fld s (rClWinA p w) fClWinAState = wsClosing →
        Starts (.winClose rid l w) s (mbCl l) ⟨0x0502, rid, [w], s.beat, []⟩ (fun _ => False) (fun t => t.cl = s.cl)) ∧
      (fld s (rClWinA p w) fClWinAState = wsOpen → s.genMap = none →
        Starts (.winClose rid l w) s (mbCl l) ⟨0x0502, rid, [w], s.beat, []⟩
          (fun k => k = rClWinA p w ∨ k = rBruGenMirror ((64 * logicalOf s p + w) / 8) ∨ Tally k) (fun t => t.cl = s.cl ∧
          fld t (rClWinA p w) fClWinAState = wsClosing ∧
          fld t (rClWinA p w) fClWinAGen = (fld s (rClWinA p w) fClWinAGen + 1) % 256)) ∧
      (∀ g, fld s (rClWinA p w) fClWinAState = wsOpen → s.genMap = some g → logicalOf s p < 800 → HbmReady s → g + 51200 ≤ hbmTop s →
        Completes (.winClose rid l w) s (fun t => t.answer = ⟨stOk, []⟩ ∧ rdN t (mbxStatus (mbCl l)) % 2 = 1 ∧
          look t.calls (mbCl l) = some ⟨0x0502, rid, [w], s.beat, []⟩ ∧
          HbmBut (fun k => InPage (mbCl l) k ∨ k = rClWinA p w ∨ k = rBruGenMirror ((64 * logicalOf s p + w) / 8) ∨ Tally k) s t ∧
          t.cl = s.cl ∧ fld t (rClWinA p w) fClWinAState = wsClosing ∧
          fld t (rClWinA p w) fClWinAGen = (fld s (rClWinA p w) fClWinAGen + 1) % 256 ∧
          Stored s t (g + 64 * logicalOf s p + w) (natLe 1 ((fld s (rClWinA p w) fClWinAGen + 1) % 256))))) ∧
    (∀ op mask, 1 ≤ op → op ≤ 4 → mask < 4096 → (∀ k, k < 12 → bitAt mask k = true → rangeReq s p op k = stOk) →
      let to_ (x : Nat) : Nat := if op = 1 then rsClosed else if op = 2 then rsOpen
        else if op = 3 then (if x = rsClosed then rsBusy else x) else (if x = rsOff then rsBusy else x)
      let moved (t : State) : Prop := ∀ k, k < 12 →
        rangeState t p k = if bitAt mask k = true then to_ (rangeState s p k) else rangeState s p k
      ((∃ k, k < 12 ∧ bitAt mask k = true ∧ to_ (rangeState s p k) = rsBusy) →
        Starts (.rangeSet rid l op mask) s (mbCl l) ⟨0x0504, rid, [op, mask], s.beat, []⟩ (fun k => k = rClSpmRange p) moved) ∧
      ((∀ k, k < 12 → bitAt mask k = true → to_ (rangeState s p k) ≠ rsBusy) →
        ∃ v, Calls (.rangeSet rid l op mask) s (mbCl l) stOk [v] (fun k => k = rClSpmRange p) (fun t =>
          v = rdN t (rClSpmRange p) ∧ moved t)))

/-- 05 R173: a write of CL.WIN_CLOSE closes each OPEN window it names: its generation grows by 1 modulo 256, it is CLOSING, the mirror
register and the image's map of generations in HBM show the new generation; every other window and byte is as it was. The model's choices
that it rests on: log 27, 47. -/
def Obligations.WindowCloseWriteCompletes : Prop :=
  ∀ (s : State) (rid l mask : Nat), ClWritable s rid l → mask < 2 ^ 64 →
    let p := physOf s l
    let n := logicalOf s p
    let closes (w : Nat) : Prop := w < 64 ∧ bitAt mask w = true ∧ fld s (rClWinA p w) fClWinAState = wsOpen
    let K : Nat → Prop := fun k => (∃ w, closes w ∧ (k = rClWinA p w ∨ k = rBruGenMirror ((64 * n + w) / 8))) ∨ Tally k
    let shown (t : State) : Prop := ∀ w, w < 64 →
      (closes w → fld t (rClWinA p w) fClWinAState = wsClosing ∧
        fld t (rClWinA p w) fClWinAGen = (fld s (rClWinA p w) fClWinAGen + 1) % 256) ∧
      (¬ closes w → rd t (rClWinA p w) = rd s (rClWinA p w))
    (s.genMap = none → Writes (.winCloseWrite rid l mask) s stOk K (fun t => shown t ∧ t.cl = s.cl)) ∧
    (∀ g, s.genMap = some g → n < 800 → HbmReady s → g + 51200 ≤ hbmTop s →
      Completes (.winCloseWrite rid l mask) s (fun t => t.answer = ⟨stOk, []⟩ ∧ HbmBut K s t ∧ shown t ∧ t.cl = s.cl ∧
        (∀ w, closes w → hbmByte t (g + 64 * n + w) = BitVec.ofNat 8 ((fld s (rClWinA p w) fClWinAGen + 1) % 256)) ∧
        (∀ x, x < hbmTop s → (∀ w, closes w → x ≠ g + 64 * n + w) → hbmByte t x = hbmByte s x)))

/-- 02 R78, 03 R106, 04 R124, R142, R143, 05 R160-R165, 06 R190: the writes of a cluster's control registers that have rows of their own,
by a requestor that may write the block with expert level on: a halted stream resumes, a stream stops, a semaphore is written, contexts
in ERROR are cleared, the matrix and arithmetic controls are set, bank ranges close, open, go off and on, windows open, a detour entry is
written and a commit beat is armed; the answer is OK, and nothing else changes. -/
def Obligations.ClusterControlWritesComplete : Prop :=
  ∀ (s : State) (rid l : Nat), ClWritable s rid l →
    let p := physOf s l
    (∀ st pc, st < 32 → (streamState s p st = ssHalted ∨ streamState s p st = ssError) → (streamOf s p st).first ≤ pc →
      pc < (streamOf s p st).last → pc < 2 ^ 13 →
      Writes (.clStreamCtlResume rid l st pc) s stOk (fun k => k = rClStream p st) (fun t =>
        streamState t p st = ssRunning ∧ streamPc t p st = pc ∧ (streamOf t p st).block = [] ∧
        (streamOf t p st).ctr = (streamOf s p st).ctr)) ∧
    (∀ st, st < 32 → streamState s p st ≠ ssIdle →
      Writes (.clStreamCtlStop rid l st) s stOk (fun k => k = rClStream p st) (fun t =>
        streamState t p st = ssHalted ∧ streamPc t p st = streamPc s p st ∧ t.cl = s.cl)) ∧
    (∀ i v, i < 56 → Writes (.clSemWrite rid l i v) s stOk (fun k => k = rClSem p i) (fun t => semOf t p i = v % 2 ^ 32 ∧ t.cl = s.cl)) ∧
    (∀ mask, mask < 2 ^ 60 → Writes (.dmaCtxClrWrite rid l mask) s stOk (fun k => ∃ c, c < 60 ∧ bitAt mask c = true ∧ k = rClDmaCtx p c)
      (fun t => t.cl = s.cl ∧ ∀ c, c < 60 → ctxState t p c = if bitAt mask c = true ∧ ctxState s p c = dxError then
        (if ctxQueue s p c = [] then dxIdle else dxActive) else ctxState s p c)) ∧
    (∀ v, Writes (.matCtrlWrite rid l v) s stOk (fun k => k = rClMatCtrl p) (fun t =>
      fld t (rClMatCtrl p) fClMatCtrlGateEn = v % 2 ∧ fld t (rClMatCtrl p) fClMatCtrlUngateLimit = v / 16 % 16 ∧ t.cl = s.cl)) ∧
    (∀ r, Writes (.arithCtrlWrite rid l r) s stOk (fun k => k = rClArithCtrl p) (fun t =>
      fld t (rClArithCtrl p) fClArithCtrlRepro = r % 2 ∧ t.cl = s.cl)) ∧
    (∀ mask, mask < 4096 →
      let moves (op : Nat) (c : Instr) (to_ : Nat → Nat) : Prop := (∀ k, k < 12 → bitAt mask k = true → rangeReq s p op k = stOk) →
        Writes c s stOk (fun k => k = rClSpmRange p) (fun t => ∀ k, k < 12 →
          rangeState t p k = if bitAt mask k = true then to_ (rangeState s p k) else rangeState s p k)
      moves 1 (.rangeClose rid l mask) (fun _ => rsClosed) ∧
      moves 2 (.rangeOpen rid l mask) (fun _ => rsOpen) ∧
      moves 3 (.rangeOff rid l mask) (fun x => if x = rsClosed then rsBusy else x) ∧
      moves 4 (.rangeOn rid l mask) (fun x => if x = rsOff then rsBusy else x)) ∧
    (∀ mask, mask < 2 ^ 64 → (∀ w, w < 64 → bitAt mask w = true → openStatus s p w = stOk) →
      Writes (.winOpenWrite rid l mask) s stOk (fun k => ∃ w, w < 64 ∧ bitAt mask w = true ∧ k = rClWinA p w) (fun t => t.cl = s.cl ∧
        ∀ w, w < 64 → rd t (rClWinA p w) = if bitAt mask w = true then fset fClWinAState (rd s (rClWinA p w)) wsOpen
          else rd s (rClWinA p w))) ∧
    (∀ e v, e < 32 → fget fClRtrDetourOutPort (BitVec.ofNat 64 v) ≠ 4 →
      portPresent p (fget fClRtrDetourOutPort (BitVec.ofNat 64 v)) = true →
      Writes (.detourWrite rid l e v) s stOk (fun k => k = rClRtrDetour p e) (fun t =>
        rd t (rClRtrDetour p e) = BitVec.ofNat 64 v &&& 0xFF00FFFFFC000000 ∧ t.cl = s.cl)) ∧
    (∀ beat, beat < 2 ^ 63 → Writes (.rtrCommitArm rid l beat) s stOk (fun k => k = rClRtrCommit p) (fun t =>
      fld t (rClRtrCommit p) fClRtrCommitArmed = 1 ∧ fld t (rClRtrCommit p) fClRtrCommitBeat = beat ∧ t.cl = s.cl))

/-- 01 R36, 07 R235, 09 R297, 12 R349, R363, 14 R416, R422, 16 R477: the writes of other blocks' control registers that have rows of their
own, by a requestor that may write the block with expert level on: a slot table is applied, a trigger armed, ADMIT set, the coherent
window set while both ports are down, a grant made by the owner, the module cap and the frequency mode set, a cluster's frequency
requested, and a trace unit re-armed; the answer is OK, and nothing else changes. -/
def Obligations.BlockControlWritesComplete : Prop :=
  ∀ (s : State) (rid : Nat),
    (∀ n wc, n < 16 → Writable s rid (rMsdSlotCtl n) (mbMsd n) →
      Writes (.slotApplyWrite rid n wc) s stOk (fun k => k = rMsdSlotCtl n) (fun t =>
        fld t (rMsdSlotCtl n) fMsdSlotCtlApply = 1 ∧ fld t (rMsdSlotCtl n) fMsdSlotCtlWorkConserve = wc % 2 ∧ t.slotTab = s.slotTab)) ∧
    (∀ i action, i < 8 → action ≤ 3 → Writable s rid (rEscTrigCtl i) mbEsc → fld s (rEscTrigCtl i) fEscTrigCtlArmed = 0 →
      s.beat + 10000 ≤ rdN s (rEscTrig i) →
      Writes (.trigCtlArm rid i action) s stOk (fun k => k = rEscTrigCtl i) (fun t =>
        fld t (rEscTrigCtl i) fEscTrigCtlArmed = 1 ∧ fld t (rEscTrigCtl i) fEscTrigCtlAction = action ∧
        fld t (rEscTrigCtl i) fEscTrigCtlFired = fld s (rEscTrigCtl i) fEscTrigCtlFired)) ∧
    (∀ on, Writable s rid rSvcAdmitCtl mbSvc → Writes (.admitCtlWrite rid on) s stOk (fun k => k = rSvcAdmitCtl) (fun t =>
      fld t rSvcAdmitCtl fSvcAdmitCtlAdmit = on % 2)) ∧
    (∀ v, Writable s rid rSerCoh mbSer → (∀ p, p < 2 → portState s p = psDown ∨ portState s p = psDetached) →
      (v % 2 = 1 → (v / 2 ^ 16 % 2 ^ 32 + v / 2 ^ 48 % 2 ^ 16 + 1) * 65536 ≤ hbmTop s) →
      Writes (.serCohWrite rid v) s stOk (fun k => k = rSerCoh) (fun t => fld t rSerCoh fSerCohEn = v % 2 ∧
        fld t rSerCoh fSerCohBase = v / 2 ^ 16 % 2 ^ 32 ∧ fld t rSerCoh fSerCohSizeM1 = v / 2 ^ 48 % 2 ^ 16)) ∧
    (∀ g v, g < 16 → Writable s rid (rSerGrant g) mbSer → isOwner s rid = true →
      Writes (.grantWrite rid g v) s stOk (fun k => k = rSerGrant g) (fun t => fld t (rSerGrant g) fSerGrantValid = v / 2 ^ 63 % 2 ∧
        fld t (rSerGrant g) fSerGrantRid = v / 2 ^ 32 % 2 ^ 16 ∧ fld t (rSerGrant g) fSerGrantBlocks = v % 2 ^ 13)) ∧
    (∀ w, Writable s rid rPwrCapSet mbPwr → 6000 ≤ w → w ≤ 18000 →
      Writes (.capSetWrite rid w) s stOk (fun k => k = rPwrCapSet) (fun t => fld t rPwrCapSet fPwrCapSetCap = w)) ∧
    (∀ m, Writable s rid rClkMode mbClk → Writes (.clkModeWrite rid m) s stOk (fun k => k = rClkMode ∨ ∃ p, p < 864 ∧ k = rClkFset p)
      (fun t => fld t rClkMode fClkModeExpertFreq = m % 2 ∧ ∀ p, p < 864 →
        fld t (rClkFset p) fClkFsetFset = fld s (rClkFset p) fClkFsetFset ∧ fld t (rClkFset p) fClkFsetFnow = setFreqOf t p % 2 ^ 16)) ∧
    (∀ p f, p < 864 → Writable s rid (rClkFset p) mbClk → fsetOk f = true →
      Writes (.fsetWrite rid p f) s stOk (fun k => k = rClkFset p) (fun t => fld t (rClkFset p) fClkFsetFset = f ∧
        fld t (rClkFset p) fClkFsetFnow = setFreqOf t p % 2 ^ 16)) ∧
    (∀ u v, isTraceUnit u = true → (if u < 1000 then ViewWritable s rid (trcCtl u)
        else Writable s rid (trcCtl u) (if u < 2000 then mbMsd (u - 1000) else mbFab (u - 2000))) → (trace s u).queue.length ≤ 8 →
      Writes (.trcRearm rid u v) s stOk (fun k => k = trcCtl u ∨ k = trcCtl u + 8) (fun t =>
        rd t (trcCtl u) = BitVec.ofNat 64 ((v % 2 ^ 64 ||| 4) &&& (if 2000 ≤ u then 0xF03 else 3)) ∧
        (if v % 2 = 1 then (trace t u).queue = [] ∧ (trace t u).count = (trace s u).queue.length
         else (trace t u).queue = (trace s u).queue ∧ (trace t u).count = 0)))

/-- 02 R53, R54, R68, R71, 04 R117, R118: MAT.RUN, MAT.READOUT and MAT.CLEAR launch into the engine's queue when it has room (4 places
behind the executing command), a clear on an idle engine makes every slot +0 and valid at once, and a descriptor that passes its checks
gives its command its ranges, and a run its readout mask and the formats of CL.MAT_STATUS. The model's choices that it rests on: log 17, 19.
-/
def Obligations.MatrixCommandsLaunch : Prop :=
  (∀ (s : State) (p st b : Nat) (h : Head), p < 864 → st < 32 →
    let u := advanceTo b s
    let K : Nat → Prop := fun k => LaunchReg p st h.cmd k ∨ k = rClMatStatus p
    let queues (c : Instr) (ph : MatPhase) : Prop := Completes c s (fun t => PastHead u t p st h ∧
      (∃ j, (cluster t p).mat = (cluster u p).mat ++ [j] ∧ j.l = launchedAs u p st h ∧ j.phase = ph ∧ j.started = 0 ∧
        j.gate = (fld u (rClMatCtrl p) fClMatCtrlGateEn == 1)) ∧ (cluster t p).slots = (cluster u p).slots ∧
      (cluster t p).flights = (cluster u p).flights ∧ SameBut K u t)
    (queued (cluster u p)).length ≤ 4 → NoClear u p →
      (Launches u p st opMatRun h → queues (.matRun p st b) .waiting) ∧
      (Launches u p st opMatReadout h → queues (.matReadout p st b) .waiting) ∧
      (Launches u p st opMatClear h → executing (cluster u p) ≠ none → queues (.matClear p st b) .checked) ∧
      (Launches u p st opMatClear h → executing (cluster u p) = none → (cluster u p).flights = [] →
        Completes (.matClear p st b) s (fun t => PastHead u t p st h ∧ (cluster t p).slots = [] ∧
          fld t (rClMatStatus p) fClMatStatusAccValid = 0xFFFF ∧ fld t (rClMatStatus p) fClMatStatusLastSeq = (cIds h.cmd).seq % 65536 ∧
          DoneAdded u t p h.cmd ∧ SameBut K u t))) ∧
  (∀ (s : State) (p : Nat) (j : MatJob), p < 864 → NoClear s p →
    ((queued (cluster s p)).take 2).find? (fun j => j.phase == .waiting) = some j → matDescCause s p j = 0 → j.started = 0 →
    let o := cOpA j.l.cmd
    (isRun j = true → let d := spmRead s p o 64
      Completes (.matDescArrive p) s (fun t =>
        cluster t p = { cluster s p with
          mat := jobsWith (cluster s p).mat { j with phase := .checked, desc := d, ranges := runRanges j.gate d }
          readMask := rdNMask d } ∧
        fld t (rClMatStatus p) fClMatStatusWFmt = rdWFmt d % 16 ∧ fld t (rClMatStatus p) fClMatStatusAFmt = rdAFmt d % 16 ∧
        Others p s t ∧ SameBut (fun k => k = rClMatStatus p) s t)) ∧
    (isReadout j = true → let d := spmRead s p o 16
      Completes (.matDescArrive p) s (fun t =>
        cluster t p = { cluster s p with
          mat := jobsWith (cluster s p).mat { j with phase := .checked, desc := d, ranges := readoutRanges d } } ∧
        Others p s t ∧ SameAll s t)))

/-- 02 R46, R48, R56-R60, R66: a run's lines arrive in their feeder queue and in the staging buffer, a pass whose operands are there begins
and sends its tree results on, each result row enters its slot with the slot's old value added (or starts it anew in an initialising pass),
and a run whose results have all entered completes. The model's choices that it rests on: log 4, 19, 25. -/
def Obligations.MatrixRunsAdvance : Prop :=
  ∀ (s : State) (p : Nat), p < 864 →
    let c := cluster s p
    (∀ r j, r < 16 → feedJob c (fun j => !rowGated j.gate j.desc r &&
        j.fed.getD r 0 < rdPasses j.desc * mLw (rdWFmt j.desc) (rdSparse j.desc)) = some j →
      let lw := mLw (rdWFmt j.desc) (rdSparse j.desc)
      let f := j.fed.getD r 0
      let o := segAddr j.desc (f / lw) r + 64 * (f % lw)
      let key := (16 * (f / lw) + r) * 4096
      linesAhead c r < lw + 64 → drainTouches c o = false → spmBad s p o 64 = false →
      (rdSparse j.desc = true → f % lw + 1 = lw → metaOk (rdWFmt j.desc)
        (fun i => memByte (memWrite j.tile (key + 64 * (f % lw)) (spmRead s p o 64)) (key + i)) = true) →
      Completes (.feederLineArrive p r) s (fun t =>
        cluster t p = { c with mat := jobsWith c.mat { j with
          fed := listSet j.fed r (f + 1), tile := memWrite j.tile (key + 64 * (f % lw)) (spmRead s p o 64) } } ∧
        Others p s t ∧ SameAll s t)) ∧
    (∀ j key o n, feedJob c (fun j => !allGated j.gate j.desc && j.actFed / 128 < rdPasses j.desc && j.actFed / 128 ≤ j.started) =
        some j → (actPieces j.desc (j.actFed / 128))[j.actFed % 128]? = some (key, o, n) →
      drainTouches c (o / 64 * 64) = false → spmBad s p o n = false →
      Completes (.actLineArrive p) s (fun t =>
        cluster t p = { c with mat := jobsWith c.mat { j with
          actFed := if j.actFed % 128 + 1 = (actPieces j.desc (j.actFed / 128)).length then (j.actFed / 128 + 1) * 128 else j.actFed + 1
          act := memWrite j.act key (spmRead s p o n) } } ∧
        Others p s t ∧ SameAll s t)) ∧
    (∀ j, executing c = some j → isRun j = true → j.phase = .checked → 1 ≤ rdMCount j.desc → j.stop = none →
      (j.started = 0 → rdInit j.desc = false → (List.range (rdMCount j.desc)).all (slotValid s p) = true) →
      weightsReady j j.started = true → actsReady j j.started = true →
      Completes (.matPassStart p) s (fun t =>
        (cluster t p).flights = c.flights ++ passFlights j j.started ∧ (cluster t p).slots = c.slots ∧
        (cluster t p).mat = jobsWith c.mat { j with
          started := j.started + 1
          tile := j.tile.filter (fun e => e.1 / 4096 / 16 != j.started)
          act := j.act.filter (fun e => e.1 / 512 / 16 != j.started) } ∧
        Others p s t ∧ SameBut Tally s t)) ∧
    (∀ f rest, c.flights = f :: rest → NoClear s p → (f.vals.map Prod.fst).Nodup →
      Completes (.matSlotUpdate p) s (fun t =>
        (cluster t p).flights = rest ∧ (cluster t p).mat = c.mat ∧
        (∀ e ∈ f.vals, tabGet (fun _ => 0) (cluster t p).slots (16 * e.1 + f.row) =
          BitVec.ofNat 32 (add32 (if f.init then 0 else (tabGet (fun _ => (0 : BitVec 32)) c.slots (16 * e.1 + f.row)).toNat) e.2.toNat)) ∧
        (∀ k, (∀ e ∈ f.vals, k ≠ 16 * e.1 + f.row) →
          tabGet (fun _ => (0 : BitVec 32)) (cluster t p).slots k = tabGet (fun _ => 0) c.slots k) ∧
        (f.init = true → f.row < 16 → bitAt (fld t (rClMatStatus p) fClMatStatusAccValid) f.row = true) ∧
        Others p s t ∧ SameBut (fun k => k = rClMatStatus p) s t)) ∧
    (∀ j, c.mat.find? (fun j => isRun j && released j) = some j → c.flights.any (fun f => f.ord == j.l.ord) = false → NoClear s p →
      (∀ k ∈ queued c, k.l.ord ≠ j.l.ord) →
      Completes (.matRunComplete p) s (fun t =>
        (cluster t p).mat = c.mat.filter (fun k => k.l.ord != j.l.ord) ∧ (cluster t p).slots = c.slots ∧
        fld t (rClMatStatus p) fClMatStatusLastSeq = (cIds j.l.cmd).seq % 65536 ∧ DoneAdded s t p j.l.cmd ∧ Others p s t ∧
        SameBut (fun k => Tally k ∨ k = rClMatStatus p ∨ k = rClSem p (cDoneSem j.l.cmd)) s t))

/-- 02 R67-R70, 03 R96: a readout copies its valid slots and, without KEEP, makes the copied ones +0; each slot of the copy is scaled,
converted and written to its row of the scratchpad for the enabled columns alone; a readout whose rows are written completes. The model's
choices that it rests on: log 18, 19. -/
def Obligations.MatrixReadoutsAdvance : Prop :=
  ∀ (s : State) (p : Nat), p < 864 →
    let c := cluster s p
    (∀ j bad, executing c = some j → isReadout j = true → j.phase = .checked → c.flights = [] →
      (∀ k ∈ c.mat, k.phase = .draining → roMCount k.desc ≤ k.drained) →
      (∀ k, ((queued c).drop 1).head? = some k → isClear k = false) →
      (roScaleEn j.desc = true → spmBad s p (roScale j.desc) 1024 = false) →
      (∀ i, i < roMCount j.desc → bitAt (fld s (rClMatStatus p) fClMatStatusAccValid) i = true ∧ bad.contains i = false) →
      (∀ k ∈ (queued c).drop 1, k.l.ord ≠ j.l.ord) →
      let mine (e : Nat × BitVec 32) : Bool := e.1 % 16 < roMCount j.desc && bitAt c.readMask (e.1 / 16)
      Completes (.matReadoutCopy p bad) s (fun t =>
        (cluster t p).shadow = c.slots.filter mine ∧
        (cluster t p).slots = (if roKeep j.desc then c.slots else c.slots.filter (fun e => !mine e)) ∧
        (∃ k ∈ (cluster t p).mat, k.l.ord = j.l.ord ∧ k.phase = .draining) ∧ Others p s t ∧
        SameBut (fun k => k = rClMatStatus p) s t)) ∧
    (∀ j, c.mat.find? (fun j => j.phase == .draining && j.drained < roMCount j.desc) = some j → c.badWords = [] →
      let a := roDst j.desc + j.drained * roStride j.desc
      a + 256 * roElem j.desc ≤ 2 ^ 25 →
      Completes (.matReadoutDrain p) s (fun t =>
        (∀ n, n < 256 → bitAt (drainMask j) n = true →
          spmRead t p (a + n * roElem j.desc) (roElem j.desc) = natLe (roElem j.desc) (readoutValue c j j.drained n).1) ∧
        (∀ q o, o < 2 ^ 25 → (q = p → ∀ n, n < 256 → bitAt (drainMask j) n = true →
            ¬ (a + n * roElem j.desc ≤ o ∧ o < a + (n + 1) * roElem j.desc)) → spmByte t q o = spmByte s q o) ∧
        (cluster t p).slots = c.slots ∧ (cluster t p).shadow = c.shadow ∧ Others p s t ∧
        SpmBut (fun k => Tally k ∨ k = rClArithFlags p ∨ k = rClArithFlagsCnt p 5) s t)) ∧
    (∀ j, c.mat.find? (fun j => j.phase == .draining) = some j → roMCount j.desc ≤ j.drained → NoClear s p →
      (∀ k ∈ queued c, k.l.ord ≠ j.l.ord) →
      Completes (.matReadoutComplete p) s (fun t =>
        (cluster t p).mat = c.mat.filter (fun k => k.l.ord != j.l.ord) ∧ (cluster t p).slots = c.slots ∧
        fld t (rClMatStatus p) fClMatStatusLastSeq = (cIds j.l.cmd).seq % 65536 ∧ DoneAdded s t p j.l.cmd ∧ Others p s t ∧
        SameBut (fun k => Tally k ∨ k = rClMatStatus p ∨ k = rClSem p (cDoneSem j.l.cmd)) s t))

/-- 04 R118, R119, R130-R136, 03 R97-R108: a vector command that launches on an idle vector unit, with a descriptor that passes its checks
and no error in the scratchpad, runs: its rows are read, computed and written one after another, its flags are raised in CL.ARITH_FLAGS
alone, and it stays the executing command; at its completion done_add is applied and the next command of the queue runs in the same way. The
model's choices that it rests on: log 19, 20, 22, 23. -/
def Obligations.VectorCommandsComplete : Prop :=
  (∀ (s : State) (p st b : Nat) (h : Head), p < 864 → st < 32 →
    let u := advanceTo b s
    let d := spmRead u p (cOpA h.cmd) 64
    let repro := fld u (rClArithCtrl p) fClArithCtrlRepro == 1
    let K : Nat → Prop := fun k => LaunchReg p st h.cmd k ∨ k = rClArithFlags p ∨ ∃ i, i < 6 ∧ k = rClArithFlagsCnt p i
    let runs (c : Instr) (o : Nat) : Prop := Launches u p st o h → (cluster u p).vec = [] → vecCause u p h.cmd = 0 →
      (cluster u p).badWords = [] → Completes c s (fun t => PastHead u t p st h ∧
        (∃ v, v.spm = u.spm ∧ v.free = u.free ∧ (cluster v p).badWords = [] ∧
          t.spm = (rowsDone p o (cOpB h.cmd) repro d v (vRows d)).spm) ∧
        (∃ j, (cluster t p).vec = [j] ∧ j.l = launchedAs u p st h ∧ j.ran = true ∧ j.repro = repro) ∧ Others p u t ∧ SpmBut K u t)
    runs (.vecEw p st b) opVecEw ∧ runs (.vecSfu p st b) opVecSfu ∧ runs (.vecRed p st b) opVecRed ∧
    runs (.vecSmax p st b) opVecSmax ∧ runs (.vecNorm p st b) opVecNorm ∧ runs (.vecCvt p st b) opVecCvt ∧
    runs (.vecMove p st b) opVecMove) ∧
  (∀ (s : State) (p : Nat) (j : VecJob), p < 864 → j.ran = true →
    ((cluster s p).vec = [j] → Completes (.vecComplete p) s (fun t => (cluster t p).vec = [] ∧ DoneAdded s t p j.l.cmd ∧ Others p s t ∧
      SameBut (fun k => Tally k ∨ k = rClSem p (cDoneSem j.l.cmd)) s t)) ∧
    (∀ k rest, (cluster s p).vec = j :: k :: rest → k.ran = false → vecCause s p k.l.cmd = 0 → (cluster s p).badWords = [] →
      let d := spmRead s p (cOpA k.l.cmd) 64
      Completes (.vecComplete p) s (fun t => DoneAdded s t p j.l.cmd ∧
        (∃ k', (cluster t p).vec = k' :: rest ∧ k'.l = k.l ∧ k'.ran = true) ∧
        (∃ v, v.spm = s.spm ∧ (cluster v p).badWords = [] ∧
          t.spm = (rowsDone p (cOpcode k.l.cmd) (cOpB k.l.cmd) k.repro d v (vRows d)).spm) ∧ Others p s t ∧
        SpmBut (fun i => Tally i ∨ i = rClSem p (cDoneSem j.l.cmd) ∨ i = rClArithFlags p ∨ ∃ n, n < 6 ∧ i = rClArithFlagsCnt p n) s t)))

/-- 04 R137-R142: DMA.SUBMIT copies its descriptors into the context's queue; a descriptor starts when every one before it has, is checked,
and a FENCE or a COPY inside the own scratchpad has moved all its bytes with that; a moved descriptor whose writes are accepted leaves the
queue, and the last one completes its submit; a failed one leaves the queue and puts its context in ERROR with its cause. The model's
choices that it rests on: log 19, 37, 48. -/
def Obligations.DmaCommandsComplete : Prop :=
  (∀ (s : State) (p st b : Nat) (h : Head), p < 864 → st < 32 →
    let u := advanceTo b s
    let c := cOpA h.cmd
    let o := cOpB h.cmd
    let n := cOpC h.cmd
    Launches u p st opDmaSubmit h → ctxState u p c ≠ dxError → (ctxQueue u p c).length + n ≤ 16 → o % 64 = 0 →
    spmOpen u p o (64 * n) = true → spmBad u p o (64 * n) = false → Completes (.dmaSubmit p st b) s (fun t => PastHead u t p st h ∧
      (ctxQueue t p c).map DmaDesc.bytes = (ctxQueue u p c).map DmaDesc.bytes ++ (List.range n).map (fun i => spmRead u p (o + 64 * i) 64) ∧
      (∀ x, x ≠ c → ctxQueue t p x = ctxQueue u p x) ∧ ctxState t p c = dxActive ∧
      fld t (rClDmaCtx p c) fClDmaCtxQueued = (ctxQueue u p c).length + n ∧
      (cluster t p).subs = (cluster u p).subs ++ [⟨launchedAs u p st h, c, n, 0, false⟩] ∧ Others p u t ∧
      SameBut (fun k => LaunchReg p st h.cmd k ∨ k = rClDmaCtx p c) u t)) ∧
  (∀ (s : State) (p c i : Nat) (d : DmaDesc), p < 864 → c < 64 → (ctxQueue s p c)[i]? = some d →
    ((ctxQueue s p c).map DmaDesc.num).Nodup →
    (inService s p = true → d.moved = false → d.cause = 0 → d.started = false → (∀ x ∈ (ctxQueue s p c).take i, x.started = true) →
      (xCheck s p d.bytes ≠ 0 → (xKind d.bytes = 5 → i = 0) → Completes (.dmaDescStart p c i) s (fun t =>
        (∃ x, (ctxQueue t p c)[i]? = some x ∧ x.num = d.num ∧ x.started = true ∧ x.cause = xCheck s p d.bytes) ∧ Others p s t ∧
        SameBut (fun k => k = rClDmaCtx p c) s t)) ∧
      (xCheck s p d.bytes = 0 → xKind d.bytes = 5 → i = 0 → Completes (.dmaDescStart p c i) s (fun t =>
        (∃ x, (ctxQueue t p c)[i]? = some x ∧ x.num = d.num ∧ x.started = true ∧ x.moved = true ∧ x.cause = 0) ∧ Others p s t ∧
        SameBut (fun k => k = rClDmaCtx p c) s t)) ∧
      (∀ so to_, xCheck s p d.bytes = 0 → xKind d.bytes = 0 → d.pos = 0 →
        rangeAt s (xSrc d.bytes) (xSize0 d.bytes) = .spm (logicalOf s p) so → rangeAt s (xDst d.bytes) (xSize0 d.bytes) = .spm (logicalOf s p) to_ →
        (so + xSize0 d.bytes ≤ to_ ∨ to_ + xSize0 d.bytes ≤ so) → (cluster s p).badWords = [] →
        Completes (.dmaDescStart p c i) s (fun t =>
          (∃ x, (ctxQueue t p c)[i]? = some x ∧ x.num = d.num ∧ x.started = true ∧ x.moved = true ∧ x.cause = 0 ∧
            x.done = d.done + xSize0 d.bytes) ∧
          (∀ q o, o < 2 ^ 25 → spmByte t q o = if q = p ∧ to_ ≤ o ∧ o < to_ + xSize0 d.bytes then spmByte s p (so + (o - to_)) else spmByte s q o) ∧
          Others p s t ∧ SpmBut (fun k => Tally k ∨ k = rClDmaCtx p c) s t))) ∧
    (d.moved = true → d.cause = 0 → descQuiet s p c d = true → s.serErrs.contains (dmaUnit p c d.num) = false →
      ((∀ u ∈ (cluster s p).subs, u.left ≠ 0 ∧ (u.l.ord = d.sub → u.left ≠ 1)) → Completes (.dmaDescComplete p c i) s (fun t =>
        ctxQueue t p c = (ctxQueue s p c).filter (fun x => x.num != d.num) ∧
        (cluster t p).subs = (cluster s p).subs.map (fun u => if u.l.ord = d.sub then { u with left := u.left - 1 } else u) ∧ Others p s t ∧
        SameBut (fun k => k = rClDmaCtx p c) s t)) ∧
      (∀ u, (cluster s p).subs = [u] → u.l.ord = d.sub → u.left = 1 → u.cause = 0 → u.discarded = false →
        Completes (.dmaDescComplete p c i) s (fun t => ctxQueue t p c = (ctxQueue s p c).filter (fun x => x.num != d.num) ∧
          (cluster t p).subs = [] ∧ DoneAdded s t p u.l.cmd ∧ Others p s t ∧
          SameBut (fun k => Tally k ∨ k = rClDmaCtx p c ∨ k = rClSem p (cDoneSem u.l.cmd)) s t))) ∧
    (d.cause ≠ 0 → descQuiet s p c d = true → ctxState s p c ≠ dxError →
      (∀ u ∈ (cluster s p).subs, (ctxQueue s p c).length < u.left) → Completes (.dmaDescFail p c i) s (fun t =>
        ctxState t p c = dxError ∧ fld t (rClDmaCtx p c) fClDmaCtxCause = d.cause % 256 ∧
        fld t (rClDmaCtx p c) fClDmaCtxDoneBytes = d.done % 2 ^ 40 ∧ (∀ x ∈ ctxQueue t p c, x ∈ ctxQueue s p c ∧ x.num ≠ d.num) ∧
        Others p s t ∧ SameBut (fun k => k = rClDmaCtx p c) s t)) ∧
    (∀ u, d.cause ≠ 0 → d.cause < 256 → descQuiet s p c d = true → ctxState s p c ≠ dxError → ctxQueue s p c = [d] → (cluster s p).subs = [u] →
      u.l.ord = d.sub → u.left = 1 → u.cause = 0 → u.l.stream < 32 → Completes (.dmaDescFail p c i) s (fun t =>
        ctxState t p c = dxError ∧ ctxQueue t p c = [] ∧ (cluster t p).subs = [] ∧ Failed s t p u.l 3 d.cause ∧
        SameBut (fun k => FailReg p u.l k ∨ k = rClDmaCtx p c) s t)))

/-- 04 R116, R119, R143, Table 04-5: a command at the head of a running stream that fails the controller's checks, or whose opcode is none
of the table's, does nothing but fail: CL.CMD_ERR, the record and the stream's ERROR report it, the stream stands past it, and done_add is
applied only with ERR_CONT; the semaphores of the checks and every other register stay. The model's choices that it rests on: log 21, 38. -/
def Obligations.RefusedCommandsFail : Prop :=
  ∀ (s : State) (p st b : Nat) (h : Head), p < 864 → st < 32 →
    let u := advanceTo b s
    let cause := checkCause h.cmd st (streamOf u p st).first (streamOf u p st).last
    headOf u p st = some h → inService u p = true → (streamState u p st = ssRunning ∨ streamState u p st = ssWaiting) →
    (streamOf u p st).fence = none → cause ≠ 0 → ∀ c o,
    ((c, o) ∈ [(Instr.ctlNop p st b, opNop), (.ctlMark p st b, opMark), (.ctlJump p st b, opJump), (.ctlLoopSet p st b, opLoopSet),
        (.ctlLoop p st b, opLoop), (.ctlExec p st b, opExec), (.ctlHalt p st b, opHalt), (.semSet p st b, opSemSet),
        (.semAdd p st b, opSemAdd), (.semSignal p st b, opSemSignal), (.fenceRel p st b, opFenceRel), (.fenceAcq p st b, opFenceAcq),
        (.matRun p st b, opMatRun), (.matReadout p st b, opMatReadout), (.matClear p st b, opMatClear), (.vecEw p st b, opVecEw),
        (.vecSfu p st b, opVecSfu), (.vecRed p st b, opVecRed), (.vecSmax p st b, opVecSmax), (.vecNorm p st b, opVecNorm),
        (.vecCvt p st b, opVecCvt), (.vecMove p st b, opVecMove), (.dmaSubmit p st b, opDmaSubmit)] ∧ cOpcode h.cmd = o ∨
      c = .badOpcodeCommand p st b ∧ isOpcode (cOpcode h.cmd) = false) →
    Completes c s (fun t => Failed u t p ⟨(cluster u p).nLaunch, st, h.idx, h.cmd, leafCount u (leafCl p)⟩ 0 cause ∧
      (cluster t p).mat = (cluster u p).mat ∧ (cluster t p).slots = (cluster u p).slots ∧ (cluster t p).vec = (cluster u p).vec ∧
      (cluster t p).ctx = (cluster u p).ctx ∧ Others p u t ∧ SameBut (FailReg p (launchedAs u p st h)) u t)

/-- 05 R149-R158: of the requesters that present an access to a bank the round-robin winner's is carried out and answered with its latency,
and every other one's stall count grows; a corrected word is written back; the scrubber reads a bank's next line, notes an error of the word
it finds, and reports an uncorrectable one. The model's choices that it rests on: log 19, 26. -/
def Obligations.ScratchpadAccessesComplete : Prop :=
  ∀ (s : State) (p : Nat), p < 864 →
    let c := cluster s p
    let stored (t : State) (o : Nat) (l : List Byte) : Prop := ∀ q x, x < 2 ^ 25 →
      spmByte t q x = if q = p ∧ o ≤ x ∧ x < o + l.length then l.getD (x - o) 0 else spmByte s q x
    (∀ r0 rest q r ew, let reqs := r0 :: rest
      let bank := bankOfOff r0.off
      let rmw := r.write && r.size == 4
      let K : Nat → Prop := fun k => Tally k ∨ ∃ x, x < 24 ∧ x ≠ q ∧ k = rClSpmStall p x
      let stalled (t : State) : Prop := ∀ x, x < 24 → x ≠ q → reqs.any (fun r => r.q == x) = true →
        fld t (rClSpmStall p x) fClSpmStallCycles = (fld s (rClSpmStall p x) fClSpmStallCycles + if rmw then 2 else 1) % 2 ^ 48
      (∀ x ∈ reqs, bankOfOff x.off = bank ∧ x.q < 24) → winner c bank (reqs.map SpmReq.q) = some q →
      reqs.find? (fun r => r.q == q) = some r → accessForm r.off r.size = true → mayReach s p q r.off r.size = true → q ≠ 23 →
      (r.write = false → spmBad s p r.off r.size = false → Completes (.spmAccess p reqs 0 ew) s (fun t =>
        t.answer = ⟨stOk, [q, spmLatency q bank] ++ (spmRead s p r.off r.size).map BitVec.toNat⟩ ∧ stalled t ∧
        (tabGet (fun _ => 23) (cluster t p).lastGrant bank = q) ∧ Others p s t ∧ SameBut K s t)) ∧
      (r.write = true → spmPartBad s p r.off r.size = false → r.off + r.size ≤ spmSize → Completes (.spmAccess p reqs 0 ew) s (fun t =>
        t.answer = ⟨stOk, [q, spmLatency q bank + bit (r.size == 4)]⟩ ∧ stalled t ∧
        (tabGet (fun _ => 23) (cluster t p).lastGrant bank = q) ∧ stored t r.off (padTo r.size r.data) ∧ Others p s t ∧ SpmBut K s t))) ∧
    (∀ word, Completes (.eccWriteback p word) s (fun t =>
      cluster t p = { c with fixWords := c.fixWords.filter (· != word) } ∧ Others p s t ∧ SameAll s t)) ∧
    (∀ bank row ew displaced, bank < 128 → scrubNext s p (tabGet (fun _ => 0) c.scrubRow bank) = some row →
      let word := offOf bank row / 8 + ew % 8
      let K : Nat → Prop := fun k => Tally k ∨ k = rClSpmEcc p ∨ k = rClSpmEccCnt p 0 ∨ k = rClSpmEccCnt p 1 ∨ ∃ x, x ∈ displaced ∧ x < 24 ∧ k = rClSpmStall p x
      let scrubbed (t : State) : Prop := tabGet (fun _ => 0) (cluster t p).scrubRow bank = (row + 1) % 3072 ∧ Others p s t
      Completes (.scrubRead p bank 0 ew displaced) s (fun t => scrubbed t ∧ (cluster t p).badWords = c.badWords ∧
        (cluster t p).fixWords = c.fixWords ∧ SameBut (fun k => ∃ x, x ∈ displaced ∧ x < 24 ∧ k = rClSpmStall p x) s t) ∧
      Completes (.scrubRead p bank 1 ew displaced) s (fun t => scrubbed t ∧ word ∈ (cluster t p).fixWords ∧
        (cluster t p).badWords = c.badWords ∧ SameBut K s t) ∧
      Completes (.scrubRead p bank 2 ew displaced) s (fun t => scrubbed t ∧ word ∈ (cluster t p).badWords ∧
        Recorded s t 2 0 p 0x1A ∧ SameBut (fun k => K k ∨ Logged k) s t))

/-- 05 R160, R162, R164, R173: a range on its way down goes OFF when nothing reserves it and loses its bytes, one on its way up ends CLOSED
and reads 0, and a CLOSING window is CLOSED when its last accepted access is done; nothing else changes. The model's choices that it rests
on: log 4. -/
def Obligations.RangeAndWindowTransitionsComplete : Prop :=
  ∀ (s : State) (p : Nat), p < 864 →
    let emptied (t : State) (k : Nat) : Prop := ∀ q x, x < 2 ^ 25 →
      spmByte t q x = if q = p ∧ k * 0x200000 ≤ x ∧ x < (k + 1) * 0x200000 then 0 else spmByte s q x
    let moved (t : State) (k v : Nat) : Prop := ∀ j, j < 12 → rangeState t p j = if j = k then v else rangeState s p j
    (∀ k, k < 12 → rangeState s p k = rsBusy → bitAt (cluster s p).rampUp k = false → reserved s p k = false →
      Completes (.rangePowerDown p k) s (fun t => moved t k rsOff ∧ emptied t k ∧ Others p s t ∧ SpmBut (fun i => i = rClSpmRange p) s t)) ∧
    (∀ k, k < 12 → rangeState s p k = rsBusy → bitAt (cluster s p).rampUp k = true →
      Completes (.rangeOnComplete p k) s (fun t => moved t k rsClosed ∧ emptied t k ∧ Others p s t ∧
        SpmBut (fun i => i = rClSpmRange p) s t)) ∧
    (∀ w, w < 64 → fld s (rClWinA p w) fClWinAState = wsClosing → (cluster s p).ingress.any (fun e => e.win == w) = false →
      Completes (.windowDrained p w) s (fun t => rd t (rClWinA p w) = fset fClWinAState (rd s (rClWinA p w)) wsClosed ∧ t.cl = s.cl ∧
        SameBut (fun i => i = rClWinA p w) s t))

/-- 05 R169-R171, R174, R176: an access through a window, or by device address from the CID, that passes its checks is accepted into the
holder's ingress buffer, as long as it has room, and answered OK; one that fails them is answered with its cause and recorded in
CL.WIN_NACK, and an access to a vacant number is UNMAPPED. The model's choices that it rests on: log 4, 46. -/
def Obligations.WindowAccessesComplete : Prop :=
  ∀ (s : State) (src : Source) (tag l off size : Nat) (write : Bool) (data : List Byte), l < 800 →
    let p := physOf s l
    let K : Nat → Prop := fun k => Tally k ∨ k = rClWinNack p ∨ k = rClWinNackCnt p
    let takes (c : Instr) (w o : Nat) : Prop := Completes c s (fun t => t.answer = ⟨stOk, []⟩ ∧
      cluster t p = { cluster s p with
        ingress := (cluster s p).ingress ++ [⟨tag, w, o, size, if write then some (padTo size data) else none⟩] } ∧
      Others p s t ∧ SameAll s t)
    let nacks (c : Instr) (cause : Nat) : Prop := Completes c s (fun t => t.answer = ⟨cause, []⟩ ∧
      t.sent.head? = some ⟨.meshResp, tag, [cause], []⟩ ∧ fld t (rClWinNack p) fClWinNackCause = cause % 256 ∧ t.cl = s.cl ∧ SameBut K s t)
    let unmapped (c : Instr) : Prop := Completes c s (fun t => t.answer = ⟨ccUnmapped, []⟩ ∧
      t.sent.head? = some ⟨.meshResp, tag, [ccUnmapped], []⟩ ∧ t.cl = s.cl ∧ SameAll s t)
    (∀ w gen, w < 64 →
      (held s l = true → windowCheck s p w (some gen) src off size write = 0 → (cluster s p).ingress.length < 32 →
        takes (.windowAccess src tag l w gen off size write data) w (winBase (rd s (rClWinA p w)) + off)) ∧
      (∀ cause, held s l = true → cause ≠ 0 → windowCheck s p w (some gen) src off size write = cause →
        nacks (.windowAccess src tag l w gen off size write data) cause) ∧
      (held s l = false → unmapped (.windowAccess src tag l w gen off size write data))) ∧
    (moving s l = false →
      (∀ w, (addrCheck s src l off size write).1 = some w → (cluster s p).ingress.length < 32 →
        takes (.spmAddrAccess src tag l off size write data) w off) ∧
      (∀ cause, addrCheck s src l off size write = (none, cause) → cause ≠ ccUnmapped →
        nacks (.spmAddrAccess src tag l off size write data) cause) ∧
      (addrCheck s src l off size write = (none, ccUnmapped) → unmapped (.spmAddrAccess src tag l off size write data)))

/-- 06 R181, R185, R191, R192, R195, R198: a packet's source router turns its destination into a router or refuses a vacant number, a
request waits for its response or is given up with REMOTE_ERR, the refusal responder answers for a stopped cluster, a flit that fails its
CRC is counted and at the 16th failure in a row its link is DOWN and reported, and a landing enters and leaves handshake mode. The model's
choices that it rests on: log 4, 67. -/
def Obligations.MeshCommandsComplete : Prop :=
  ∀ (s : State) (p : Nat), p < 864 →
    (∀ dst vc flits tag, dst < 819 →
      ((dst < 800 → held s dst = true) → let q := portRouter s p dst
        Completes (.meshPacketInject p dst vc flits tag) s (fun t => t.answer = ⟨stOk, [q]⟩ ∧
          t.meshReqs = (if vc = 0 then s.meshReqs ++ [⟨p, tag, dst⟩]
            else if vc = 1 then s.meshReqs.filter (fun r => !(r.src == q && r.tag == tag)) else s.meshReqs) ∧
          t.cl = s.cl ∧ SameBut Tally s t)) ∧
      (dst < 800 → held s dst = false → Completes (.meshPacketInject p dst vc flits tag) s (fun t =>
        t.answer = ⟨stUnmapped, []⟩ ∧ t.meshReqs = s.meshReqs ∧ t.cl = s.cl ∧ SameAll s t))) ∧
    (∀ kind tag, fld s (rClRtrStatus p) fClRtrStatusResponder = 1 →
      let st := if kind = 0 then ccWindowClosed else if kind = 1 then ccAccess else ccTargetRefused
      Completes (.responderRefuse p kind tag) s (fun t => t.answer = ⟨st, []⟩ ∧ SentLast t .meshResp tag [st] [] ∧ t.cl = s.cl ∧
        SameAll s t)) ∧
    (∀ tag, (∃ r ∈ s.meshReqs, r.src = p ∧ r.tag = tag) →
      let left := s.meshReqs.filter (fun r => !(r.src == p && r.tag == tag))
      ((cluster s p).signals.find? (fun l => l.ord == tag) = none → Completes (.meshRequestTimeout p tag) s (fun t =>
        t.answer = ⟨ccRemoteErr, []⟩ ∧ t.meshReqs = left ∧ t.cl = s.cl ∧ SameAll s t)) ∧
      (∀ l, (cluster s p).signals.find? (fun l => l.ord == tag) = some l → l.stream < 32 →
        Completes (.meshRequestTimeout p tag) s (fun t => t.answer = ⟨ccRemoteErr, []⟩ ∧ t.meshReqs = left ∧
          cluster t p = { cluster s p with signals := (cluster s p).signals.filter (fun x => x.ord != tag) } ∧
          Failed s t p l 0 ccRemoteErr ∧ Others p s t ∧ SameBut (FailReg p l) s t))) ∧
    (∀ port again, port < 7 →
      let n := if again = true then tabGet (fun _ => 0) (cluster s p).retryRun port + 1 else 1
      let K : Nat → Prop := fun k => k = rClRtrErr p ∨ k = rClRtrErrCnt p 0 ∨ k = rClRtrPort p port
      let counted (t : State) : Prop := fld t (rClRtrErr p) fClRtrErrLastPort = port ∧ fld t (rClRtrErr p) fClRtrErrCrcRetry = 1 ∧
        fld t (rClRtrPort p port) fClRtrPortRetries = min 0xFFFF (fld s (rClRtrPort p port) fClRtrPortRetries + 1)
      (n < 16 → Completes (.meshFlitRetry p port again) s (fun t => counted t ∧
        tabGet (fun _ => 0) (cluster t p).retryRun port = n ∧ Others p s t ∧ SameBut K s t)) ∧
      (16 ≤ n → portPresent p port = true → let q := neighbour p port
        Completes (.meshFlitRetry p port again) s (fun t => counted t ∧ tabGet (fun _ => 0) (cluster t p).retryRun port = 0 ∧
          fld t (rClRtrPort p port) fClRtrPortState = 1 ∧ bitAt (fld t (rClRtrStatus p) fClRtrStatusPortUp) port = false ∧
          (port < 4 → fld t (rClRtrPort q ((port + 2) % 4)) fClRtrPortState = 1) ∧ fld t (rClRtrErr p) fClRtrErrLinkFail = 1 ∧
          SentLast t .stair 63 [7, 1, linkOwner p port, 5, s.beat] [] ∧ Others p s t ∧
          SameBut (fun k => K k ∨ k = rClRtrErrCnt p 1 ∨ k = rClRtrStatus p ∨
            (port < 4 ∧ (k = rClRtrPort q ((port + 2) % 4) ∨ k = rClRtrStatus q))) s t))) ∧
    (∀ port offset, port < 7 → offset < 16 → let r := rClRtrPort p port
      (fld s r fClRtrPortLanding = 1 → fld s r fClRtrPortMode = 0 → (toSigned 4 offset < -3 ∨ 3 < toSigned 4 offset) →
        Completes (.landingHandshakeEnter p port offset) s (fun t => fld t r fClRtrPortMode = 1 ∧ fld t r fClRtrPortOffset = offset ∧
          fld t r fClRtrPortHsEntries = min 0xFFFFFFFF (fld s r fClRtrPortHsEntries + 1) ∧ fld t (rClRtrErr p) fClRtrErrHsMode = 1 ∧
          fld t (rClRtrErr p) fClRtrErrLastPort = port ∧ t.cl = s.cl ∧
          SameBut (fun k => k = r ∨ k = rClRtrErr p ∨ k = rClRtrErrCnt p 2) s t)) ∧
      (fld s r fClRtrPortMode = 1 → -1 ≤ toSigned 4 offset → toSigned 4 offset ≤ 1 →
        Completes (.landingRecentre p port offset) s (fun t => fld t r fClRtrPortMode = 0 ∧ fld t r fClRtrPortOffset = offset ∧
          t.cl = s.cl ∧ SameBut (fun k => k = r) s t)))

/-- 06 R185, R190, R200-R202: an armed commit whose beat is reached makes the shadow detour table the active one; map changes whose beat is
reached give a number its new holder, which serves, and leave every other number where it is; a publication writes the distance table into
the copy not in force and names it in BRU.DIST. The model's choices that it rests on: log 2, 86. -/
def Obligations.RoutingTablesChange : Prop :=
  ∀ (s : State),
    (∀ p b, p < 864 → let u := advanceTo b s
      fld u (rClRtrCommit p) fClRtrCommitArmed = 1 → fld u (rClRtrCommit p) fClRtrCommitBeat ≤ leafCount u (leafCl p) % 2 ^ 63 →
      Completes (.rtrCommit p b) s (fun t =>
        cluster t p = { cluster u p with
          detour := ((List.range 32).map (fun e => (e, rd u (rClRtrDetour p e)))).filter (fun e => e.2 != 0) } ∧
        fld t (rClRtrCommit p) fClRtrCommitArmed = 0 ∧ Others p u t ∧
        SameBut (fun k => k = rClRtrCommit p ∨ k = rClRtrStatus p) u t)) ∧
    (∀ b, let u := advanceTo b s
      ((∀ m ∈ u.mapChanges, u.beat < m.beat) → Completes (.mapChange b) s (fun t => t.mapChanges = u.mapChanges ∧ t.cl = u.cl ∧
        SameAll u t)) ∧
      (∀ m, u.mapChanges = [m] → m.beat ≤ u.beat → m.holder < 864 → held u m.logical = true → m.holder ≠ physOf u m.logical →
        (∀ l, l ≠ m.logical → physOf u l ≠ physOf u m.logical) →
        Completes (.mapChange b) s (fun t => t.mapChanges = [] ∧ physOf t m.logical = m.holder ∧
          (∀ l, l ≠ m.logical → physOf t l = physOf u l) ∧ clState t m.holder = csServing ∧
          fld t (rBruCl m.holder) fBruClLogical = m.logical % 65536 ∧ fld t (rBruCl (physOf u m.logical)) fBruClLogical = 0xFFFF ∧
          t.cl = u.cl ∧ t.spm = u.spm ∧ t.hbm = u.hbm ∧ t.buf = u.buf ∧
          RegsBut (fun k => Tally k ∨ k = rBruCl m.holder ∨ k = rBruCl (physOf u m.logical) ∨ k = rClRtrStatus m.holder ∨
            k = rModStatus) u t))) ∧
    (s.proxied = [] → msdState s 15 ≠ msFailed →
      let gen := (fld s rBruDist fBruDistGen + 1) % 65536
      let copy := if fld s rBruDist fBruDistGen = 0 then 0 else 1 - fld s rBruDist fBruDistCopy
      let a := 15 * 2 ^ 26 + 0x3800000 + copy * 0x300000
      Completes .distPublish s (fun t => fld t rBruDist fBruDistGen = gen ∧ fld t rBruDist fBruDistCopy = copy ∧
        (∀ k, memByte t.buf k = if a ≤ k ∧ k < a + (distBytes s gen).length then (distBytes s gen).getD (k - a) 0
          else memByte s.buf k) ∧
        t.cl = s.cl ∧ t.spm = s.spm ∧ t.hbm = s.hbm ∧ t.lmap = s.lmap ∧ RegsBut (fun k => k = rBruDist) s t))

/-- 07 R215, R229-R231, R247: a read of HBM is refused, opens an entry, joins an open one or takes a line it has already sent; its data
answer every requester, a line the ECC cannot correct waits for its parity MSD or is lost, and an entry closes at its end. The model's
choices that it rests on: log 4, 37. -/
def Obligations.HbmReadsAdvance : Prop :=
  ∀ (s : State) (a : Nat),
    let st := stackOf a
    let o := stackOff (a / 64 * 64)
    let joins (size : Nat) (r : LineRead) : Bool := r.combine && r.isOpen && r.addr == a && size == 64
    (∀ req size,
      (∀ c, hbmCheck s a size = c → c ≠ 0 → Completes (.hbmRead req a size) s (fun t => t.answer = ⟨c, []⟩ ∧
        SentLast t .meshResp req [c, a] [] ∧ t.lineReads = s.lineReads ∧ SameAll s t)) ∧
      (hbmCheck s a size = 0 → s.lineReads.find? (joins size) = none →
        let comb := size == 64 && !msdDown s st &&
          decide ((s.lineReads.filter (fun r => r.combine && r.isOpen && stackOf r.addr == st)).length < 512)
        Completes (.hbmRead req a size) s (fun t =>
          t.lineReads = s.lineReads ++ [⟨a, size, [req], comb, comb, false, msdDown s st, none⟩] ∧ SameAll s t)) ∧
      (∀ r, hbmCheck s a size = 0 → s.lineReads.find? (joins size) = some r →
        (r.sent = false → Completes (.hbmRead req a size) s (fun t =>
          t.lineReads = s.lineReads.map (fun x => if x = r then { r with reqs := r.reqs ++ [req] } else x) ∧ SameBut Tally s t)) ∧
        (r.sent = true → Completes (.hbmRead req a size) s (fun t =>
          SentLast t .meshResp req [stOk, a] (rawLine s st (stackOff a)) ∧ t.lineReads = s.lineReads ∧ SameBut Tally s t)))) ∧
    (∀ r, s.lineReads.find? (fun r => r.addr == a && !r.sent && !r.rebuild) = some r →
      (∀ l sev, r.old = some l → Completes (.hbmReadData a sev) s (fun t => ReadAnswered t r stOk (slice (a % 64) r.size l) ∧
        t.lineReads = readsAfter s.lineReads r ∧ SameBut Tally s t)) ∧
      (r.old = none → (∀ w ∈ s.lineWrites, w.line ≠ a / 64) →
        (∀ sev, sev < 2 → lineUp s st o = true → Completes (.hbmReadData a sev) s (fun t =>
          ReadAnswered t r stOk (slice (a % 64) r.size (rawLine s st o)) ∧ t.lineReads = readsAfter s.lineReads r ∧
          SameBut Tally s t)) ∧
        (lineUp s st o = true → let bad := hkey st o / 64
          let v := { s with hbmBad := bad :: s.hbmBad }
          ((rebuilt v st o).isSome = true → Completes (.hbmReadData a 2) s (fun t => t.hbmBad = bad :: s.hbmBad ∧
            t.lineReads = s.lineReads.map (fun x => if x = r then { r with rebuild := true, combine := false } else x) ∧
            SameBut Tally s t)) ∧
          (rebuilt v st o = none → Completes (.hbmReadData a 2) s (fun t => ReadAnswered t r ccRemoteErr [] ∧
            fld t (rMsdErr st) fMsdErrDataLost = 1 ∧ t.lineReads = s.lineReads.erase r ∧
            SameBut (fun k => Tally k ∨ k = rMsdErr st ∨ k = rMsdErrCnt st meLost) s t))))) ∧
    (∀ r, s.lineReads.find? (fun r => r.addr == a && r.rebuild && !r.sent) = some r → r.combine = false → r.old = none →
      (∀ w ∈ s.lineWrites, w.applied = true → stripeOf (stackOf (w.line * 64)) (stackOff (w.line * 64)) ≠ stripeOf st o) →
      lineUp s st o = false → ∀ l, rebuilt s st o = some l →
      (msdDown s st = true → Completes (.lineReconstruct a) s (fun t => ReadAnswered t r stOk (slice (a % 64) r.size l) ∧
        t.lineReads = s.lineReads.erase r ∧ SameBut Tally s t)) ∧
      (msdDown s st = false → Completes (.lineReconstruct a) s (fun t => ReadAnswered t r stOk (slice (a % 64) r.size l) ∧
        t.lineReads = s.lineReads.erase r ∧ StackStored s t st o l ∧ Recorded s t 1 4 st 0x1B ∧
        fld t (rMsdErr st) fMsdErrRepaired = 1 ∧
        HbmBut (fun k => Tally k ∨ Logged k ∨ k = rMsdErr st ∨ k = rMsdErrCnt st meRepaired) s t))) ∧
    Completes (.combineExpire a) s (fun t =>
      t.lineReads = (s.lineReads.filter (fun r => !(r.combine && r.isOpen && r.addr == a && r.sent))).map
        (fun r => if r.combine = true ∧ r.isOpen = true ∧ r.addr = a then { r with isOpen := false } else r) ∧ SameAll s t)

/-- 07 R215, R219, R223, R231: a write of HBM is refused, is carried through at once where there is no parity to keep, or starts with the
delta of its line over the writes ahead of it; its delta changes the parity line and is acknowledged, and then the line is stored and the
sender answered. The model's choices that it rests on: log 4, 37. -/
def Obligations.HbmWritesAdvance : Prop :=
  ∀ (s : State) (a : Nat),
    let st := stackOf a
    let o := stackOff (a / 64 * 64)
    let z := stripeOf st o
    (∀ req data,
      (∀ c, hbmCheck s a data.length = c → c ≠ 0 → Completes (.hbmWrite req a data) s (fun t => t.answer = ⟨c, []⟩ ∧
        SentLast t .meshResp req [c, a] [] ∧ t.lineWrites = s.lineWrites ∧ SameAll s t)) ∧
      (hbmCheck s a data.length = 0 → parityOn s = false → lineUp s st o = true → (∀ w ∈ s.lineWrites, w.line ≠ a / 64) →
        Completes (.hbmWrite req a data) s (fun t => t.answer = ⟨stOk, []⟩ ∧ SentLast t .meshResp req [stOk, a] [] ∧
          Stored s t a data ∧ t.lineWrites = s.lineWrites ∧ HbmBut Tally s t)) ∧
      (hbmCheck s a data.length = 0 → parityOn s = true → lineUp s st o = true →
        lineUp s (parityAt z).1 (parityAt z).2 = true →
        let old := (lineAhead s a).getD []
        let new := patch old (a % 64) data
        Completes (.hbmWrite req a data) s (fun t => t.lineWrites = s.lineWrites ++ [⟨req, a / 64, new, xorBytes old new, false⟩] ∧
          t.lineReads = s.lineReads.map (fun r => if r.addr / 64 = a / 64 ∧ r.old = none then { r with isOpen := false, old := some old } else r) ∧
          SameBut Tally s t))) ∧
    (∀ w, s.lineWrites.find? (fun w => w.line == a / 64 && !w.applied) = some w → w.delta.length = 64 →
      Completes (.parityDelta a) s (fun t =>
        t.lineWrites = s.lineWrites.map (fun x => if x = w then { w with applied := true } else x) ∧
        StackStored s t (parityAt (stripeOf st (stackOff (a / 64 * 64)))).1 (parityAt (stripeOf st (stackOff (a / 64 * 64)))).2
          (xorBytes (rawLine s (parityAt z).1 (parityAt z).2) w.delta) ∧ HbmBut Tally s t)) ∧
    (∀ w, s.lineWrites.find? (fun w => w.line == a / 64) = some w → w.applied = true → w.new.length = 64 →
      Completes (.parityAck a) s (fun t => t.lineWrites = s.lineWrites.erase w ∧ StackStored s t st o w.new ∧
        SentLast t .meshResp w.req [stOk, a / 64 * 64] [] ∧ HbmBut Tally s t))

/-- 07 R210, R211, R215, R216, R221, R222, R226, R227, R235, R248: a bank is refreshed, a temperature is taken and doubles the refresh, an
MSD fails, its proxy takes over with its reserve empty, a rebuilt MSD serves again with every logged unit rewritten, the scrub repairs a
line and recomputes a parity line that disagrees, a buffer is read and written, and an applied slot table becomes active. The model's
choices that it rests on: log 37, 39, 44. -/
def Obligations.MemoryDieCommandsComplete : Prop :=
  ∀ (s : State) (n : Nat), n < 16 →
    (∀ pc, pc < 32 → msdState s n ≠ msFailed → Completes (.refresh n pc) s (fun t =>
      tabGet (fun _ => 0) t.refreshBank (32 * n + pc) = (tabGet (fun _ => 0) s.refreshBank (32 * n + pc) + 1) % 48 ∧
      (∀ i, i ≠ 32 * n + pc → tabGet (fun _ => 0) t.refreshBank i = tabGet (fun _ => 0) s.refreshBank i) ∧ SameBut Tally s t)) ∧
    (∀ d, Completes (.dramTempRead n d) s (fun t => fld t (rMsdStatus n) fMsdStatusDramTemp = min d 255 ∧
      fld t (rMsdStatus n) fMsdStatusRefreshX2 =
        (if 85 < d then 1 else if d < 80 then 0 else fld s (rMsdStatus n) fMsdStatusRefreshX2) ∧
      (∀ m, m ∈ t.dramHot ↔ (m = n ∧ 95 < d) ∨ (m ≠ n ∧ m ∈ s.dramHot)) ∧ SameBut (fun k => k = rMsdStatus n ∨ ThrReg k) s t)) ∧
    (∀ why, msdState s n ≠ msFailed → s.lineWrites = [] → s.lineReads = [] →
      (why = 3 → 64 ≤ (s.badLines.filter (fun e => e.1 == n && s.beat < e.2 + 1000000000)).length) →
      let second := parityOn s = false ∨ ∃ m, m < 16 ∧ m ≠ n ∧ msdState s m = msFailed
      Completes (.msdFail n why) s (fun t => msdState t n = msFailed ∧ fld t rModStatus fModStatusDegraded = 1 ∧
        (¬ second → Recorded s t 3 4 n 8 ∧ fld t rBruFault fBruFaultStackLost = fld s rBruFault fBruFaultStackLost) ∧
        (second → t.nRecords = s.nRecords + 2 ∧ fld t rBruFault fBruFaultStackLost = 1) ∧
        SameBut (fun k => k = rMsdStatus n ∨ k = rModStatus ∨ Logged k) s t)) ∧
    (∀ b, let u := advanceTo b s
      (s.proxied.contains n = false → msdState u n = msFailed → look s.calls (mbMsd n) = none →
        let q := proxyOf n
        let lo := q * 2 ^ 26 + 0x400000
        Completes (.proxyInstall n b) s (fun t => n ∈ t.proxied ∧ (∀ m, m ≠ n → (m ∈ t.proxied ↔ m ∈ s.proxied)) ∧
          fld t (rMsdStatus q) fMsdStatusProxy = 1 ∧ fld t (rMsdStatus q) fMsdStatusProxyOf = n ∧
          (∀ k, memByte t.buf k = if lo ≤ k ∧ k < lo + 0xC00000 then 0 else memByte u.buf k) ∧
          t.hbm = u.hbm ∧ t.spm = u.spm ∧ t.lmap = u.lmap ∧ RegsBut (fun k => k = rMsdStatus q) u t)) ∧
      (msdState u n = msRebuilding → fld u (rMsdStatus n) fMsdStatusFullRebuild = 0 → (∀ x ∈ rebuildLog u n, x < 0x900000) →
        let logged (k : Nat) : Prop := ∃ x ∈ rebuildLog u n, hkey n (x * 4096) ≤ k ∧ k < hkey n (x * 4096) + 4096
        Completes (.rebuildComplete n b) s (fun t => msdState t n = msServing ∧ fld t (rMsdStatus n) fMsdStatusRebuildLeft = 0 ∧
          (∀ m, m ∈ t.proxied ↔ m ≠ n ∧ m ∈ u.proxied) ∧
          (∀ x ∈ rebuildLog u n, ∀ i, i < 64 → ∀ l, rebuilt u n (x * 4096 + 64 * i) = some l → rawLine t n (x * 4096 + 64 * i) = l) ∧
          (∀ k, ¬ logged k → memByte t.hbm k = memByte u.hbm k) ∧
          HbmBut (fun k => k = rMsdStatus n ∨ k = rMsdStatus (proxyOf n) ∨ k = rModStatus) u t))) ∧
    (∀ o, msdDown s n = false → o < 0x900000000 → let x := o / 64 * 64
      (∀ sev, sev < 2 → lineUp s n x = true →
        ((parityOn s = false ∨ x < parityBase ∨ rebuilt s n x = none) →
          Completes (.patrolScrub n o sev) s (fun t => SameBut Tally s t)) ∧
        (∀ l, parityOn s = true → parityBase ≤ x → rebuilt s n x = some l → l ≠ rawLine s n x →
          Completes (.patrolScrub n o sev) s (fun t => StackStored s t n x l ∧ Recorded s t 2 4 n 0x14 ∧
            HbmBut (fun k => Tally k ∨ Logged k) s t))) ∧
      (∀ l, lineUp s n x = true → x < parityBase → rebuilt { s with hbmBad := hkey n x / 64 :: s.hbmBad } n x = some l →
        Completes (.patrolScrub n o 2) s (fun t => StackStored s t n x l ∧ Recorded s t 1 4 n 0x1B ∧
          fld t (rMsdErr n) fMsdErrRepaired = 1 ∧
          HbmBut (fun k => Tally k ∨ Logged k ∨ k = rMsdErr n ∨ k = rMsdErrCnt n meRepaired) s t))) ∧
    (∀ src req o size data, o + size ≤ 2 ^ 26 → accessForm o size = true → s.proxied.contains n = false → msdState s n ≠ msFailed →
      Completes (.msdBufferAccess src req n o size false data) s (fun t =>
        t.answer = ⟨stOk, (bufRead s n o size).map BitVec.toNat⟩ ∧ SentLast t .meshResp req [stOk, o] (bufRead s n o size) ∧ SameAll s t) ∧
      (∀ c, bufGuard s src n o size = c → c ≠ 0 → Completes (.msdBufferAccess src req n o size true data) s (fun t =>
        t.answer = ⟨c, []⟩ ∧ SentLast t .meshResp req [c, o] [] ∧ SameAll s t)) ∧
      (bufGuard s src n o size = 0 → Completes (.msdBufferAccess src req n o size true data) s (fun t =>
        t.answer = ⟨stOk, []⟩ ∧ SentLast t .meshResp req [stOk, o] [] ∧
        (∀ k, memByte t.buf k = if n * 2 ^ 26 + o ≤ k ∧ k < n * 2 ^ 26 + o + size ∧ consumerByte (k - n * 2 ^ 26) = false
          then (padTo size data).getD (k - n * 2 ^ 26 - o) 0 else memByte s.buf k) ∧
        t.hbm = s.hbm ∧ t.spm = s.spm ∧ t.lmap = s.lmap ∧ RegsBut (fun k => o < 0x400000 ∧ k = rMsdQueue n (o / 0x20000)) s t))) ∧
    (fld s (rMsdSlotCtl n) fMsdSlotCtlApply = 1 → Completes (.slotTableSwitch n) s (fun t =>
      (∀ i, i < 8 → slotWord t n i = rd s (rMsdSlot n i)) ∧ (∀ m i, m < 16 → m ≠ n → i < 8 → slotWord t m i = slotWord s m i) ∧
      fld t (rMsdSlotCtl n) fMsdSlotCtlApply = 0 ∧ SameBut (fun k => k = rMsdSlotCtl n) s t))

/-- 07 R217, R225, R226, R234, Table 07-12: the calls of an MSD's mailbox: OFFLINE runs until the proxy has taken over and is denied while
the parity of another stack is missing, ONLINE starts the rebuilding, QUEUE_CLEAR empties a queue in ERROR and answers its register,
PARITY_MODE of MSD0 keeps the mode for the next start. The model's choices that it rests on: log 32, 39. -/
def Obligations.MemoryDieServicesComplete : Prop :=
  ∀ (s : State) (rid n : Nat), n < 16 → Callable s rid (mbMsd n) →
    (parityOn s = true → (∀ m, m < 16 → msdState s m = msServing) →
      Starts (.offline rid n) s (mbMsd n) ⟨0x0702, rid, [], s.beat, []⟩ (fun _ => False) (fun t => t.cl = s.cl)) ∧
    ((parityOn s = false ∨ ∃ m, m < 16 ∧ m ≠ n ∧ msdState s m ≠ msServing) →
      Calls (.offline rid n) s (mbMsd n) 0x30 [] (fun _ => False) (fun t => t.cl = s.cl)) ∧
    (msdState s n = msOffline → Starts (.online rid n) s (mbMsd n) ⟨0x0703, rid, [], s.beat, []⟩ (fun k => k = rMsdStatus n)
      (fun t => msdState t n = msRebuilding ∧ t.cl = s.cl)) ∧
    (msdState s n ≠ msOffline → Calls (.online rid n) s (mbMsd n) stBadArg [] (fun _ => False) (fun t => t.cl = s.cl)) ∧
    (∀ q, q < 32 →
      (fld s (rMsdQueue n q) fMsdQueueState = qsError →
        Calls (.queueClear rid n q) s (mbMsd n) stOk [rdN s (rMsdQueue n q)] (fun k => k = rMsdQueue n q) (fun t =>
          fld t (rMsdQueue n q) fMsdQueueState = qsIdle ∧ fld t (rMsdQueue n q) fMsdQueueCause = 0 ∧
          fld t (rMsdQueue n q) fMsdQueuePending = 0 ∧ fld t (rMsdQueue n q) fMsdQueueConsumer = producerIdx s n q ∧ t.cl = s.cl)) ∧
      (fld s (rMsdQueue n q) fMsdQueueState ≠ qsError →
        Calls (.queueClear rid n q) s (mbMsd n) 0x31 [] (fun _ => False) (fun t => t.cl = s.cl))) ∧
    (∀ on, (n = 0 → rdN s (mbxExpertEn (mbMsd 0)) % 2 = 1 → on ≤ 1 →
        Calls (.parityMode rid n on) s (mbMsd n) stOk [] (fun _ => False) (fun t => t.parityFlash = (on == 1) ∧ t.cl = s.cl)) ∧
      (n = 0 → rdN s (mbxExpertEn (mbMsd 0)) % 2 = 0 → Calls (.parityMode rid n on) s (mbMsd n) stExpertOff [] (fun _ => False)
        (fun t => t.parityFlash = s.parityFlash ∧ t.cl = s.cl)) ∧
      (n ≠ 0 → Calls (.parityMode rid n on) s (mbMsd n) stBadService [] (fun _ => False)
        (fun t => t.parityFlash = s.parityFlash ∧ t.cl = s.cl)))

/-- 07 R233, R234, R237, R238: a doorbell moves a queue's producer index and wakes or breaks the queue, the next command starts and is
checked and a command that fails a check is reported in MSD.ERR and stops its queue, a NOP and a FENCE have no work, and a command whose
results are accepted adds done_add to its target and moves the consumer index on. The model's choices that it rests on: log 48, 50, 53. -/
def Obligations.EngineQueuesAdvance : Prop :=
  ∀ (s : State) (n q : Nat), n < 16 → q < 32 →
    let r := rMsdQueue n q
    let o := q * 0x20000 + 0x1FFC0
    let cons := fld s r fMsdQueueConsumer
    (∀ src idx, s.proxied.contains n = false → msdState s n ≠ msFailed →
      (∀ c, bufGuard s src n o 4 = c → c ≠ 0 → Completes (.engineDoorbell src n q idx) s (fun t => t.answer = ⟨c, []⟩ ∧ SameAll s t)) ∧
      (bufGuard s src n o 4 = 0 → let left := subMod 32 (idx % 2 ^ 32) cons
        Completes (.engineDoorbell src n q idx) s (fun t => t.answer = ⟨stOk, []⟩ ∧ producerIdx t n q = idx % 2 ^ 32 ∧
          (fld s r fMsdQueueState ≠ qsError → left ≤ 2047 → fld t r fMsdQueuePending = left ∧
            fld t r fMsdQueueState = (if left = 0 ∧ engOf s n q = none then qsIdle else qsActive)) ∧
          (fld s r fMsdQueueState ≠ qsError → 2047 < left → fld t r fMsdQueueState = qsError ∧
            fld t r fMsdQueueCause = ecQueueOverrun) ∧
          (fld s r fMsdQueueState = qsError → fld t r fMsdQueueState = qsError) ∧
          (∀ k, ¬ (n * 2 ^ 26 + o ≤ k ∧ k < n * 2 ^ 26 + o + 4) → memByte t.buf k = memByte s.buf k) ∧
          t.hbm = s.hbm ∧ t.spm = s.spm ∧ t.lmap = s.lmap ∧ RegsBut (fun k => k = r) s t))) ∧
    (engUp s n = true → fld s r fMsdQueueState = qsActive → fld s r fMsdQueuePending ≠ 0 → engOf s n q = none →
      let c := bufRead s n (q * 0x20000 + 64 * (cons % 2047)) 64
      (seCheck s n c = 0 → Completes (.seCommandStart n q) s (fun t =>
        engOf t n q = some ⟨c, false, true, leafCount s (leafMsd n)⟩ ∧ SameBut Tally s t)) ∧
      (seCheck s n c ≠ 0 → seErrCont c = false → Completes (.seCommandStart n q) s (fun t =>
        engOf t n q = none ∧ fld t r fMsdQueueState = qsError ∧ fld t r fMsdQueueCause = seCheck s n c ∧
        fld t r fMsdQueueConsumer = (cons + 1) % 2 ^ 32 ∧ fld t (rMsdErr n) fMsdErrCause = seCheck s n c ∧
        fld t (rMsdErr n) fMsdErrErr = 1 ∧ Recorded s t 6 4 n 0x18 ∧
        SameBut (fun k => Tally k ∨ Logged k ∨ k = r ∨ k = rMsdErr n ∨ k = rMsdErrCnt n meErr) s t))) ∧
    (∀ e, engOf s n q = some e →
      (e.ran = false → engUp s n = true → ∀ c, (c, seOp e.bytes) ∈ [(Instr.seNop n q, 0), (.seFence n q, 5)] →
        Completes c s (fun t => engOf t n q = some { e with ran := true } ∧ SameAll s t)) ∧
      (e.ran = true → serBusy s (seUnit n q) = false → s.serErrs.contains (seUnit n q) = false →
        let target := seTarget e.bytes
        let add := seDoneAdd e.bytes
        let p := physOf s (target % 1024)
        let sem := target / 1024 % 64
        let K : Nat → Prop := fun k => Tally k ∨ k = r
        let moved (t : State) : Prop := engOf t n q = none ∧
          fld t r fMsdQueueConsumer = (cons + if e.queued = true then 1 else 0) % 2 ^ 32
        ((add = 0 ∨ target % 1024 = 1023) → Completes (.seCommandComplete n q) s (fun t => moved t ∧ t.cl = s.cl ∧
          (add ≠ 0 → SentLast t .signal 0xFFFF [1023, sem, add] []) ∧ SameBut K s t)) ∧
        (add ≠ 0 → target % 1024 < 800 → held s (target % 1024) = true → inService s p = true →
          bitAt (cluster s p).semRemote sem = true →
          Completes (.seCommandComplete n q) s (fun t => moved t ∧ semOf t p sem = (semOf s p sem + add) % 2 ^ 32 ∧
            SameBut (fun k => K k ∨ k = rClSem p sem) s t))))

/-- 07 R239-R246: attention takes each query row over the pages of the sequence that the stack holds and writes its records, a gather copies
the rows its indices name, a top-k writes the best scored vectors of the stack, a digest writes SHAKE256 of its bytes after its prefix;
nothing else of HBM changes, and the command has run. The model's choices that it rests on: log 33, 48, 50, 52. -/
def Obligations.EngineCommandsComplete : Prop :=
  ∀ (s : State) (n q : Nat) (e : EngCmd), n < 16 → q < 32 → engOf s n q = some e → e.ran = false → engUp s n = true → HbmReady s →
    let c := e.bytes
    let a := leAt 0x18 8 c
    let b := leAt 0x20 8 c
    let dst := seDst c
    let writable (o k : Nat) : Prop := HbmRun s o k ∧ hbmGuarded s (srcMsd n) o k = false
    let wrote (t : State) (l : List Byte) : Prop := engOf t n q = some { e with ran := true } ∧ Stored s t dst l ∧ HbmBut Tally s t
    seSrcWin c = false → seDstWin c = false →
    (∀ pages, seOp c = 1 → HbmRun s a (atRows c * atD c * 2) → HbmRun s b (8 * atPages c) →
      attnPages s n c (hbmBytes s b (8 * atPages c)) = .ok pages → (∀ x ∈ pages, HbmRun s x.2 (atPageBytes c)) →
      writable dst (atRows c * (16 + 4 * atD c)) →
      let query (i : Nat) : List Nat := elemsOf 0 (atD c) ((hbmBytes s a (atRows c * atD c * 2)).drop (i * atD c * 2))
      let row (order : List (Nat × Nat)) (i : Nat) : AttnRow := order.foldl (fun z x =>
        attnPage c (query i) (leAt 0x2C 4 c + i % leAt 0x3D 1 c) x.1 (hbmBytes s x.2 (atPageBytes c)) z) (AttnRow.start (atD c))
      Completes (.seAttn n q) s (fun t => ∃ order, order.Perm pages ∧ (reproMode s = true → order = pages) ∧
        wrote t (((List.range (atRows c)).map (fun i => attnRecord c (row order i))).flatten))) ∧
    (seOp c = 2 → s.images = [] → let rb := leAt 0x28 4 c
      let count := leAt 0x2C 4 c
      let ix (j : Nat) : Nat := leAt (4 * j) 4 (hbmBytes s b (4 * count))
      HbmRun s b (4 * count) → (∀ j, j < count → ix j < leAt 0x30 4 c ∧ HbmRun s (a + ix j * rb) rb ∧ writable (dst + j * rb) rb ∧
        (a + ix j * rb + rb ≤ dst ∨ dst + count * rb ≤ a + ix j * rb)) →
      Completes (.seGather n q) s (fun t =>
        wrote t (((List.range count).map (fun j => hbmBytes s (a + ix j * rb) rb)).flatten))) ∧
    (seOp c = 3 → HbmRun s b (tkD c) →
      (∀ v, v < tkCount c → stackOf (a + v * tkStride c) = n → HbmRun s (a + v * tkStride c) (tkBytes c)) →
      writable dst (8 * tkK c) →
      let mine := (List.range (tkCount c)).filter (fun v => stackOf (a + v * tkStride c) == n)
      let best := mine.foldl (fun l v => scoreInsert (tkK c)
        (topkScore c (hbmBytes s b (tkD c)) (hbmBytes s (a + v * tkStride c) (tkBytes c)), v) l) []
      Completes (.seTopk n q) s (fun t =>
        wrote t (((best ++ List.replicate (tkK c - best.length) (ninf32, 0xFFFFFFFF)).map
          (fun (x : Nat × Nat) => natLe 4 x.1 ++ natLe 4 x.2)).flatten))) ∧
    (seOp c = 4 → HbmRun s a b → let out := shake256 (seOutBytes c) (slice 0x30 16 c ++ hbmBytes s a b)
      writable dst out.length → Completes (.seDigest n q) s (fun t => wrote t out))

/-- 08 R266, R268, R270, R272, R274, R275, Table 08-10: the calls of the CAL mailbox: LOAD stages an image, DISCARD empties the slot, SWITCH
and ROLLBACK arm a switch and answer its stop beat and activation start, CANCEL disarms it before the stop beat, CONFIRM ends the watch,
HEALTH_FAIL fails it where the image asks for that, RELEASE_PREVIOUS empties the slot, STORE_BOOT keeps an image in flash. The model's
choices that it rests on: log 69, 78, 111. -/
def Obligations.ImageServicesComplete : Prop :=
  ∀ (s : State) (rid : Nat), Callable s rid mbCal →
    (∀ a n, a % 65536 = 0 → n ≠ 0 → a + n ≤ hbmTop s → slotState s stg = slEmpty →
      Starts (.imageLoad rid a n) s mbCal ⟨0x0801, rid, [a, n], s.beat, []⟩ (fun k => k = rCalSlot stg) (fun t =>
        slotState t stg = slLoading ∧ t.images = tabPut stg ⟨a, n⟩ s.images ∧
        fld t (rCalSlot stg) fCalSlotGen = leNat (hbmPeek s (a + objHeader + 8) 4) % 2 ^ 32)) ∧
    (slotState s stg ≠ slArmed → Calls (.imageDiscard rid) s mbCal stOk [] (fun k => k = rCalSlot stg) (fun t =>
      t.images = tabDel stg s.images ∧ rd t (rCalSlot stg) = 0)) ∧
    (∀ b, let K : Nat → Prop := fun k => k = rCalSlot stg ∨ k = rCalSwitchBeat ∨ k = rCalSwitchStat
      let T := if imageActive s then b - drainBeats s 0 - 1000000 else b - 1000000
      let armed (t : State) : Prop := t.stopBeat = T ∧ t.actBeat = b - 1000000 ∧ t.drained = false ∧ swPhase t = 1 ∧
        rd t rCalSwitchBeat = BitVec.ofNat 64 b
      (swRollback s = false → slotState s stg = slAdmitted → slotState s 0 ≠ slWatch →
        (tooSoon s b = false → Calls (.imageSwitch rid b) s mbCal stOk [T, b - 1000000] K (fun t => armed t ∧
          slotState t stg = slArmed ∧ fld t rCalSwitchStat fCalSwitchStatRollback = 0)) ∧
        (tooSoon s b = true → Calls (.imageSwitch rid b) s mbCal sxTooSoon [] (fun _ => False) (fun t => t.images = s.images))) ∧
      (slotState s 1 = slPrevious → swPhase s = 0 → tooSoon s b = false →
        Calls (.imageRollback rid b) s mbCal stOk [T, b - 1000000] K (fun t => armed t ∧ slotState t stg = slotState s stg ∧
          fld t rCalSwitchStat fCalSwitchStatRollback = 1))) ∧
    (swRollback s = false → slotState s stg = slArmed →
      (s.beat < s.stopBeat → Calls (.calCancel rid) s mbCal stOk [] (fun k => k = rCalSlot stg ∨ k = rCalSwitchStat) (fun t =>
        slotState t stg = slAdmitted ∧ swPhase t = 0)) ∧
      (s.stopBeat ≤ s.beat → Calls (.calCancel rid) s mbCal sxDraining [] (fun _ => False) (fun t => t.images = s.images))) ∧
    (slotState s 0 = slWatch →
      Calls (.confirm rid) s mbCal stOk [] (fun k => k = rCalSlot 0 ∨ k = rCalWatchEnd) (fun t =>
        slotState t 0 = slActive ∧ rd t rCalWatchEnd = 0) ∧
      (bitAt (healthMask s 0) 4 = true → watching s = true →
        Calls (.healthFail rid) s mbCal stOk [] WatchReg (fun t => WatchFailed s t 4)) ∧
      (bitAt (healthMask s 0) 4 = false →
        Calls (.healthFail rid) s mbCal stOk [] (fun _ => False) (fun t => t.records = s.records))) ∧
    (swRollback s = false → Calls (.releasePrevious rid) s mbCal stOk [] (fun k => k = rCalSlot 1) (fun t =>
      t.images = tabDel 1 s.images ∧ rd t (rCalSlot 1) = 0)) ∧
    (∀ slot i, (slot = 0 ∨ slot = 2) → slLoading < slotState s slot → look s.images slot = some i →
      Calls (.storeBoot rid slot) s mbCal stOk [] (fun _ => False) (fun t =>
        t.flash = tabPut otImage (hbmPeek s i.addr i.len) s.flash ∧ t.images = s.images))

/-- 08 R266, R271-R275: an admission ends its call with the image ADMITTED or refused with the code of the check that failed; at its stop
beat a switch drains, at its activation start it loads the image, or is aborted; at the switch beat the slots move and the streams start; a
watch ends well at its end and fails on an unhealthy part. The model's choices that it rests on: log 78, 79, 96. -/
def Obligations.ImageSwitchAdvances : Prop :=
  ∀ (s : State),
    (∀ bad k, look s.calls mbCal = some k → k.code = 0x0801 →
      Completes (.admissionComplete bad) s (fun t =>
        (match (admission bad s).1 with
          | none => CallEnded t mbCal stOk [] ∧ slotState t stg = slAdmitted ∧ t.images = s.images
          | some (c, l) => CallEnded t mbCal c l ∧ rd t (rCalSlot stg) = 0 ∧ t.images = tabDel stg s.images ∧
              fld t rCalLast fCalLastCode = c % 256 ∧ fld t rCalLast fCalLastRefused = 1) ∧
        SameBut (fun k => InPage mbCal k ∨ k = rCalSlot stg ∨ k = rCalLast ∨ k = rCalLastCnt ∨ k = rSecVerifyLast ∨
          k = rSecVerifyLastCnt) s t)) ∧
    (swPhase s = 2 → drainedNow s = true → Completes .switchDrained s (fun t => t.drained = true ∧ t.cl = s.cl ∧ SameAll s t)) ∧
    (∀ b, let u := advanceTo b s
      let S := rdN u rCalSwitchBeat
      let aborted (t : State) (cause : Nat) : Prop := swPhase t = 0 ∧ fld t rCalSwitchStat fCalSwitchStatOutcome = cause ∧
        fld t rCalSwitchStat fCalSwitchStatAborted = 1 ∧ t.images = u.images ∧ t.cl = u.cl
      (swPhase u = 1 → u.stopBeat ≤ u.beat → Completes (.switchStopBeat b) s (fun t => swPhase t = 2 ∧ t.cl = u.cl ∧
        SameBut (fun k => k = rCalSwitchStat) u t)) ∧
      ((swPhase u = 1 ∨ swPhase u = 2) → u.actBeat ≤ u.beat → ∀ bad,
        let vacant : Prop := ∃ l ∈ placed u (swSource u), held u l = false
        let K : Nat → Prop := fun k => k = rCalSwitchStat ∨ k = rCalSwitchStatCnt ∨ k = rCalSlot stg
        let stops (cause : Nat) : Prop := Completes (.switchActivationStart b bad) s (fun t => aborted t cause ∧
          slotState t stg = slAdmitted ∧ SameBut K u t)
        (swRollback u = true → (blobFault u 1 bad).isSome = true → Completes (.switchActivationStart b bad) s (fun t =>
          aborted t 0x26 ∧ fld t rCalSwitchStat fCalSwitchStatRollback = 0 ∧
          SameBut (fun k => K k ∨ Logged k ∨ k = rCalSlot 0 ∨ k = rCalWatchEnd) u t)) ∧
        (swRollback u = false → moveBusy u = true → stops sxSpareMove) ∧
        (swRollback u = false → moveBusy u = false → vacant → stops 0x1F) ∧
        (swRollback u = false → moveBusy u = false → ¬ vacant → imageActive u = true → u.drained = false → drainedNow u = false →
          stops sxSwitchLate) ∧
        (∀ g, swRollback u = false → moveBusy u = false → ¬ vacant → (imageActive u = false ∨ u.drained = true ∨ drainedNow u = true) →
          u.genMap = none → imgLe u stg 0x48 8 = g → HbmReady u → HbmRun u g 51200 →
          Completes (.switchActivationStart b bad) s (fun t => swPhase t = 3 ∧ t.genMap = some g ∧ t.images = u.images ∧
            (∀ l, held u l = true →
              (∀ i, i < 56 → semOf t (physOf u l) i = 0) ∧ (∀ st, st < 28 → streamState t (physOf u l) st = ssIdle) ∧
              fld t (rClArithCtrl (physOf u l)) fClArithCtrlRepro = imgLe u stg 0x58 1 % 2) ∧
            HbmSame u t g 51200 ∧ t.buf = u.buf ∧ t.lmap = u.lmap ∧
            RegsBut (fun k => 0x1000000 ≤ k ∨ k = rCalSwitchStat ∨ ∃ i, i < 6400 ∧ k = rBruGenMirror i) u t))) ∧
      (swPhase u = 3 → S ≤ u.beat → let K : Nat → Prop := fun k => 0x30000000 ≤ k ∨ Logged k ∨ ThrReg k ∨ k = rModStatus ∨
          k = rCalSwitchStat ∨ k = rCalWatchEnd ∨ k = rSecStatus ∨ k = rClkMode ∨ (∃ i, i < 3 ∧ k = rCalSlot i) ∨
          (∃ i, i < 128 ∧ k = rSecMeas i) ∨ ∃ p, p < 864 ∧ k = rClkFset p
        (∀ x, swRollback u = false → look u.images stg = some x → let first := imageActive u = false
          Completes (.switchBeat b) s (fun t => swPhase t = 0 ∧ look t.images 0 = some x ∧ look t.images stg = none ∧
            look t.images 1 = (if imageActive u then look u.images 0 else none) ∧
            fld t (rCalSlot 0) fCalSlotGen = fld u (rCalSlot stg) fCalSlotGen ∧
            (first → slotState t 0 = slActive ∧ rd t rCalWatchEnd = 0) ∧
            (¬ first → slotState t 0 = slWatch ∧ slotState t 1 = slPrevious ∧
              rd t rCalWatchEnd = BitVec.ofNat 64 (S + watchBeats u stg)) ∧
            (∀ l st, held u l = true → st < 28 → (streamOf u (physOf u l) st).first < (streamOf u (physOf u l) st).last →
              streamState t (physOf u l) st = ssRunning) ∧
            t.lateSince = 0 ∧ SameBut K u t)) ∧
        (∀ x, swRollback u = true → look u.images 1 = some x → (∀ l, held u l = true → stillRuns u (physOf u l) = false) →
          Completes (.switchBeat b) s (fun t => swPhase t = 0 ∧ look t.images 0 = some x ∧ look t.images 1 = none ∧
            slotState t 0 = slActive ∧ fld t (rCalSlot 0) fCalSlotGen = fld u (rCalSlot 1) fCalSlotGen ∧
            fld t rCalSwitchStat fCalSwitchStatRejectedGen = fld u (rCalSlot 0) fCalSlotGen ∧ SameBut K u t))) ∧
      (watching u = true →
        (rdN u rCalWatchEnd ≤ u.beat → Completes (.watchEnd b) s (fun t => slotState t 0 = slActive ∧ rd t rCalWatchEnd = 0 ∧
          t.cl = u.cl ∧ SameBut (fun k => k = rCalSlot 0 ∨ k = rCalWatchEnd) u t)) ∧
        (∀ c, c < 4 → bitAt (healthMask u 0) c = true → unhealthy u c = true → u.beat < rdN u rCalWatchEnd →
          Completes (.watchFail c b) s (fun t => WatchFailed u t c ∧ t.cl = u.cl ∧ SameBut WatchReg u t))))

/-- 00 R12, 09 R282, R283, R292-R294, R297: a marker loads a leaf or corrects one that has slipped and reports it, an alignment exchange
sends its four requests and takes the quickest of the four trips, a request is answered with its arrival, silence is reported, an armed
trigger acts at its beat, and its calls arm and cancel it; a read of the largest lateness clears it. The model's choices that it rests on:
log 4, 37, 81. -/
def Obligations.EscapementCommandsComplete : Prop :=
  ∀ (s : State),
    (∀ i behind ahead, i < 919 →
      (leafOf s i |>.loaded) = false → Completes (.escMarker i behind ahead) s (fun t =>
        leafOf t i = { leafOf s i with off := 0, loaded := true } ∧ (∀ j, j ≠ i → leafOf t j = leafOf s j) ∧
        fld t rEscStatus fEscStatusLoaded = (t.leaves.filter (fun e => e.2.loaded)).length % 1024 ∧
        SameBut (fun k => k = rEscStatus) s t)) ∧
    (∀ i, i < 919 → (leafOf s i).loaded = true →
      Completes (.escMarker i 0 0) s (fun t => t.leaves = s.leaves ∧ SameAll s t) ∧
      (∀ behind ahead, ¬ (behind = 0 ∧ ahead = 0) → let u := elapse (ahead - behind) s
        let l := leafOf u i
        let again := l.lastSlip ≠ 0 ∧ u.beat < l.lastSlip + 1000000000
        Completes (.escMarker i behind ahead) s (fun t => (leafOf t i).off = 0 ∧ (leafOf t i).lastSlip = u.beat ∧
          (∀ j, j ≠ i → leafOf t j = leafOf u j) ∧ (again → Recorded u t 3 8 i 0xD) ∧ (¬ again → Recorded u t 1 8 i 0xD) ∧
          fld t rEscFault fEscFaultLeafSlip = 1 ∧ fld t rEscFault fEscFaultLastLeaf = i ∧
          SameBut (fun k => Logged k ∨ k = rEscFault ∨ k = rEscFaultCnt 0) u t))) ∧
    (∀ b, let u := advanceTo b s
      isReference u = false →
      (u.trips.length < 4 → ∀ l, linkOf u (reference u) 0 = some l → l.lg < 18 →
        Completes (.alignExchange b) s (fun t => t.trips = [] ∧ t.sent.length = u.sent.length + 4 ∧
          (∀ m ∈ t.sent.take 4, m.kind = .fabric ∧ m.dst = reference u ∧
            m.data = natLe 8 0 ++ natLe 8 (leafCount u (leafFab 1)) ++ natLe 8 0 ++ natLe 8 0) ∧ SameBut Tally u t)) ∧
      (4 ≤ u.trips.length → Completes (.alignExchange b) s (fun t => ∃ best ∈ u.trips,
        (∀ x ∈ u.trips, tripSpan best ≤ tripSpan x) ∧ t.trips = [] ∧ t.exchanges = (u.beat :: u.exchanges).take 16 ∧
        fld t rEscAlign fEscAlignOffset = ofSigned 32 (tripOffset best) ∧
        fld t rEscAlign fEscAlignTrim = ofSigned 12 (max (-1000) (min 1000 (-tripOffset best))) ∧
        fld t rEscAlign fEscAlignRtt = min 0xFFFF (tripSpan best).toNat ∧ rd t rEscAlignBeat = BitVec.ofNat 64 u.beat ∧
        (fld t rEscStatus fEscStatusAligned = 1 ↔ -8 ≤ tripOffset best ∧ tripOffset best ≤ 8 ∧ steady t = true) ∧
        SameBut (fun k => k = rEscAlign ∨ k = rEscAlignBeat ∨ k = rEscStatus) u t)) ∧
      (u.alignOut = false → rdN u rEscAlignBeat + 100000000 ≤ u.beat → Completes (.alignLost b) s (fun t =>
        t.alignOut = true ∧ fld t rEscStatus fEscStatusAligned = 0 ∧ fld t rEscFault fEscFaultAlignLost = 1 ∧ Recorded u t 1 9 0 0 ∧
        SameBut (fun k => Logged k ∨ k = rEscStatus ∨ k = rEscFault ∨ k = rEscFaultCnt 1) u t))) ∧
    (∀ (h : FabHead) (t1 t2 t3 : Nat), h.dst = ownDev s → h.lg < 18 → let now := leafCount s (leafFab (lgDie h.lg))
      (h.src = reference s → isReference s = false → s.trips.length < 4 → Completes (.fabTime h t1 t2 t3 true) s (fun t =>
        t.trips = s.trips ++ [(t1, t2, t3, now)] ∧ SameBut Tally s t)) ∧
      (∀ l, linkOf s h.src 0 = some l → l.lg < 18 → Completes (.fabTime h t1 t2 t3 false) s (fun t =>
        (∃ m, t.sent.head? = some m ∧ m.kind = .fabric ∧ m.dst = h.src ∧
          m.data = natLe 1 1 ++ natLe 7 0 ++ natLe 8 t1 ++ natLe 8 now ++ natLe 8 now) ∧ t.trips = s.trips ∧ SameBut Tally s t))) ∧
    (∀ i b, let u := advanceTo b s
      let K : Nat → Prop := fun k => k = rEscTrigCtl i
      (i < 8 → fld u (rEscTrigCtl i) fEscTrigCtlArmed = 1 → rdN u (rEscTrig i) ≤ u.beat → Completes (.triggerFire i b) s (fun t =>
        fld t (rEscTrigCtl i) fEscTrigCtlArmed = 0 ∧ fld t (rEscTrigCtl i) fEscTrigCtlFired = 1 ∧
        (fld u (rEscTrigCtl i) fEscTrigCtlAction = 1 → frozen t = true) ∧
        (fld u (rEscTrigCtl i) fEscTrigCtlAction = 2 → t.nSnaps = u.nSnaps + 1) ∧
        (fld u (rEscTrigCtl i) fEscTrigCtlAction = 3 → SentLast t .pin 0 [1] []) ∧
        SameBut (fun k => K k ∨ (fld u (rEscTrigCtl i) fEscTrigCtlAction = 1 ∧ (k = rObsStatus ∨ Tally k))) u t)) ∧
      (∀ a, i = 8 → u.snapAt = some a → a ≤ u.beat → Completes (.triggerFire i b) s (fun t => t.snapAt = none ∧
        t.nSnaps = u.nSnaps + 1 ∧ t.snaps.length = u.snaps.length + 1 ∧ SameAll u t))) ∧
    (∀ rid, Callable s rid mbEsc → ∀ i, i < 8 →
      (∀ beat action, trigRefusal s i beat action = stOk →
        Calls (.trigArm rid i beat action) s mbEsc stOk [] (fun k => k = rEscTrig i ∨ k = rEscTrigCtl i) (fun t =>
          rd t (rEscTrig i) = BitVec.ofNat 64 beat ∧ fld t (rEscTrigCtl i) fEscTrigCtlAction = action ∧
          fld t (rEscTrigCtl i) fEscTrigCtlArmed = 1)) ∧
      (∀ beat action, trigRefusal s i beat action ≠ stOk →
        Calls (.trigArm rid i beat action) s mbEsc (trigRefusal s i beat action) [] (fun _ => False) (fun t => t.cl = s.cl)) ∧
      ((fld s (rEscTrigCtl i) fEscTrigCtlArmed = 0 ∨ s.beat + 10000 < rdN s (rEscTrig i)) →
        Calls (.trigCancel rid i) s mbEsc stOk [] (fun k => k = rEscTrigCtl i) (fun t =>
          fld t (rEscTrigCtl i) fEscTrigCtlArmed = 0)) ∧
      (fld s (rEscTrigCtl i) fEscTrigCtlArmed = 1 → rdN s (rEscTrig i) ≤ s.beat + 10000 →
        Calls (.trigCancel rid i) s mbEsc sxEscPast [] (fun _ => False) (fun t => t.cl = s.cl))) ∧
    (∀ p, p < 864 → Completes (.escLateMaxRead p) s (fun t => t.answer = ⟨stOk, [rdN s (rClEscLateMax p)]⟩ ∧
      rd t (rClEscLateMax p) = 0 ∧ SameBut (fun k => k = rClEscLateMax p) s t))

/-- 16 R467, R472-R479, R482-R486: counters are cleared and run again at their beats, a snapshot's records and header reach its area, a LOST
record follows dropped ones, TRC_DATA reads a word and moves on, a hang is scanned for, and the calls of the OBS mailbox arm these events,
write a trace buffer to HBM, and start a scan. The model's choices that it rests on: log 18, 80. -/
def Obligations.ObservationCommandsComplete : Prop :=
  ∀ (s : State),
    (∀ b, let u := advanceTo b s
      ((∃ c ∈ u.clears, c ≤ u.beat) → Completes (.counterClearBeat b) s (fun t =>
        t.clears = u.clears.filter (fun c => !decide (c ≤ u.beat)) ∧ (∀ k, isCounter k = true → rd t k = 0) ∧
        (∀ k, isCounterCfg k = true → fld t k fClCntCfgOvf = 0 ∧ fld t k fClCntCfgEvent = fld u k fClCntCfgEvent) ∧
        SameBut (fun k => isCounter k = true ∨ isCounterCfg k = true) u t)) ∧
      ((∀ c ∈ u.clears, u.beat < c) → Completes (.counterClearBeat b) s (fun t => t.clears = u.clears ∧ SameAll u t) ∧
        ((∃ c ∈ u.thaws, c ≤ u.beat) → Completes (.counterThaw b) s (fun t => frozen t = false ∧
          t.thaws = u.thaws.filter (fun c => !decide (c ≤ u.beat)) ∧ SameBut (fun k => k = rObsStatus) u t))) ∧
      (∀ l st, l < 800 → held u l = true → st < 28 → let p := physOf u l
        let kind := fld u (rClStream p st) fClStreamWaitKind
        streamState u p st = ssWaiting → (kind = 2 ∨ kind = 4 ∨ kind = 5) → rdN u rObsHangCtl ≠ 0 →
        rdN u rObsHangCtl < u.beat - rdN u (rClStreamSince p st) → fld u rObsStatus fObsStatusScanning = 0 →
        (∀ x, u.lastScan = some x → x + 10000000000 ≤ u.beat) → BufOwn u 14 →
        let r := scanBytes u 0x100000
        Completes (.autoHangScan b) s (fun t => t.lastScan = some u.beat ∧ (r.2.1 ≠ 0 → fld t rObsStatus fObsStatusCycle = 1) ∧
          BufStored (fun k => k = rObsStatus ∨ k = rObsStatusCnt) u t 14 0x3900000 r.1))) ∧
    (∀ id off z l, s.snaps.find? (fun z => z.id == id) = some z → (∀ x ∈ s.snaps, x.id + 2 ≤ id → x.id % 2 ≠ id % 2) →
      look z.banks off = some l → BufOwn s 14 → Completes (.stairSnapshotData id off) s (fun t =>
        BufStored (fun _ => False) s t 14 (snapArea id + off) l ∧
        t.snaps = s.snaps.map (fun x => if x.id = id then { x with banks := tabDel off x.banks } else x))) ∧
    (∀ z, s.snaps.find? (fun z => z.banks.isEmpty) = some z → BufOwn s 14 → Completes .snapshotAreaWritten s (fun t =>
      fld t rObsStatus fObsStatusSnapId = z.id % 2 ^ 32 ∧ t.snaps = s.snaps.erase z ∧
      BufStored (fun k => k = rObsStatus) s t 14 (snapArea z.id) (natLe 4 0x50414E53 ++ natLe 2 1 ++ natLe 2 0 ++ natLe 4 z.id ++
        natLe 4 0 ++ natLe 8 z.beat ++ natLe 4 z.gen ++ List.replicate 36 0))) ∧
    (∀ u, isTraceUnit u = true →
      ((trace s u).queue = [] → traceRoom s u = true → (trace s u).lost ≠ 0 → let ptr := trcCtl u + 8
        let w := fld s ptr fClTrcPtrWr
        Completes (.traceLostRecord u) s (fun t => (trace t u).lost = 0 ∧
          tabGet (fun _ => []) (trace t u).recs w = traceBytes 9 0 noIds s.beat (natLe 4 (trace s u).lost) ∧
          fld t ptr fClTrcPtrWr = (w + 1) % 2048 ∧ SameBut (fun k => k = ptr) s t)) ∧
      (let k := trcCtl u + 0x10
        let w := fld s k fClTrcAddrWord
        Completes (.trcDataRead u) s (fun t =>
          t.answer = ⟨stOk, [leAt (8 * w) 8 (tabGet (fun _ => []) (trace s u).recs (fld s k fClTrcAddrRecord))]⟩ ∧
          fld t k fClTrcAddrWord = (w + 1) % 4 ∧ fld t k fClTrcAddrRecord = fld s k fClTrcAddrRecord ∧ t.traces = s.traces ∧
          SameBut (fun x => x = k) s t))) ∧
    (∀ rid, Callable s rid mbObs →
      (∀ b, s.beat + 10000 ≤ b →
        Calls (.obsThaw rid b) s mbObs stOk [] (fun _ => False) (fun t => t.thaws = s.thaws ++ [b] ∧ t.clears = s.clears) ∧
        Calls (.obsClear rid b) s mbObs stOk [] (fun _ => False) (fun t => t.clears = s.clears ++ [b] ∧ t.thaws = s.thaws)) ∧
      (∀ b, b < s.beat + 10000 →
        Calls (.obsThaw rid b) s mbObs sxTrigPast [] (fun _ => False) (fun t => t.thaws = s.thaws) ∧
        Calls (.obsClear rid b) s mbObs sxTrigPast [] (fun _ => False) (fun t => t.clears = s.clears)) ∧
      Starts (.snapNow rid) s mbObs ⟨0x1203, rid, [], s.beat, []⟩ (fun _ => False) (fun t => t.snapAt = some (s.beat + 10000)) ∧
      (∀ kind unit a u, dumpUnit kind unit = some u → a + 65536 ≤ hbmTop s → HbmReady s → let ptr := trcCtl u + 8
        let n := if fld s ptr fClTrcPtrWraps = 0 then fld s ptr fClTrcPtrWr else 2048
        HbmRun s a (32 * n) → CallsHbm (.traceDump rid kind unit a) s mbObs stOk [n, rdN s ptr] a
          ((List.range n).flatMap (fun i => padTo 32 (tabGet (fun _ => []) (trace s u).recs i))) (fun _ => False)
          (fun t => t.traces = s.traces)) ∧
      (∀ a n, fld s rObsStatus fObsStatusScanning = 0 → 65536 ≤ n → a + n ≤ hbmTop s →
        Starts (.hangScan rid a n) s mbObs ⟨0x1205, rid, [a, n], s.beat, []⟩ (fun k => k = rObsStatus) (fun t =>
          fld t rObsStatus fObsStatusScanning = 1)))

/-- 12 R345, R349-R351, Table 12-5: a companion's coherent request of a line that nobody else has to give up is answered at once with the
HBM value and the filter shows the new holder; one that somebody has to give up is snooped first; an eviction drops the agent from the
filter, a dirty one storing its data. The model's choices that it rests on: log 59, 103. -/
def Obligations.CoherentRequestsComplete : Prop :=
  ∀ (s : State) (port tag line : Nat), port < 2 → portLive s port = true → coherent s line = true → line * 64 < hbmTop s →
    s.home = [] → HbmReady s →
    let x := agentOf s port
    let v := hbmBytes s (line * 64) 64
    let K : Nat → Prop := fun k => Tally k ∨ PortReg k
    let granted (c : Instr) (op state : Nat) (data : List Byte) (e : FilterEntry) : Prop := Completes c s (fun t =>
      Responded t port op tag state line data ∧ held? t line = some e ∧ t.home = [] ∧ SameBut K s t)
    let waits (c : Instr) (op : Nat) (share : Bool) (ys : List Nat) (listed : Bool) : Prop := Completes c s (fun t =>
      t.home = [⟨port, tag, op, line, 0, [], true, share, ys, [], listed, none⟩] ∧ t.filter = s.filter ∧
      (∀ y ∈ ys, portLive s (portFor s y line) = true →
        ⟨.serica, portFor s y line, [2, if share then 0x31 else 0x30, tag, 0, 0, line], []⟩ ∈ t.sent) ∧ SameAll s t)
    (held? s line = none → victimOf s line = none →
      granted (.rdShared port tag line) 0x21 2 v ⟨line, true, [x]⟩ ∧ granted (.rdOwn port tag line) 0x21 2 v ⟨line, true, [x]⟩ ∧
      granted (.upgrade port tag line) 0x21 2 v ⟨line, true, [x]⟩) ∧
    (∀ e, held? s line = some e →
      (e.excl = false → granted (.rdShared port tag line) 0x21 1 v
        ⟨line, false, if x ∈ e.holders then e.holders else e.holders ++ [x]⟩) ∧
      (∀ y, e.excl = true → e.holders = [y] → y ≠ x → waits (.rdShared port tag line) soRdShared true [y] false) ∧
      ((∀ y ∈ e.holders, y = x) → granted (.rdOwn port tag line) 0x21 2 v ⟨line, true, [x]⟩) ∧
      ((∃ y ∈ e.holders, y ≠ x) →
        waits (.rdOwn port tag line) soRdOwn false (e.holders.filter (· != x)) (e.holders.contains x) ∧
        waits (.upgrade port tag line) soUpgrade false (e.holders.filter (· != x)) (e.holders.contains x)) ∧
      (e.holders = [x] → granted (.upgrade port tag line) 0x20 2 [] ⟨line, true, [x]⟩) ∧
      (∀ data, e.excl = true → e.holders = [x] → Completes (.evictDirty port tag line data) s (fun t =>
        Responded t port 0x20 tag 0 line [] ∧ held? t line = none ∧ Stored s t (line * 64) (padTo 64 data) ∧ HbmBut K s t)) ∧
      (x ∈ e.holders → Completes (.evictClean port tag line) s (fun t => Responded t port 0x20 tag 0 line [] ∧
        held? t line = (if ∀ y ∈ e.holders, y = x then none else some ⟨line, false, e.holders.filter (· != x)⟩) ∧ SameBut K s t)))

/-- 12 R344-R346, R349, R351: an uncached read of HBM answers its bytes, an uncached write stores the bytes of its mask, and an access of a
unit of the part to a line of the coherent region that nobody holds is carried out and answered. The model's choices that it rests on: log
28, 103. -/
def Obligations.UncachedAccessesComplete : Prop :=
  ∀ (s : State), HbmReady s →
    (∀ port tag src, port < 2 → portLive s port = true → tagBusy s port tag = false →
      (∀ a lg, a + 2 ^ lg ≤ hbmTop s → accessForm a (2 ^ lg) = true → coherent s (a / 64) = false →
        let v := hbmBytes s a (2 ^ lg)
        Completes (.rdNc port tag src a lg) s (fun t => t.answer = ⟨stOk, v.map BitVec.toNat⟩ ∧
          Responded t port 0x21 tag 0 (a / 64) (List.replicate (a % 64) 0 ++ v ++ List.replicate (64 - a % 64 - 2 ^ lg) 0) ∧
          SameBut Tally s t)) ∧
      (∀ line data, line * 64 < hbmTop s → coherent s line = false → let who := srcSerica (serRid s port src)
        (hbmGuarded s who (line * 64) 64 = false → Completes (.wrLine port tag src line data) s (fun t => t.answer = ⟨stOk, []⟩ ∧
          Responded t port 0x20 tag 0 line [] ∧ Stored s t (line * 64) (padTo 64 data) ∧ HbmBut Tally s t)) ∧
        (hbmGuarded s who (line * 64) 64 = true → Completes (.wrLine port tag src line data) s (fun t =>
          t.answer = ⟨erAccess, []⟩ ∧ SameAll s t)) ∧
        (∀ mask, mask < 2 ^ 64 → (∀ e ∈ maskRuns mask, hbmGuarded s who (line * 64 + e.1) e.2 = false) →
          Completes (.wrPart port tag src line mask data) s (fun t => t.answer = ⟨stOk, []⟩ ∧ Responded t port 0x20 tag 0 line [] ∧
            Stored s t (line * 64) (merge mask data (hbmBytes s (line * 64) 64)) ∧ HbmBut Tally s t)))) ∧
    (∀ src tag a size, coherent s (a / 64) = true → hbmCheck s a size = 0 → held? s (a / 64) = none → s.home = [] →
      Completes (.homeAgentAccess src tag a size false []) s (fun t =>
        SentLast t .meshResp tag [stOk, a] (hbmBytes s a size) ∧ t.home = [] ∧ t.filter = s.filter ∧ SameBut Tally s t) ∧
      (∀ data, hbmGuarded s src a size = false → Completes (.homeAgentAccess src tag a size true data) s (fun t =>
        SentLast t .meshResp tag [stOk, a] [] ∧ t.home = [] ∧ t.filter = s.filter ∧ Stored s t a (padTo size data) ∧
        HbmBut Tally s t)) ∧
      (∀ data, hbmGuarded s src a size = true → Completes (.homeAgentAccess src tag a size true data) s (fun t =>
        t.answer = ⟨ccAccess, []⟩ ∧ SentLast t .meshResp tag [ccAccess, a] [] ∧ SameAll s t)))

/-- 12 R351, R352: the last awaited snoop answer lets the request it holds up finish: dirty data reach HBM first, an agent that gave up a
line it held in E has its eviction awaited, and one that never comes sets LOST_LINE and leaves the HBM value. The model's choices that it
rests on: log 59. -/
def Obligations.SnoopAnswersComplete : Prop :=
  ∀ (s : State) (h : HomeTx) (x : Nat), s.home = [h] → h.started = true → h.victim = none → h.port < 2 → portLive s h.port = true →
    h.line * 64 < hbmTop s → HbmReady s → ∀ e, held? s h.line = some e →
    (s.filter.filter (fun f => f.line % 65536 == h.line % 65536)).length ≤ 16 →
    let y := agentOf s h.port
    let v := hbmBytes s (h.line * 64) 64
    let K : Nat → Prop := fun k => Tally k ∨ PortReg k
    (∀ port, port < 2 → portLive s port = true → agentOf s port = x → h.pend = [x] → h.evict = [] →
      (h.op = soRdOwn → (e.excl = false ∨ x ∉ e.holders) → Completes (.snpAck port h.tag h.line 0) s (fun t =>
        Responded t h.port 0x21 h.tag 2 h.line v ∧ held? t h.line = some ⟨h.line, true, [y]⟩ ∧ t.home = [] ∧ SameBut K s t)) ∧
      (h.op = soRdShared → e.excl = true → e.holders = [x] → y ≠ x →
        Completes (.snpAck port h.tag h.line 1) s (fun t =>
          Responded t h.port 0x21 h.tag 1 h.line v ∧ held? t h.line = some ⟨h.line, false, [x, y]⟩ ∧ t.home = [] ∧ SameBut K s t) ∧
        (∀ data, Completes (.snpData port h.tag h.line 1 data) s (fun t =>
          Responded t h.port 0x21 h.tag 1 h.line (padTo 64 data) ∧ held? t h.line = some ⟨h.line, false, [x, y]⟩ ∧ t.home = [] ∧
          Stored s t (h.line * 64) (padTo 64 data) ∧ HbmBut K s t))) ∧
      (e.excl = true → x ∈ e.holders → Completes (.snpAck port h.tag h.line 0) s (fun t =>
        t.home = [{ h with pend := [], evict := [x] }] ∧ t.filter = s.filter ∧ SameAll s t))) ∧
    (h.op = soRdOwn → h.pend = [] → h.evict = [x] → x < 2 → Completes (.snoopEvictTimeout h.line) s (fun t =>
      fld t (rSerPortErr x) fSerPortErrLostLine = 1 ∧ Responded t h.port 0x21 h.tag 2 h.line v ∧
      held? t h.line = some ⟨h.line, true, [y]⟩ ∧ t.home = [] ∧
      SameBut (fun k => K k ∨ k = rSerPortErr x ∨ k = rSerPortErrCnt (6 * x + seLost)) s t))

/-- 12 R344, R346, R353, R355, R364: a response ends the request of its tag: its data enter the companion-line cache in the state granted,
or wait for their unit; an error or a silence is noted for the unit. A snoop takes the line, or all but a shared copy, out of the cache and
answers with dirty data. FILTER_STATUS answers its counts and starts the count of evictions again. The model's choices that it rests on: log
29, 60, 70. -/
def Obligations.OwnRequestsComplete : Prop :=
  ∀ (s : State) (port : Nat), port < 2 →
    (∀ tag r, s.serReqs.find? (fun r => r.port == port && r.tag == tag) = some r → (∀ w ∈ s.serWait, w.port ≠ port) →
      (portLive s port = true →
        Completes (.cmp port tag) s (fun t => t.serReqs = s.serReqs.erase r ∧ t.cache = s.cache ∧ t.serErrs = s.serErrs ∧
          SameBut PortReg s t) ∧
        (∀ state data, let c : CacheLine := ⟨r.line, port, state, padTo 64 data⟩
          let rest := s.cache.filter (fun x => x.line != r.line)
          (r.op ≠ soRdNc → state ≠ 0 → (rest.filter (fun x => x.line % 32768 == r.line % 32768)).length < 16 →
            Completes (.cmpData port tag state data) s (fun t => t.serReqs = s.serReqs.erase r ∧ t.cache = c :: rest ∧
              t.uncached = s.uncached ∧ SameBut PortReg s t)) ∧
          ((r.op = soRdNc ∨ state = 0) → Completes (.cmpData port tag state data) s (fun t => t.serReqs = s.serReqs.erase r ∧
            t.cache = s.cache ∧ t.uncached = c :: s.uncached ∧ SameBut PortReg s t))) ∧
        (∀ status, Completes (.errResponse port tag status) s (fun t => t.answer = ⟨status, []⟩ ∧
          t.serReqs = s.serReqs.erase r ∧ t.serErrs = r.unit :: s.serErrs ∧ SameBut PortReg s t))) ∧
      Completes (.serRequestTimeout port tag) s (fun t => t.answer = ⟨erTimeout, []⟩ ∧ t.serReqs = s.serReqs.erase r ∧
        t.serErrs = r.unit :: s.serErrs ∧ fld t (rSerPortErr port) fSerPortErrTimeout = 1 ∧
        SameBut (fun k => PortReg k ∨ k = rSerPortErr port ∨ k = rSerPortErrCnt (6 * port + seTimeout)) s t)) ∧
    (∀ tag line, portLive s port = true →
      (cached s line = none →
        Completes (.snpInv port tag line) s (fun t => Responded t port 0x23 tag 0 line [] ∧ t.cache = s.cache ∧ SameAll s t) ∧
        Completes (.snpShare port tag line) s (fun t => Responded t port 0x23 tag 0 line [] ∧ t.cache = s.cache ∧ SameAll s t)) ∧
      (∀ c, cached s line = some c →
        Completes (.snpInv port tag line) s (fun t => t.cache = s.cache.filter (fun x => x.line != line) ∧
          (if c.state = 3 then Responded t port 0x24 tag 0 line c.data else Responded t port 0x23 tag 0 line []) ∧
          SameBut PortReg s t) ∧
        Completes (.snpShare port tag line) s (fun t => cached t line = some { c with state := 1 } ∧
          (if c.state = 3 then Responded t port 0x24 tag 1 line c.data else Responded t port 0x23 tag 1 line []) ∧ SameAll s t))) ∧
    (∀ rid, Callable s rid mbSer → Calls (.filterStatus rid) s mbSer stOk [s.filter.length, s.filterEvicts] (fun _ => False)
      (fun t => t.filterEvicts = 0 ∧ t.filter = s.filter))

/-- 12 R337, R338, R341, R342, R356-R359, R364: a port trains and sends its INIT, comes UP with its companion's INIT or refuses it, and
forms a bond with a port of the same node; a port that goes down is reported and takes its companion's copies with it, or in a bond hands
its requests to the other port; DETACH holds a quiet port in reset, ATTACH trains it again or ends with a timeout. The model's choices that
it rests on: log 82, 83, 84. -/
def Obligations.LinkCommandsComplete : Prop :=
  ∀ (s : State) (p : Nat), p < 2 →
    let q := other p
    let K : Nat → Prop := fun k => k = rSerPort p
    (∀ width rate reversed, trains s p = true → width < 4 →
      (width = 0 → Completes (.serPortTrain p width rate reversed) s (fun t => portState t p = psDown ∧
        fld t (rSerPort p) fSerPortWidth = 0 ∧ SameBut K s t)) ∧
      (width ≠ 0 → Completes (.serPortTrain p width rate reversed) s (fun t => portState t p = psInit ∧
        fld t (rSerPort p) fSerPortWidth = width ∧ p ∈ t.initSent ∧
        SentLast t .serica p [0xF, 1, 0, partSerial, 1024, 256, 4096] [] ∧ SameBut K s t))) ∧
    (∀ version flags node req snp data, portState s p = psInit → p ∈ s.initSent →
      ((version ≠ 1 ∨ req < 128 ∨ snp < 128 ∨ data < 512) →
        Completes (.serInitFlit p version flags node req snp data) s (fun t => fld t (rSerPortErr p) fSerPortErrInitRefused = 1 ∧
          portState t p = psInit ∧ SameBut (fun k => k = rSerPortErr p ∨ k = rSerPortErrCnt (6 * p + seInit)) s t)) ∧
      (version = 1 → 128 ≤ req → 128 ≤ snp → 512 ≤ data → bonded s p = false →
        (look s.serNode q ≠ some node → Completes (.serInitFlit p version flags node req snp data) s (fun t =>
          portState t p = psUp ∧ fld t (rSerPort p) fSerPortNoCache = flags % 2 ∧ look t.serNode p = some node ∧
          t.filter = s.filter ∧ SameBut K s t)) ∧
        (look s.serNode q = some node → Completes (.serInitFlit p version flags node req snp data) s (fun t =>
          portState t p = psUp ∧ bonded t 0 = true ∧ bonded t 1 = true ∧ look t.serNode p = some node ∧
          (∀ f ∈ t.filter, 1 ∉ f.holders) ∧ SameBut PortReg s t)))) ∧
    (linkRuns s p = true → s.home = [] →
      let L : Nat → Prop := fun k => PortReg k ∨ Logged k ∨ k = rSerPortErr p ∨ k = rSerPortErrCnt (6 * p + seLinkDown) ∨
        k = rSerPortErrCnt (6 * p + seLost)
      let down (t : State) : Prop := portState t p = psDown ∧ fld t (rSerPortErr p) fSerPortErrLinkDown = 1 ∧
        (∀ r ∈ t.serReqs ++ t.serWait, r.port ≠ p)
      let gone (t : State) : Prop := down t ∧ (∀ f ∈ t.filter, p ∉ f.holders) ∧ (∀ c ∈ t.cache, c.port ≠ p) ∧ Recorded s t 5 6 p 0xB
      (bonded s p = false →
        Completes (.serPortDown p) s (fun t => gone t ∧ SameBut L s t) ∧
        Completes (.serProtocolError p) s (fun t => gone t ∧ fld t (rSerPortErr p) fSerPortErrProtoErr = 1 ∧
          SameBut (fun k => L k ∨ k = rSerPortErrCnt (6 * p + seProto)) s t)) ∧
      (bonded s p = true → portLive s q = true → Completes (.serPortDown p) s (fun t => down t ∧ t.filter = s.filter ∧
        t.cache = s.cache ∧ Recorded s t 2 6 p 0xB ∧ SameBut L s t))) ∧
    (portState s p ≠ psDown → portState s p ≠ psDetached → Completes (.serFlitReplay p) s (fun t =>
      fld t (rSerPortErr p) fSerPortErrReplay = 1 ∧
      SameBut (fun k => k = rSerPortErr p ∨ k = rSerPortErrCnt (6 * p + seReplay)) s t)) ∧
    (∀ rid, Callable s rid mbSer →
      ((portState s p = psDown ∨ portState s p = psDetached) →
        Calls (.detach rid p) s mbSer stOk [] (fun _ => False) (fun t => t.filter = s.filter)) ∧
      (portState s p = psUp → ringsLive s p = true →
        Calls (.detach rid p) s mbSer serRingBusy [] (fun _ => False) (fun t => t.filter = s.filter)) ∧
      (portState s p = psUp → ringsLive s p = false → bonded s p = false → (∀ c ∈ s.cache, c.port ≠ p) →
        (∀ f ∈ s.filter, p ∉ f.holders) →
        (portQuiet s p = true → Calls (.detach rid p) s mbSer stOk [] K (fun t => portState t p = psDetached)) ∧
        (portQuiet s p = false → Starts (.detach rid p) s mbSer ⟨0x0C02, rid, [p], s.beat, []⟩ K (fun t =>
          portState t p = psDetaching))) ∧
      (portState s p = psUp → Calls (.attach rid p) s mbSer stOk [] (fun _ => False) (fun t => t.filter = s.filter)) ∧
      (portState s p = psDetached → Starts (.attach rid p) s mbSer ⟨0x0C03, rid, [p], s.beat, []⟩ K (fun t =>
        portState t p = psTraining))) ∧
    (∀ b c, let u := advanceTo b s
      look u.calls mbSer = some c → c.code = 0x0C03 → c.args = [p] → c.beat + 100000000 ≤ u.beat → portState u p ≠ psUp →
      Completes (.attachTimeout b) s (fun t => CallEnded t mbSer erTimeout [] ∧ SameBut (InPage mbSer) u t))

/-- 12 R360-R363, Table 12-9: a candidate stands and withdraws, the owner renews its lease, resigns, and offers ownership, the offered
candidate accepts; an election goes to the highest standing priority and then the lowest candidate, a lease that ends opens one and removes
the grants, an offer lapses. The model's choices that it rests on: log 58, 69. -/
def Obligations.OwnershipCommandsComplete : Prop :=
  ∀ (s : State) (b : Nat),
    let u := advanceTo b s
    let lease (t : State) (x : Nat) : Prop := rd t rSerLeaseEnd = BitVec.ofNat 64 x
    let field (t : State) (f : Field) : Nat := fld t rSerOwner f
    let vacated (t : State) (at_ : Nat) : Prop := ownerState t = osElecting ∧ lease t (at_ + 10000000) ∧
      rd t (rSerCand (field u fSerOwnerCand)) = 0 ∧ ∀ g, g < 16 → rd t (rSerGrant g) = 0
    let V : Nat → Prop := fun k => k = rSerOwner ∨ k = rSerLeaseEnd ∨ k = rSerCand (field u fSerOwnerCand) ∨ ∃ g, g < 16 ∧ k = rSerGrant g
    (∀ rid c, candOf rid = some c →
      (∀ prio, 0 < prio → prio < 16 → Completes (.ownStand rid prio b) s (fun t => t.answer = ⟨stOk, []⟩ ∧
        rd t (rSerCand c) = BitVec.ofNat 64 (rid * 2 ^ 48 + prio) ∧
        (ownerState u = osNone → ownerState t = osElecting ∧ lease t (u.beat + 10000000)) ∧
        SameBut (fun k => k = rSerCand c ∨ (ownerState u = osNone ∧ (k = rSerOwner ∨ k = rSerLeaseEnd))) u t)) ∧
      Completes (.ownWithdraw rid b) s (fun t => t.answer = ⟨stOk, []⟩ ∧ rd t (rSerCand c) = 0 ∧
        (ownerState u = osOffered → field u fSerOwnerOfferTo = c → ownerState t = osOwned) ∧
        SameBut (fun k => k = rSerCand c ∨ (ownerState u = osOffered ∧ field u fSerOwnerOfferTo = c ∧ k = rSerOwner)) u t) ∧
      (isOwner u rid = true →
        Completes (.ownRenew rid b) s (fun t => t.answer = ⟨stOk, []⟩ ∧ lease t (u.beat + 100000000) ∧
          SameBut (fun k => k = rSerLeaseEnd) u t) ∧
        Completes (.ownResign rid b) s (fun t => t.answer = ⟨stOk, []⟩ ∧ vacated t u.beat ∧ SameBut V u t) ∧
        (∀ d, d < 4 →
          (standing u d ≠ 0 → Completes (.ownOffer rid d b) s (fun t => t.answer = ⟨stOk, []⟩ ∧ ownerState t = osOffered ∧
            field t fSerOwnerOfferTo = d ∧ t.offerEnd = u.beat + 100000000 ∧ SameBut (fun k => k = rSerOwner) u t)) ∧
          (standing u d = 0 → Completes (.ownOffer rid d b) s (fun t => t.answer = ⟨0x66, []⟩ ∧ SameAll u t)))) ∧
      (isOwner u rid = false → ∀ i ∈ [Instr.ownRenew rid b, .ownResign rid b, .ownOffer rid 0 b],
        Completes i s (fun t => t.answer = ⟨stNotOwner, []⟩ ∧ SameAll u t)) ∧
      (
        let mine : Prop := ownerState u = osOffered ∧ leaseLive u = true ∧ u.beat < u.offerEnd ∧ field u fSerOwnerOfferTo = c
        (mine → Completes (.ownAccept rid b) s (fun t => t.answer = ⟨stOk, []⟩ ∧ ownerState t = osOwned ∧
          field t fSerOwnerRid = rid ∧ field t fSerOwnerCand = c ∧ lease t (u.beat + 100000000) ∧
          SameBut (fun k => k = rSerOwner ∨ k = rSerLeaseEnd) u t)) ∧
        (¬ mine → Completes (.ownAccept rid b) s (fun t => t.answer = ⟨0x67, []⟩ ∧ SameAll u t)))) ∧
    (ownerState u = osElecting → rdN u rSerLeaseEnd ≤ u.beat →
      ((∀ c, c < 4 → standing u c = 0) → Completes (.electionClose b) s (fun t => ownerState t = osNone ∧ lease t 0 ∧
        SameBut (fun k => k = rSerOwner ∨ k = rSerLeaseEnd) u t)) ∧
      (∀ c, c < 4 → standing u c ≠ 0 → (∀ d, d < 4 → standing u d ≤ standing u c ∧ (d < c → standing u d < standing u c)) →
        Completes (.electionClose b) s (fun t => ownerState t = osOwned ∧ field t fSerOwnerRid = standingRid u c ∧
          field t fSerOwnerCand = c ∧ lease t (rdN u rSerLeaseEnd + 100000000) ∧
          SameBut (fun k => k = rSerOwner ∨ k = rSerLeaseEnd) u t))) ∧
    (2 ≤ ownerState u → rdN u rSerLeaseEnd ≤ u.beat → Completes (.leaseEnd b) s (fun t =>
      vacated t (rdN u rSerLeaseEnd) ∧ SameBut V u t)) ∧
    (ownerState u = osOffered → u.offerEnd ≤ u.beat → Completes (.offerExpire b) s (fun t => ownerState t = osOwned ∧
      field t fSerOwnerOfferTo = 0 ∧ SameBut (fun k => k = rSerOwner) u t))

/-- 10 R301-R307, R312, R317, R318: a visit to a request ring takes its next descriptor with the blocks it names and moves the consumer
index on, in SVC.RING and in the ring's control line, or drops what an overfull ring holds and reports it; the oldest SUBMIT taken becomes a
request or an intake error, the oldest CANCEL marks its request or is an intake error; a request that has waited wait_limit beats ends; the
passages found for a request join its prompt, each with its separator, as many as fit. The model's choices that it rests on: log 71, 74, 75.
-/
def Obligations.IntakeAdvances : Prop :=
  ∀ (s : State),
    let errReg : Nat → Prop := fun k => k = rSvcIntakeErr ∨ k = rSvcIntakeErrId ∨ k = rSvcIntakeErrCnt
    let errs (t : State) (ring id : Nat) : Prop := fld t rSvcIntakeErr fSvcIntakeErrErr = 1 ∧
      fld t rSvcIntakeErr fSvcIntakeErrRing = ring % 64 ∧ rd t rSvcIntakeErrId = BitVec.ofNat 64 id
    let reason (t : State) (c : Nat) : Prop := fld t rSvcIntakeErr fSvcIntakeErrReason = c
    (∀ r q, r < 64 → look s.reqRings r = some q → admitting s = true →
      s.intake.length + (s.reqs.filter (fun x => waiting x || placed? x)).length < 65536 →
      (fld s (rFabStatus 0) fFabStatusExpelled = 1 → q.rid < 3 * 2 ^ 13) →
      HbmReady s → HbmRun s q.base 4 → HbmRun s (q.base + 4) 4 →
      let prod := leNat (hbmBytes s q.base 4)
      let n := subMod 32 prod q.mine
      let slot := q.base + 64 + 64 * (q.mine % 2 ^ q.log2)
      let d := hbmBytes s slot 64
      let next := (q.mine + 1) % 2 ^ 32
      let block (i : Nat) : List Byte := hbmBytes s ((blocksToRead s d).getD i (0, 0)).1 ((blocksToRead s d).getD i (0, 0)).2
      (n = 0 → Completes (.intakeDescriptor r) s (fun t => t.intake = s.intake ∧ t.reqRings = s.reqRings ∧ SameBut Tally s t)) ∧
      (2 ^ q.log2 < n → Completes (.intakeDescriptor r) s (fun t => t.intake = s.intake ∧
        look t.reqRings r = some { q with mine := prod, other := prod } ∧ errs t r 0 ∧ reason t 0x10 ∧
        Stored s t (q.base + 4) (natLe 4 prod) ∧ HbmBut (fun k => Tally k ∨ errReg k) s t)) ∧
      (n ≠ 0 → n ≤ 2 ^ q.log2 → HbmRun s slot 64 →
        (bit (bitAt (rqFlags d) 7) ≠ q.mine / 2 ^ q.log2 % 2 →
          Completes (.intakeDescriptor r) s (fun t => t.intake = s.intake ∧ t.reqRings = s.reqRings ∧ SameBut Tally s t)) ∧
        (bit (bitAt (rqFlags d) 7) = q.mine / 2 ^ q.log2 % 2 → (∀ e ∈ blocksToRead s d, e.2 = 0 ∨ HbmRun s e.1 e.2) →
          Completes (.intakeDescriptor r) s (fun t =>
            t.intake = s.intake ++ [⟨r, d, block 0, block 1, block 2, s.beat⟩] ∧
            look t.reqRings r = some { q with mine := next, other := prod } ∧
            Stored s t (q.base + 4) (natLe 4 (q.mine + 1)) ∧ HbmBut Tally s t)))) ∧
    (∀ t, nextTaken s false = some t →
      let u : State := { s with intake := s.intake.erase t }
      (∀ r, submitReq u t = some r → r.ring = t.ring ∧ r.id = rqId t.desc ∧ r.beat = t.beat ∧ r.phase = phWaiting ∧
        (descOk s t.desc = false → r.ended = 0x10) ∧
        Completes .reqSubmit s (fun x => x.reqs = s.reqs ++ [r] ∧ x.intake = s.intake.erase t ∧ SameAll s x)) ∧
      (submitReq u t = none → Completes .reqSubmit s (fun x => x.reqs = s.reqs ∧ x.intake = s.intake.erase t ∧
        errs x t.ring (rqId t.desc) ∧ SameBut errReg s x))) ∧
    (∀ t, nextTaken s true = some t →
      (descOk s t.desc = false → Completes .reqCancel s (fun x => x.reqs = s.reqs ∧ x.intake = s.intake.erase t ∧
        errs x t.ring (rqId t.desc) ∧ reason x 0x10 ∧ SameBut errReg s x)) ∧
      (descOk s t.desc = true → reqOf s t.ring (rqId t.desc) = none → Completes .reqCancel s (fun x => x.reqs = s.reqs ∧
        x.intake = s.intake.erase t ∧ errs x t.ring (rqId t.desc) ∧ reason x 0x17 ∧ SameBut errReg s x)) ∧
      (descOk s t.desc = true → reqOf s t.ring (rqId t.desc) ≠ none → Completes .reqCancel s (fun x =>
        x.reqs = s.reqs.map (fun y => if y.ring = t.ring ∧ y.id = rqId t.desc ∧ y.isOver = false then { y with cancel := true } else y) ∧
        x.intake = s.intake.erase t ∧ SameAll s x))) ∧
    (∀ b, let u := advanceTo b s
      Completes (.waitLimitTimeout b) s (fun t => SameAll u t ∧ t.reqs = u.reqs.map (fun r =>
        if waiting r = true ∧ clsWait u r.cls ≠ 0 ∧ r.beat + clsWait u r.cls ≤ u.beat then endReq 6 u.beat r else r))) ∧
    (∀ ring id lists r, reqOf s ring id = some r → r.retr = true → HbmReady s →
      let found := (mergeLists lists).take (leAt 1 1 r.query)
      let entry (e : Nat × Nat) : List Byte := hbmPeek s (cpl s (0x148 + 32 * leAt 0 1 r.query) 8 + 16 * e.2) 16
      let text (e : Nat × Nat) : List Byte := hbmBytes s (leAt 0 8 (entry e)) (leAt 8 4 (entry e))
      let toks (e : Nat × Nat) : List Nat :=
        (if bitAt (leAt 12 4 (entry e)) 0 then (List.range ((text e).length / 4)).map (fun i => leAt (4 * i) 4 (text e))
          else (encode s (tokNow s) (text e)).getD []) ++ [cpl s 0x4C 4]
      (∀ e ∈ found, HbmRun s (leAt 0 8 (entry e)) (leAt 8 4 (entry e))) →
      Completes (.retrievalMerge ring id lists) s (fun t => SameBut Tally s t ∧ ∃ n, n ≤ found.length ∧
        ((found.take n).flatMap toks).length ≤ cpl s 0x46 2 ∧
        (n < found.length → cpl s 0x46 2 < ((found.take (n + 1)).flatMap toks).length) ∧
        let prompt := bosOf s r.flags ++ (found.take n).flatMap toks ++ r.prompt
        t.reqs = s.reqs.map (fun x => if x.ring = ring ∧ x.id = id ∧ x.isOver = false then
          (if cpl s 4 4 < prompt.length + x.maxNew then endReq 0x13 s.beat { x with retr := false, prompt := prompt, passages := n }
            else { x with retr := false, prompt := prompt, passages := n }) else x)))

/-- 10 R299, R311, R312, R319-R325, 12 R354: a step starts at a boundary, with the requests cancelled ended and every sequence that decodes
due a token; the sampler's tokens are committed to a sequence that is due; a request's next record goes to its answer ring's next slot, or
waits its turn, and its acceptance moves the ring's producer index on; a stalled request ends; a core that fails is taken out. The model's
choices that it rests on: log 71, 72, 74, 77. -/
def Obligations.ServiceStepsAdvance : Prop :=
  ∀ (s : State) (ring id b : Nat),
    let u := advanceTo b s
    let edit (v : State) (f : Req → Req) : List Req :=
      v.reqs.map (fun x => if x.ring = ring ∧ x.id = id ∧ x.isOver = false then f x else x)
    let wrote (v t : State) (r : Req) (q : Ring) : Prop :=
      let l := listSet (nextRecord v r).1 0xB (BitVec.ofNat 8 (128 * (q.mine / 2 ^ q.log2 % 2)))
      look t.ansPend r.ans = some l ∧ SameBut PortReg v t ∧ ∃ x ∈ t.serReqs ++ t.serWait, x.op = soWrLine ∧
        x.line = (q.base - companionBase) / 64 + 1 + q.mine % 2 ^ q.log2 ∧ x.unit = answerUnit r.ans ∧ x.data = l
    let room (v : State) (r : Req) (q : Ring) : Prop := fromManager v r.ring = false ∧ look v.ansRings r.ans = some q ∧
      ansRoom v r.ans = true ∧ companionBase ≤ q.base ∧ q.base % 64 = 0
    (mayStep u = false → Completes (.stepBoundary b) s (fun t => t.reqs = u.reqs ∧ t.steps = u.steps ∧ SameAll u t)) ∧
    (mayStep u = true → (∀ r ∈ u.reqs, r.phase = phDecode ∧ r.ended = 0 ∧ r.isOver = false ∧ paused u r = false ∧
        (r.prompt.length + r.gen.length + pDraft r.params + 1 + 63) / 64 ≤ r.sets.length) →
      (∀ e ∈ u.ansRings, ansFull u e.1 = false) →
      Completes (.stepBoundary b) s (fun t => t.steps = u.steps + 1 ∧ SameBut (fun k => k = rSvcCounts) u t ∧
        t.reqs = u.reqs.map (fun r => if r.cancel = true then
          { endReq 4 u.beat r with phase := phReleased, sets := [], swap := none, full := none } else { r with due := true, full := none }))) ∧
    (∀ logits drafts r, reqOf u ring id = some r → r.due = true → u.replay = none →
      Completes (.sampleToken ring id logits drafts b) s (fun t => SameAll u t ∧
        let v := verifyDrafts (sampOf u r) (drafts.take (pDraft r.params)) logits u
        t.reqs = edit u (fun x => let y := v.1.foldl (commitToken u) { x with due := false }
          if v.2.1 then endReq 9 u.beat y else y))) ∧
    (∀ r q, reqOf s ring id = some r → (textDue s r = true ∨ (r.pend = [] ∧ r.ended ≠ 0)) → r.phase ≠ phPreempted → room s r q →
      Completes (.answerRecordWrite ring id) s (fun t => wrote s t r q ∧ t.reqs = (edit s (fun _ => (nextRecord s r).2)).filter
        (fun x => !(x.isOver && (x.phase == phWaiting || x.phase == phReleased))))) ∧
    (∀ r q, reqOf u ring id = some r → r.pend ≠ [] → r.phase ≠ phPreempted → (∃ f, r.first = some f ∧ f + cpl u 0x48 4 ≤ u.beat) →
      room u r q → Completes (.answerFlushTimeout ring id b) s (fun t => wrote u t r q ∧ t.reqs = edit u (fun _ => (nextRecord u r).2))) ∧
    (∀ ans l q c, ans < 256 → look s.ansPend ans = some l → look s.ansRings ans = some q → serBusy s (answerUnit ans) = false →
      s.serErrs.contains (answerUnit ans) = false → s.serErrs.contains (indexUnit ans) = false → anyPortUp s = true →
      rangeAt s q.base 4 = .companion → q.base % 64 = 0 → cached s ((q.base - companionBase) / 64) = some c → 2 ≤ c.state →
      Completes (.answerIndexWrite ans) s (fun t => t.ansPend = tabDel ans s.ansPend ∧
        look t.ansRings ans = some { q with mine := (q.mine + 1) % 2 ^ 32 } ∧
        { c with state := 3, data := patch c.data 0 (natLe 4 (q.mine + 1)) } ∈ t.cache ∧ SameBut PortReg s t)) ∧
    (∀ r, reqOf u ring id = some r → cpl u 0x50 8 ≠ 0 → paused u r = true → (∃ f, r.full = some f ∧ f + cpl u 0x50 8 ≤ u.beat) →
      Completes (.answerStallTimeout ring id b) s (fun t => t.reqs = edit u (endReq 7 u.beat) ∧ SameAll u t)) ∧
    (∀ k, k < 16 → bitAt (fld s rSvcStatus fSvcStatusCoresUp) k = true →
      Completes (.coreFail k) s (fun t => fld t rSvcStatus fSvcStatusCoresUp = fld s rSvcStatus fSvcStatusCoresUp - 2 ^ k ∧
        Recorded s t 3 7 k 0xC ∧ t.reqs = s.reqs ∧ SameBut (fun k => Logged k ∨ PortReg k ∨ k = rSvcStatus) s t))

/-- 13 R376, R377, R384, R385, R398: a packet that carries the next number is taken and does what its type says: a WRITE stores in a ring or
through a window, a SIGNAL adds to a semaphore, MEMBERS, GROUPS and HEARTBEAT are kept; a packet ahead or behind changes nothing; ACK and
NAK free what they acknowledge, NAK and the retry timeout send the rest again; the ticks send what is due; a reserved packet sets PROTO. The
model's choices that it rests on: log 34, 35, 56. -/
def Obligations.FabricPacketsComplete : Prop :=
  ∀ (s : State),
    (∀ h, FabNext s h →
      (∀ cl (data : List Byte), let src := srcFabric h.src (decide (cl < 800)) cl
        (routable s h.addr data.length = true → HbmReady s → HbmRun s h.addr data.length → hbmGuarded s src h.addr data.length = false →
          Completes (.fabWrite h cl data) s (fun t => FabTaken s t h 0 ∧ Stored s t h.addr data ∧ HbmBut Tally s t)) ∧
        (routable s h.addr data.length = false →
          let v := windowDo src (waCluster h.addr) (waWin h.addr) (waGen h.addr) (waOff h.addr) data.length true data s
          Completes (.fabWrite h cl data) s (fun t => FabTaken s t h v.1 ∧ SameBut Tally v.2.2 t))) ∧
      (let l := bitsAt 0 10 h.addr
       let sem := bitsAt 10 6 h.addr
       let p := physOf s l
       let ok := held s l = true ∧ inService s p = true ∧ bitAt (cluster s p).semRemote sem = true
       (ok → Completes (.fabSignal h) s (fun t => FabTaken s t h 0 ∧ Others p s t ∧
         semOf t p sem = (semOf s p sem + bitsAt 32 32 h.addr) % 2 ^ 32 ∧ SameBut (fun k => Tally k ∨ k = rClSem p sem) s t)) ∧
       (¬ ok → Completes (.fabSignal h) s (fun t => (∃ st, st ≠ 0 ∧ FabTaken s t h st) ∧ t.cl = s.cl ∧ SameBut Tally s t))) ∧
      (∀ m, Completes (.ctrlMembers h m) s (fun t => FabTaken s t h 0 ∧ SameBut Tally s t ∧
        t.membersSeen = if h.src = 16 * ownGroup s then some m else s.membersSeen)) ∧
      (∀ m, Completes (.ctrlGroups h m) s (fun t => FabTaken s t h 0 ∧ SameBut Tally s t ∧
        t.groupsSeen = if h.src = 0 then some m else s.groupsSeen)) ∧
      (∀ gen aligned, let n := h.src % 16
        (h.src / 16 ≠ ownGroup s → Completes (.ctrlHeartbeat h gen aligned) s (fun t => FabTaken s t h 0 ∧ t.heard = s.heard ∧ SameBut Tally s t)) ∧
        (h.src / 16 = ownGroup s → Completes (.ctrlHeartbeat h gen aligned) s (fun t => FabTaken s t h 0 ∧
          look t.heard n = some s.beat ∧ t.lost.contains h.src = false ∧ bitAt (fld t (rFabStatus 0) fFabStatusLive) n = true ∧
          (ownRole s ≠ 0 → fld t (rFabMember 1 n) fFabMemberLive = 1 ∧ fld t (rFabMember 1 n) fFabMemberGen = gen % 2 ^ 32 ∧
            fld t (rFabMember 1 n) fFabMemberUnaligned = 1 - aligned % 2) ∧
          SameBut (fun k => Tally k ∨ k = rFabStatus 0 ∨ k = rFabStatus 1 ∨ k = rFabMember 1 n) s t)))) ∧
    (∀ h c, h.dst = ownDev s → h.seq ≠ expected s h.src h.vc → h.lg < 18 → LinksKnown s →
      ((∃ cl data, c = .fabWrite h cl data) ∨ c = .fabSignal h ∨ (∃ m, c = .ctrlMembers h m) ∨ (∃ m, c = .ctrlGroups h m) ∨
        ∃ g a, c = .ctrlHeartbeat h g a) →
      Completes c s (fun t => t.rxSeq = s.rxSeq ∧ t.ackDue = s.ackDue ∧ t.cl = s.cl ∧ t.membersSeen = s.membersSeen ∧
        t.groupsSeen = s.groupsSeen ∧ t.heard = s.heard ∧ SameBut Tally s t)) ∧
    (∀ h, h.dst = ownDev s →
      let hit (last : Nat) (p : FabPkt) : Bool := p.head.dst == h.src && p.head.vc == h.packet && subMod 32 last p.head.seq < 2 ^ 31
      let quiet (last : Nat) : Prop := ∀ p ∈ s.unacked, hit last p = true → ∀ q o, p.issuer ≠ .signal q o
      Completes (.fabAck h) s (fun t => t.unacked = s.unacked.filter (fun p => !hit h.ack p) ∧ (quiet h.ack → SameAll s t)) ∧
      (let last := subMod 32 h.ack 1
       let rest := s.unacked.filter (fun p => !hit last p)
       LinksKnown s → quiet last → Completes (.fabNak h) s (fun t => t.unacked = rest ∧
         SentAgain s t (rest.filter (fun p => p.head.dst == h.src && p.head.vc == h.packet)) ∧ SameBut Tally s t))) ∧
    (LinksKnown s →
      Completes .fabAckTick s (fun t => t.ackDue = [] ∧ SameBut Tally s t ∧ ∀ e ∈ s.ackDue, linkOf s e.1 0 ≠ none →
        ∃ m ∈ t.sent, m.kind = .fabric ∧ m.dst = e.1 ∧ m.args.getD 0 0 = ptAck ∧ m.args.getD 4 0 = 0 ∧
          m.args.getD 7 0 = subMod 32 (expected s e.1 e.2) 1 ∧ m.args.getD 10 0 = e.2) ∧
      (∀ dev ch, dev < 256 → ch < 3 → Completes (.e2eRetryTimeout dev ch) s (fun t => t.unacked = s.unacked ∧
        SentAgain s t (unackedTo s dev ch) ∧ SameBut Tally s t)) ∧
      (let data := natLe 4 (activeGen s) ++ natLe 1 (fld s rEscStatus fEscStatusAligned)
       Completes .heartbeatTick s (fun t => SameBut Tally s t ∧
         (ownRole s = 0 → CtrlQueued s t (16 * ownGroup s) 1 data) ∧
         (ownRole s ≠ 0 → ∀ n, n < 16 → bitAt (presentMask s) n = true → n ≠ ownSlot s → CtrlQueued s t (slotDev s n) 1 data)))) ∧
    (∀ h, h.lg < 18 → Completes (.fabReservedPacket h) s (fun t => FabFlag t (lgDie h.lg) 5 h.lg h.src ∧
      SameBut (FabErrReg (lgDie h.lg)) s t))

/-- 13 R371, R376-R379, R395, R396: HELLO brings a link to AGREE or to MISWIRED; HELLOs go out on every trained link; links that never
trained become ABSENT; MEMBERS and GROUPS go out at their deadline; a lane that fails halves its link or fails it, a flit that fails 16
times fails it; a failed link's traffic takes a relay. The model's choices that it rests on: log 61, 65. -/
def Obligations.FabricLinksComplete : Prop :=
  ∀ (s : State), LinksKnown s →
    let failed (t : State) (lg : Nat) : Prop := ∀ l ∈ t.links, l.lg = lg → l.state = lsFailed
    (∀ lg lane dev plg plane role n g l, lg < 18 → s.links.find? (fun l => l.lg == lg && l.lane == lane) = some l → l.state ≠ lsFailed →
      let agree := dev = l.dev ∧ (l.peerLg = 18 ∨ (plg = l.peerLg ∧ plane = l.peerLane)) ∧ role = l.role ∧ n = groupSize s ∧ g = groupCount s
      let K : Nat → Prop := fun k => Tally k ∨ k = rFabStatus 0 ∨ k = rFabStatus 1 ∨ k = lgReg lg
      let c : Instr := .fabHello lg lane dev plg plane role n g
      (agree → (l.state = lsUp ∨ l.state = lsHalf) → Completes c s (fun t => t.links = s.links ∧ SameBut K s t)) ∧
      (agree → l.state ≠ lsUp → l.state ≠ lsHalf → Completes c s (fun t => t.links = s.links.map (fun x => if x = l then
          { l with state := if l.bad = [] then lsUp else lsHalf, up := true, peerLg := plg, peerLane := plane } else x) ∧ SameBut K s t)) ∧
      (¬ agree → Completes c s (fun t => t.links = s.links.map (fun x => if x = l then { l with state := lsMiswired, up := true } else x) ∧
        (l.state ≠ lsMiswired → FabFlag t (lgDie lg) 2 lg dev) ∧ SameBut (fun k => K k ∨ FabErrReg (lgDie lg) k) s t))) ∧
    Completes .helloSendTick s (fun t => t.links = s.links ∧ SameBut Tally s t ∧ ∀ l ∈ s.links, l.up = true →
      ∃ m ∈ t.sent, m.kind = .fabric ∧ m.dst = l.dev ∧ m.args.getD 0 0 = ptHello ∧
        m.args.drop 15 = [ownRole s, groupSize s, groupCount s, l.lg, l.lane, l.role, l.dev]) ∧
    (stageNow s = 8 →
      (let links := s.links.map (fun l => if l.state = lsTraining ∧ l.up = false then { l with state := lsAbsent } else l)
       let alone := ownRole s = 1 ∧ 1 < groupCount s ∧ ∀ l ∈ links, ¬ (l.role = 3 ∧ l.dev = 0 ∧ l.state ≠ lsAbsent)
       Completes .linkAbsentTimeout s (fun t => t.links = links ∧
         (alone → fld t (rFabStatus 0) fFabStatusSplit = 1 ∧ fld t rEscStatus fEscStatusRole = 0) ∧
         (¬ alone → rd t (rFabStatus 0) = rd s (rFabStatus 0) ∧ rd t rEscStatus = rd s rEscStatus) ∧
         SameBut (fun k => k = rFabStatus 0 ∨ k = rFabStatus 1 ∨ k = rEscStatus ∨ ∃ j, j < 18 ∧ k = lgReg j) s t)) ∧
      Completes .membersDeadline s (fun t => SameBut Tally s t ∧
        t.membersSeen = (if 1 ≤ ownRole s ∧ s.membersSeen = none then some (presentMask s) else s.membersSeen) ∧
        t.groupsSeen = (if ownRole s = 2 ∧ s.groupsSeen = none then some (groupsMask s) else s.groupsSeen) ∧
        (1 ≤ ownRole s → s.membersSeen = none → ∀ n, n < 16 → bitAt (presentMask s) n = true → n ≠ ownSlot s →
          CtrlQueued s t (slotDev s n) 4 (natLe 2 (presentMask s))))) ∧
    (∀ lg lane l, lg < 18 → lane < 8 → s.links.find? (fun l => l.lg == lg && l.lane ≤ lane && lane < l.lane + l.width) = some l →
      l.state ≠ lsFailed → l.bad.contains lane = false →
      let K : Nat → Prop := fun k => Logged k ∨ FabErrReg (lgDie lg) k ∨ k = lgReg lg
      (l.bad = [] → l.width = 8 → Completes (.laneFail lg lane) s (fun t => l ∉ t.links ∧
        { l with bad := [lane], state := if l.state = lsUp then lsHalf else l.state } ∈ t.links ∧
        FabFlag t (lgDie lg) 0 lg l.dev ∧ Recorded s t 3 5 lg 9 ∧ t.colls = s.colls ∧ SameBut K s t)) ∧
      (¬ (l.bad = [] ∧ l.width = 8) → Completes (.laneFail lg lane) s (fun t => l ∉ t.links ∧
        { l with bad := lane :: l.bad, state := lsFailed } ∈ t.links ∧ FabFlag t (lgDie lg) 0 lg l.dev ∧ FabFlag t (lgDie lg) 1 lg l.dev ∧
        t.nRecords = s.nRecords + 2 ∧ (∀ e ∈ t.colls, e.2.late = true) ∧
        SameBut (fun k => K k ∨ k = rFabStatus 0 ∨ k = rFabStatus 1) s t))) ∧
    (∀ lg n again, lg < 18 → let run := if again then tabGet (fun _ => 0) s.flitRun lg + 1 else 1
      (run < 16 → Completes (.fabFlitRetry lg n again) s (fun t => tabGet (fun _ => 0) t.flitRun lg = run ∧ t.links = s.links ∧
        fld t (lgReg lg) fFabLgRetries = min 0xFFFF (fld s (lgReg lg) fFabLgRetries + 1) ∧ SameBut (fun k => Tally k ∨ k = lgReg lg) s t)) ∧
      (16 ≤ run → Completes (.fabFlitRetry lg n again) s (fun t => tabGet (fun _ => 0) t.flitRun lg = 0 ∧ failed t lg ∧
        SameBut (fun k => Tally k ∨ k = lgReg lg ∨ Logged k ∨ FabErrReg (lgDie lg) k ∨ k = rFabStatus 0 ∨ k = rFabStatus 1) s t))) ∧
    (∀ dev up, dev < 256 → linksTo s dev = [] →
      (∀ r, relayFor s dev up = some r → Completes (.relayInstall dev up) s (fun t => tabGet (fun k => k) t.relays dev = r ∧
        t.unacked = s.unacked ∧ t.lost = s.lost ∧ SameBut Tally s t)) ∧
      (relayFor s dev up = none → (∀ p ∈ s.unacked, p.head.dst = dev → ∀ q o, p.issuer ≠ .signal q o) →
        Completes (.relayInstall dev up) s (fun t => dev ∈ t.lost ∧ t.unacked = s.unacked.filter (fun p => p.head.dst != dev) ∧
          t.relays = s.relays ∧ SameAll s t)))

/-- 13 R389-R394: FIDE reads the doorbell line; the next collective of a queue is checked, and starts: its contribution goes to the owner of
each packet, to every member, or to the hub of a BARRIER, and what is this device's own is written to dst; one that fails a check fails with
its cause. The model's choices that it rests on: log 36, 48, 108. -/
def Obligations.CollectivesStart : Prop :=
  ∀ (s : State) (base : Nat), s.collBase = some base → LinksKnown s →
    Completes .collDoorbellPoll s (fun t => t.colls = s.colls ∧ SameBut (fun k => ∃ q, q < 16 ∧ k = rFabCollQ 1 q) s t ∧
      ∀ q, q < 16 → let k := rFabCollQ 1 q
        let left := subMod 32 (collProducer s base q) (fld s k fFabCollQConsumer)
        fld t k fFabCollQConsumer = fld s k fFabCollQConsumer ∧ fld t k fFabCollQPending = min left 1023 ∧
        fld t k fFabCollQState = (if fld s k fFabCollQState = cqError ∨ 1023 < left then cqError
          else if left = 0 ∧ look s.colls q = none then cqIdle else cqActive) ∧
        (fld s k fFabCollQState ≠ cqError → 1023 < left → fld t k fFabCollQCause = 8)) ∧
    (∀ q, q < 16 → let k := rFabCollQ 1 q
      let d := hbmPeek s (base + 0x10000 * (q + 1) + 64 * (fld s k fFabCollQConsumer % 1024)) 64
      let cmd : Instr := [Instr.collAllReduce q, .collReduceScatter q, .collAllGather q, .collBroadcast q, .collBarrier q].getD (cdOp d)
        (.collAllReduce q)
      fld s k fFabCollQState = cqActive → fld s k fFabCollQPending ≠ 0 → look s.colls q = none →
      (collCause s d ≠ 0 → Completes cmd s (fun t => CollFailed s t q d (collCause s d) (ownDev s) ∧ t.unacked = s.unacked ∧
        SameBut (CollReg q) s t)) ∧
      (let n := collSrcBytes s d
       let l := hbmBytes s (cdSrc d) n
       let own := ownDev s
       let ms := collMembers s d
       let hub := nthOf ms 0
       let packet (p : Nat) : List Byte := slice (4096 * p) (cdPacketLen d p) l
       let begun (t : State) : Prop := (∃ c, look t.colls q = some c ∧ c.bytes = d) ∧ HbmSame s t (cdDst d) (collDstBytes s d) ∧
         HbmBut Tally s t
       collCause s d = 0 → HbmReady s → (n = 0 ∨ HbmRun s (cdSrc d) n) →
       (collDstBytes s d = 0 ∨ HbmRun s (cdDst d) (collDstBytes s d)) → (∀ x ∈ s.collParts, x.coll ≠ cdId d) →
       ((cdOp d = 0 ∨ cdOp d = 1) → Completes cmd s (fun t => begun t ∧ ∀ p, p < cdPackets d →
         let m := nthOf (groupMembers d (ownGroup s)) p
         m ≠ own → CollSent t d m 0 p (packet p))) ∧
       (cdOp d = 2 → Completes cmd s (fun t => begun t ∧ (∀ p, p < cdPackets d → ∀ m ∈ ms, m ≠ own → CollSent t d m 3 p (packet p)) ∧
         ∀ x, x < n → hbmByte t (cdDst d + ms.idxOf own * n + x) = l.getD x 0)) ∧
       (cdOp d = 3 → cdRoot d = own → Completes cmd s (fun t => begun t ∧
         (∀ p, p < cdPackets d → ∀ m ∈ ms, m ≠ own → CollSent t d m 3 p (packet p)) ∧
         ∀ x, x < n → hbmByte t (cdDst d + x) = l.getD x 0)) ∧
       (cdOp d = 3 → cdRoot d ≠ own → Completes cmd s (fun t => begun t ∧ t.unacked = s.unacked)) ∧
       (cdOp d = 4 → hub = own → Completes cmd s (fun t => begun t ∧ (cdId d, own) ∈ t.barriers)) ∧
       (cdOp d = 4 → hub ≠ own → Completes cmd s (fun t => begun t ∧ t.barriers = s.barriers ∧
         ∃ x ∈ t.unacked, x.head.type = ptBarrier ∧ x.head.dst = hub ∧ x.head.coll = cdId d))))

/-- 13 R385, R391-R394, R397, R404: an arriving packet is held for its collective, reduced by its owner in member order once all are here,
or written to dst; the hub of a BARRIER releases its members once all have come; COLL_FAIL fails a collective; a finished one signals its
target and the queue goes on; COLL_CLEAR empties a queue in ERROR. The model's choices that it rests on: log 36, 108. -/
def Obligations.CollectivesAdvance : Prop :=
  ∀ (s : State),
    (∀ h, FabNext s h →
      (∀ data, ((s.collParts.filter (fun x => x.dev == h.src)).foldl (fun n x => n + x.data.length) 0) + data.length ≤ 262144 →
        let part : CollPart := ⟨h.coll, h.addr, h.packet, h.src, h.check, data⟩
        (collById s h.coll = none → Completes (.fabCollPacket h data) s (fun t => FabTaken s t h 0 ∧ t.collParts = s.collParts ++ [part] ∧
          SameBut Tally s t)) ∧
        (∀ q c, collById s h.coll = some (q, c) → look s.colls q = some c → cdMembers c.bytes ≠ 0 →
          (cdScope c.bytes = 0 ∨ cdGroups c.bytes ≠ 0) → let d := c.bytes
          (h.addr = 0 → h.check ≠ collCheck d → Completes (.fabCollPacket h data) s (fun t => FabTaken s t h 0 ∧
            CollFailed s t q d 5 h.src ∧ SameBut (CollReg q) s t)) ∧
          (let a := cdDst d + (collPlace s d part).2
           h.addr = 3 → cdOp d ≤ 3 → (∀ x ∈ s.collParts, x.coll ≠ h.coll) → HbmReady s → HbmRun s a data.length →
           hbmGuarded s (srcColl s) a data.length = false →
           Completes (.fabCollPacket h data) s (fun t => FabTaken s t h 0 ∧ Stored s t a data ∧ HbmBut Tally s t ∧
             look t.colls q = some { c with done := (collPlace s d part).1 :: c.done })) ∧
          (∀ f : Nat → List Byte, let p := h.packet
            let ms := groupMembers d (ownGroup s)
            let r := collFinal d (collFold d (ms.map (fun m => collElems d (f m))))
            h.addr = 0 → h.check = collCheck d → cdOp d ≤ 1 → cdScope d = 0 → c.reduced = [] → p < cdPackets d → nthOf ms p = ownDev s →
            h.src ∈ ms → f h.src = data → (∀ x ∈ s.collParts, x.coll = h.coll → x.stage = 0 ∧ x.packet = p ∧ x.dev ≠ h.src) →
            (∀ m ∈ ms, m ≠ h.src → (s.collParts.find? (fun x => x.coll == h.coll && x.stage == 0 && x.packet == p && x.dev == m)).map
              (·.data) = some (f m)) →
            HbmReady s → HbmRun s (cdDst d + 4096 * p) r.length → hbmGuarded s (srcColl s) (cdDst d + 4096 * p) r.length = false →
            Completes (.fabCollPacket h data) s (fun t => FabTaken s t h 0 ∧ Stored s t (cdDst d + 4096 * p) r ∧ HbmBut Tally s t ∧
              look t.colls q = some { c with reduced := [p], done := p :: c.done } ∧
              (cdOp d = 0 → ∀ m ∈ ms, m ≠ ownDev s → CollSent t d m 3 p r))))) ∧
      (collById s h.coll = none → Completes (.fabBarrier h) s (fun t => FabTaken s t h 0 ∧ (h.coll, h.src) ∈ t.barriers ∧ SameBut Tally s t) ∧
        Completes (.fabRelease h) s (fun t => FabTaken s t h 0 ∧ t.colls = s.colls ∧ SameBut Tally s t)) ∧
      (∀ q c, collById s h.coll = some (q, c) → look s.colls q = some c → cdOp c.bytes = 4 → c.released = false →
        let all := ∀ m ∈ collMembers s c.bytes, m = h.src ∨ (h.coll, m) ∈ s.barriers
        Completes (.fabRelease h) s (fun t => FabTaken s t h 0 ∧ look t.colls q = some { c with released := true } ∧ SameBut Tally s t) ∧
        (nthOf (collMembers s c.bytes) 0 = ownDev s → all → Completes (.fabBarrier h) s (fun t => FabTaken s t h 0 ∧
          look t.colls q = some { c with released := true } ∧ SameBut Tally s t ∧ ∀ m ∈ collMembers s c.bytes, m ≠ ownDev s →
            ∃ x ∈ t.unacked, x.head.type = ptRelease ∧ x.head.dst = m ∧ x.head.coll = cdId c.bytes)) ∧
        (¬ all → Completes (.fabBarrier h) s (fun t => FabTaken s t h 0 ∧ (h.coll, h.src) ∈ t.barriers ∧ t.colls = s.colls ∧
          SameBut Tally s t))) ∧
      (∀ id cause, (collById s id = none → Completes (.ctrlCollFail h id cause) s (fun t => FabTaken s t h 0 ∧ t.colls = s.colls ∧
          SameBut Tally s t)) ∧
        (∀ q c, collById s id = some (q, c) → look s.colls q = some c → Completes (.ctrlCollFail h id cause) s (fun t =>
          FabTaken s t h 0 ∧ CollFailed s t q c.bytes cause h.src ∧ SameBut (CollReg q) s t)))) ∧
    (∀ q c, q < 16 → look s.colls q = some c → cdMembers c.bytes ≠ 0 → (cdScope c.bytes = 0 ∨ cdGroups c.bytes ≠ 0) →
      (∀ x ∈ s.collParts, x.coll ≠ cdId c.bytes) → (cdOp c.bytes = 4 → c.released = true) →
      let d := c.bytes
      let l := cdTarget d % 1024
      let p := physOf s l
      let sem := cdTarget d / 1024 % 64
      let k := rFabCollQ 1 q
      let K : Nat → Prop := fun i => Tally i ∨ i = k ∨ (c.late = true ∧ (FabErrReg 1 i ∨ i = rFabCollLast 1))
      let ended (t : State) : Prop := look t.colls q = none ∧
        fld t k fFabCollQConsumer = (fld s k fFabCollQConsumer + 1) % 2 ^ 32 ∧ fld t k fFabCollQPending = fld s k fFabCollQPending - 1 ∧
        fld t k fFabCollQState = (if fld s k fFabCollQPending - 1 = 0 then cqIdle else cqActive) ∧
        (c.late = true → bitAt (rdN t (rFabErr 1)) 3 = true ∧ fld t (rFabCollLast 1) fFabCollLastCollId = cdId d)
      (collFinished s c = false → Completes (.collComplete q) s (fun t => t.colls = s.colls ∧ SameAll s t)) ∧
      (collFinished s c = true → (cdDoneAdd d = 0 ∨ l = 1023) → Completes (.collComplete q) s (fun t => ended t ∧
        (cdDoneAdd d ≠ 0 → ∃ m ∈ t.sent, m.kind = .signal ∧ m.args = [1023, sem, cdDoneAdd d]) ∧ SameBut K s t)) ∧
      (collFinished s c = true → cdDoneAdd d ≠ 0 → l < 800 → held s l = true → inService s p = true →
        bitAt (cluster s p).semRemote sem = true → Completes (.collComplete q) s (fun t => ended t ∧
          semOf t p sem = (semOf s p sem + cdDoneAdd d) % 2 ^ 32 ∧ SameBut (fun i => K i ∨ i = rClSem p sem) s t)) ∧
      (collFinished s c = true → cdDoneAdd d ≠ 0 → l ≠ 1023 → held s l = false →
        Completes (.collComplete q) s (fun t => CollFailed s t q d 9 (ownDev s) ∧ SameBut (CollReg q) s t))) ∧
    (∀ rid q, q < 16 → Callable s rid (mbFab 1) → let k := rFabCollQ 1 q
      (fld s k fFabCollQState ≠ cqError → Calls (.collClear rid 1 q) s (mbFab 1) 0x72 [] (fun _ => False) (fun t => t.colls = s.colls)) ∧
      (fld s k fFabCollQState = cqError → Calls (.collClear rid 1 q) s (mbFab 1) stOk [rdN s k] (fun i => i = k) (fun t =>
        fld t k fFabCollQState = cqIdle ∧ fld t k fFabCollQCause = 0 ∧ fld t k fFabCollQPending = 0 ∧
        ∀ base, s.collBase = some base → fld t k fFabCollQConsumer = collProducer s base q)))

/-- 13 R398-R403, 15 R461, R462: a silent member is lost with what is on its way to it; a manager routes requests to its members and takes
their answers; digests are sent, kept and compared, the odd one's device is expelled or a split reported; an expelled device is marked; a
member carries out and answers its manager's switch, rollback or cancel. The model's choices that it rests on: log 76, 98, 99. -/
def Obligations.GroupCommandsComplete : Prop :=
  ∀ (s : State), LinksKnown s →
    let memberReg : Nat → Prop := fun k => ∃ i, i < 16 ∧ k = rFabMember 1 i
    (∀ n b, n < 16 → let u := advanceTo b s
      let dev := slotDev u n
      bitAt (fld u (rFabStatus 0) fFabStatusPresent) n = true → u.lost.contains dev = false → lastHeard u n + 10000000 ≤ u.beat →
      (∀ e ∈ u.colls, e.1 < 16) → (∀ p ∈ u.unacked, p.head.dst = dev → ∀ q o, p.issuer ≠ .signal q o) →
      Completes (.memberLost n b) s (fun t => dev ∈ t.lost ∧ bitAt (fld t (rFabStatus 0) fFabStatusLive) n = false ∧
        (ownRole u ≠ 0 → fld t (rFabMember 1 n) fFabMemberLive = 0) ∧ (∀ p ∈ t.unacked, p.head.dst ≠ dev) ∧
        (∀ e ∈ u.colls, dev ∈ collMembers u e.2.bytes → look t.colls e.1 = none) ∧
        (ownRole u = 0 → n = 0 → t.reqs = u.reqs.map (fun r => if fromManager u r.ring then { r with cancel := true } else r)) ∧
        SameBut (fun k => Tally k ∨ Logged k ∨ FabErrReg 1 k ∨ k = rFabStatus 0 ∨ k = rFabStatus 1 ∨ k = rFabMember 1 n ∨
          k = rFabCollLast 1 ∨ ∃ e ∈ u.colls, k = rFabCollQ 1 e.1) u t)) ∧
    (∀ ring log2n area n, ownRole s ≠ 0 → routePick s = some n →
      let p := tabGet (fun _ => 0) s.routeProd n
      let stored (t : State) (a : Nat) (l : List Byte) : Prop := ∃ x ∈ t.unacked, x.head.type = ptWrite ∧ x.head.dst = slotDev s n ∧
        x.head.addr = a ∧ x.data = l
      let routed (t : State) (r : Routed) (rest : List Routed) : Prop := t.routed = rest ++ [{ r with slot := n }] ∧
        tabGet (fun _ => 0) t.routeProd n = (p + 1) % 2 ^ 32 ∧
        stored t (ring + 64 + 64 * (p % 2 ^ log2n)) (routedDesc r.taken area (p / 2 ^ log2n % 2)) ∧
        stored t ring (natLe 4 ((p + 1) % 2 ^ 32)) ∧ SameBut (fun k => Tally k ∨ memberReg k) s t
      (∀ r, s.routed.find? (fun r => r.slot == 16) = some r → (routedDesc r.taken area (p / 2 ^ log2n % 2)).length = 64 →
        Completes (.routeRequest ring log2n area) s (fun t => routed t r (s.routed.erase r) ∧ t.intake = s.intake)) ∧
      (∀ x, s.routed.find? (fun r => r.slot == 16) = none → nextTaken s false = some x →
        (routedDesc x area (p / 2 ^ log2n % 2)).length = 64 →
        Completes (.routeRequest ring log2n area) s (fun t => routed t ⟨x, 16, 0⟩ s.routed ∧ t.intake = s.intake.erase x))) ∧
    (∀ h data, FabNext s h →
      let from_ (r : Routed) : Bool := slotDev s r.slot == h.src && rqId r.taken.desc == leAt 0 8 data
      let upto := leAt 0xC 4 data + leAt 0x10 4 data
      (s.routed.find? from_ = none → Completes (.fabAnswer h data) s (fun t => FabTaken s t h 0 ∧ t.routed = s.routed ∧ SameBut Tally s t)) ∧
      (∀ r q, s.routed.find? from_ = some r → look s.ansRings (rqAns r.taken.desc) = some q → companionBase ≤ q.base → q.base % 64 = 0 →
        data.length = 64 → let a := rqAns r.taken.desc
        (leAt 8 1 data ≠ 2 → upto ≤ r.streamed → Completes (.fabAnswer h data) s (fun t => FabTaken s t h 0 ∧ t.routed = s.routed ∧
          SameBut Tally s t)) ∧
        ((leAt 8 1 data = 2 ∨ r.streamed < upto) → ansRoom s a = true → Completes (.fabAnswer h data) s (fun t => FabTaken s t h 0 ∧
          t.routed = (if leAt 8 1 data = 2 then s.routed.erase r
            else s.routed.map (fun x => if x = r then { r with streamed := upto } else x)) ∧
          look t.ansPend a = some (listSet data 0xB (BitVec.ofNat 8 (128 * (q.mine / 2 ^ q.log2 % 2)))) ∧
          serBusy t (answerUnit a) = true ∧ SameBut (fun k => Tally k ∨ PortReg k ∨ memberReg k) s t)) ∧
        ((leAt 8 1 data = 2 ∨ r.streamed < upto) → ansFull s a = false → ansRoom s a = false →
          Completes (.fabAnswer h data) s (fun t => t.rxSeq = s.rxSeq ∧ t.routed = s.routed ∧ SameBut Tally s t)))) ∧
    (∀ b, let u := advanceTo b s
      let due := imageActive u = true ∧ (imgSection u 0 stFabric).isSome = true ∧ ratio u 0 0x358 2 ≠ 0xFFFF ∧ u.steps ≠ 0 ∧
        u.steps % digestPeriod u = 0 ∧ fld u rBruFault fBruFaultBlobBad = 0
      (¬ due → Completes (.digestReport b) s (fun t => t.unacked = u.unacked ∧ t.digests = u.digests ∧ SameAll u t)) ∧
      (due → ownRole u = 0 → Completes (.digestReport b) s (fun t => CtrlQueued u t (16 * ownGroup u) 2
        (natLe 2 (ratio u 0 0x358 2) ++ natLe 4 (activeGen u) ++ natLe 8 u.steps ++ natLe 1 0 ++ deviceDigest u) ∧ SameBut Tally u t)) ∧
      (due → ownRole u ≠ 0 → Completes (.digestReport b) s (fun t =>
        t.digests = u.digests ++ [⟨ownSlot u, ratio u 0 0x358 2, activeGen u, u.steps, deviceDigest u, u.beat⟩] ∧ SameAll u t))) ∧
    (∀ h set gen step value, FabNext s h → Completes (.ctrlDigest h set gen step value) s (fun t => FabTaken s t h 0 ∧
      t.digests = (if ownRole s ≠ 0 ∧ h.src / 16 = ownGroup s then s.digests ++ [⟨h.src % 16, set, gen, step, value, s.beat⟩]
        else s.digests) ∧ SameBut Tally s t)) ∧
    (∀ set gen step b first rest, let u := advanceTo b s
      let of_ (d : Digest) : Bool := d.set == set && d.gen == gen && d.step == step
      u.digests.filter of_ = first :: rest → (∀ d ∈ first :: rest, d.slot < 16) →
      let timely := (first :: rest).filter (fun d => d.beat ≤ first.beat + 100000000)
      let voters := timely.filter (fun d => !isExpelled u d.slot)
      let agreed := ∀ d ∈ voters, ∀ e ∈ voters, d.value = e.value
      let taken (t : State) : Prop := t.digests = u.digests.filter (fun d => !of_ d)
      (u.beat < first.beat + 100000000 → Completes (.digestCompare set gen step b) s (fun t => t.digests = u.digests ∧ SameAll u t)) ∧
      (first.beat + 100000000 ≤ u.beat →
        (agreed → Completes (.digestCompare set gen step b) s (fun t => taken t ∧
          (∀ d ∈ timely, d.slot ∈ u.rejoining → (∃ e ∈ voters, e.value = d.value) → fld t (rFabMember 1 d.slot) fFabMemberExpelled = 0 ∧
            d.slot ∉ t.rejoining) ∧ SameBut (fun k => Tally k ∨ memberReg k) u t)) ∧
        (∀ d, ¬ agreed → oddOne voters = some d → Completes (.digestCompare set gen step b) s (fun t => taken t ∧
          isExpelled t d.slot = true ∧ Recorded u t 4 9 d.slot 0xF ∧ CtrlQueued u t (slotDev u d.slot) 3 (natLe 1 1) ∧
          (∀ r ∈ t.routed, r.slot ≠ d.slot) ∧ SameBut (fun k => Tally k ∨ Logged k ∨ memberReg k) u t)) ∧
        (¬ agreed → oddOne voters = none → Completes (.digestCompare set gen step b) s (fun t => taken t ∧
          FabFlag t 1 6 0 (slotDev u first.slot) ∧ Recorded u t 4 9 0 0xF ∧
          SameBut (fun k => Logged k ∨ FabErrReg 1 k) u t)))) ∧
    (∀ h fails rb, FabNext s h → let K : Nat → Prop := fun k => Tally k ∨ k = rFabStatus 0 ∨ k = rFabStatus 1
      (h.src ≠ 16 * ownGroup s → ∀ x, Completes (.ctrlExpel h x fails rb) s (fun t => FabTaken s t h 0 ∧ SameBut Tally s t)) ∧
      (h.src = 16 * ownGroup s →
        Completes (.ctrlExpel h false fails rb) s (fun t => FabTaken s t h 0 ∧ fld t (rFabStatus 0) fFabStatusExpelled = 0 ∧ SameBut K s t) ∧
        ((∀ p, p < 864 → trialOk s p = false) → imageActive s = false → badHbmBlob s = false →
          Completes (.ctrlExpel h true fails rb) s (fun t => FabTaken s t h 0 ∧ fld t (rFabStatus 0) fFabStatusExpelled = 1 ∧
            SameBut K s t)))) ∧
    (∀ h gen beat, FabNext s h → h.src = 16 * ownGroup s →
      let rid := devRid h.src
      let K : Nat → Prop := fun k => Tally k ∨ k = rCalSlot stg ∨ k = rCalSwitchBeat ∨ k = rCalSwitchStat
      let answered (t : State) (st : Nat) : Prop := FabTaken s t h 0 ∧ CtrlQueued s t h.src 7 (natLe 1 st ++ natLe 4 gen)
      (mayWrite s rid gbCal = false → ∀ op, op ≠ 2 → Completes (.ctrlSwitch h op gen beat) s (fun t => answered t stNotOwner ∧
        SameBut Tally s t)) ∧
      (mayWrite s rid gbCal = true →
        (swRollback s = false → slotState s stg = slAdmitted → fld s (rCalSlot stg) fCalSlotGen = gen → slotState s 0 ≠ slWatch →
          tooSoon s beat = false → Completes (.ctrlSwitch h 0 gen beat) s (fun t => answered t stOk ∧ slotState t stg = slArmed ∧
            swPhase t = 1 ∧ rd t rCalSwitchBeat = BitVec.ofNat 64 beat ∧ SameBut K s t)) ∧
        (swRollback s = false → slotState s stg ≠ slAdmitted → Completes (.ctrlSwitch h 0 gen beat) s (fun t => answered t sxNoStaging ∧
          SameBut Tally s t)) ∧
        (slotState s 1 = slPrevious → swPhase s = 0 → tooSoon s beat = false → Completes (.ctrlSwitch h 1 gen beat) s (fun t =>
          answered t stOk ∧ swPhase t = 1 ∧ fld t rCalSwitchStat fCalSwitchStatRollback = 1 ∧
          rd t rCalSwitchBeat = BitVec.ofNat 64 beat ∧ SameBut K s t)) ∧
        (swPhase s = 1 → s.beat < s.stopBeat → Completes (.ctrlSwitch h 2 gen beat) s (fun t => FabTaken s t h 0 ∧ swPhase t = 0 ∧
          (swRollback s = false → slotState t stg = slAdmitted) ∧ t.unacked = s.unacked ∧ SameBut K s t)))) ∧
    (∀ h status gen, FabNext s h → let n := h.src % 16
      let mine := ownRole s ≠ 0 ∧ h.src / 16 = ownGroup s ∧ n ∉ s.swAnswered
      Completes (.ctrlSwitchAck h status gen) s (fun t => FabTaken s t h 0 ∧ SameBut Tally s t ∧
        t.swAnswered = (if mine then n :: s.swAnswered else s.swAnswered) ∧
        t.swRefused = (if mine ∧ status ≠ 0 then n :: s.swRefused else s.swRefused)))

/-- 13 R401, R403, R404, Table 13-14: the calls of the FAB mailboxes: FIDW offers the two that read; GROUP_SWITCH and GROUP_ROLLBACK arm
this device and ask every live member, and run until all have answered; EXPEL and REJOIN act on a slot that is present, on a manager alone.
The model's choices that it rests on: log 98, 99. -/
def Obligations.FabricServicesComplete : Prop :=
  ∀ (s : State) (rid d : Nat), d < 2 → Callable s rid (mbFab d) →
    (∀ k, k < 9 → Reads (.lgStatus rid d k) s (mbFab d) [rdN s (rFabLg d k)]) ∧
    Reads (.fabErrRead rid d) s (mbFab d) (rdN s (rFabErr d) :: (List.range 7).map (fun i => rdN s (rFabErrCnt d i))) ∧
    (d = 0 → ∀ a b, ∀ c ∈ [Instr.groupSwitch rid d a b, .groupRollback rid d a, .fabExpel rid d a, .rejoin rid d a,
        .fabMembersStatus rid d, .collClear rid d a],
      Calls c s (mbFab d) stBadService [] (fun _ => False) (fun t => t.unacked = s.unacked)) ∧
    (d = 1 → ownRole s = 0 → ∀ a b, ∀ c ∈ [Instr.groupSwitch rid d a b, .groupRollback rid d a, .fabExpel rid d a, .rejoin rid d a,
        .fabMembersStatus rid d],
      Calls c s (mbFab d) 0x70 [] (fun _ => False) (fun t => t.unacked = s.unacked)) ∧
    (d = 1 → ownRole s ≠ 0 → LinksKnown s →
      let K : Nat → Prop := fun k => Tally k ∨ k = rCalSlot stg ∨ k = rCalSwitchBeat ∨ k = rCalSwitchStat
      let asked (t : State) (op gen b : Nat) : Prop := t.swAnswered = [] ∧ t.swRefused = [] ∧ swPhase t = 1 ∧
        rd t rCalSwitchBeat = BitVec.ofNat 64 b ∧ ∀ n ∈ liveSlots s, CtrlQueued s t (slotDev s n) 6 (natLe 1 op ++ natLe 4 gen ++ natLe 8 b)
      let waits := ∃ n ∈ liveSlots s, s.lost.contains (slotDev s n) = false
      Reads (.fabMembersStatus rid d) s (mbFab d) ((List.range 16).map (fun i => rdN s (rFabMember 1 i))) ∧
      (∀ b gen, mayWrite s rid gbCal = true → swRollback s = false → slotState s stg = slAdmitted →
        fld s (rCalSlot stg) fCalSlotGen = gen → slotState s 0 ≠ slWatch → tooSoon s b = false →
        (waits → Starts (.groupSwitch rid d b gen) s (mbFab d) ⟨0x0D04, rid, [b, gen], s.beat, 0 :: gen :: b :: liveSlots s⟩ K (fun t =>
          asked t 0 gen b ∧ slotState t stg = slArmed)) ∧
        (liveSlots s = [] → Calls (.groupSwitch rid d b gen) s (mbFab d) stOk [] K (fun t => asked t 0 gen b ∧ t.groupGen = gen ∧
          slotState t stg = slArmed))) ∧
      (∀ b, let gen := fld s (rCalSlot 1) fCalSlotGen
        mayWrite s rid gbCal = true → slotState s 1 = slPrevious → swPhase s = 0 → tooSoon s b = false →
        (waits → Starts (.groupRollback rid d b) s (mbFab d) ⟨0x0D05, rid, [b], s.beat, 1 :: gen :: b :: liveSlots s⟩ K (fun t =>
          asked t 1 gen b)) ∧
        (liveSlots s = [] → Calls (.groupRollback rid d b) s (mbFab d) stOk [] K (fun t => asked t 1 gen b ∧ t.groupGen = gen))) ∧
      (∀ n, n < 16 → let R : Nat → Prop := fun k => Tally k ∨ ∃ i, i < 16 ∧ k = rFabMember 1 i
        (bitAt (fld s (rFabStatus 0) fFabStatusPresent) n = false → ∀ c ∈ [Instr.fabExpel rid d n, .rejoin rid d n],
          Calls c s (mbFab d) 0x73 [] (fun _ => False) (fun t => t.unacked = s.unacked)) ∧
        (bitAt (fld s (rFabStatus 0) fFabStatusPresent) n = true →
          Calls (.fabExpel rid d n) s (mbFab d) stOk [] R (fun t => isExpelled t n = true ∧
            (isExpelled s n = false → CtrlQueued s t (slotDev s n) 3 (natLe 1 1) ∧
              t.routed = s.routed.map (fun r => if r.slot = n then { r with slot := 16 } else r))) ∧
          (isExpelled s n = false → Reads (.rejoin rid d n) s (mbFab d) []) ∧
          (isExpelled s n = true → Starts (.rejoin rid d n) s (mbFab d) ⟨0x0D07, rid, [n], s.beat, [n]⟩ (fun _ => False) (fun t =>
            t.rejoining = n :: s.rejoining.filter (· != n))))))

/-- 14 R408-R413, R430-R436, Table 14-4: a lost phase lowers a gallery's limit, caps it or darkens it; a crack caps it, and darkens it when
large or lasting; a short and an open eFuse darken it; heat parks it, and what has cooled asks for power again; a trip darkens a gallery,
fails an MSD or a fabric die's links, or opens the module's input. The model's choices that it rests on: log 4, 45, 85. -/
def Obligations.GalleryEventsComplete : Prop :=
  ∀ (s : State) (g b : Nat), g < 144 → GenMapReady s →
    let u := advanceTo b s
    let K : Nat → Prop := fun k => GalReg g k ∨ Logged k ∨ k = rModStatus
    let D : Nat → Prop := fun k => GalReg g k ∨ StopReg (clustersOf g) k
    (∀ i, i < 16 → let r := rPwrGal g
      let ok := fld s r fPwrGalPhaseOk
      let lost := phasesLost s g + 1
      bitAt ok i = true →
      (galState s g = gsDark → Completes (.phaseLost g i) s (fun t => fld t r fPwrGalPhaseOk = ok - 2 ^ i ∧ galState t g = gsDark ∧
        bitAt (rdN t rPwrFault) 0 = true ∧ Recorded s t 3 3 g 7 ∧ SameBut K s t)) ∧
      (galState s g ≠ gsDark → lost < 9 → Completes (.phaseLost g i) s (fun t => fld t r fPwrGalPhaseOk = ok - 2 ^ i ∧
        fld t r fPwrGalILim = (if galState s g = gsCapped ∧ galCause s g = 2 then min 96 (limitOf lost) else limitOf lost) ∧
        (5 ≤ lost → galState s g = gsOn → galState t g = gsCapped ∧ galCause t g = 1 ∧ bitAt (rdN t rPwrFault) 1 = true) ∧
        ((lost < 5 ∨ galState s g ≠ gsOn) → galState t g = galState s g) ∧
        bitAt (rdN t rPwrFault) 0 = true ∧ Recorded s t 3 3 g 7 ∧ SameBut K s t)) ∧
      (galState s g ≠ gsDark → 9 ≤ lost → Completes (.phaseLost g i) s (fun t => fld t r fPwrGalPhaseOk = ok - 2 ^ i ∧
        Darkened s t g 1 ∧ t.nRecords = s.nRecords + 2 ∧ RegsBut D s t))) ∧
    (∀ x, galClocked u g = true → 20 ≤ fld u (rPwrGal g) fPwrGalIOut → 150 < x →
      (300 < x → Completes (.crackDetect g x b) s (fun t => Darkened u t g 2 ∧ look t.crackSince g = none ∧ Recorded u t 3 2 g 6 ∧
        (look u.crackSince g = none → bitAt (rdN t rPwrFault) 3 = true) ∧ RegsBut D u t)) ∧
      (x ≤ 300 → look u.crackSince g = none → Completes (.crackDetect g x b) s (fun t => look t.crackSince g = some u.beat ∧
        galState t g = gsCapped ∧ galCause t g = 2 ∧ fld t (rPwrGal g) fPwrGalILim = min 96 (fld u (rPwrGal g) fPwrGalILim) ∧
        bitAt (rdN t rPwrFault) 3 = true ∧ SameBut K u t)) ∧
      (x ≤ 300 → look u.crackSince g ≠ none → Completes (.crackDetect g x b) s (fun t => t.crackSince = u.crackSince ∧ SameAll u t))) ∧
    (∀ c, galClocked u g = true → look u.crackSince g = some c → c + 1000000000 ≤ u.beat →
      Completes (.crackPersist g b) s (fun t => Darkened u t g 2 ∧ look t.crackSince g = none ∧ Recorded u t 3 2 g 6 ∧ RegsBut D u t)) ∧
    ((galState s g = gsWaking ∨ (stageNow s ≤ 7 ∧ galClocked s g = true)) → Completes (.shortDetect g) s (fun t => Darkened s t g 3 ∧
      bitAt (rdN t rPwrFault) 4 = true ∧ Recorded s t 3 2 g 6 ∧ RegsBut D s t)) ∧
    (galState s g ≠ gsDark → Completes (.efuseOpen g) s (fun t => Darkened s t g 4 ∧ bitAt (rdN t rPwrFault) 5 = true ∧
      Recorded s t 3 2 g 6 ∧ RegsBut D s t)) ∧
    (let H : Nat → Prop := fun k => D k ∨ ThmReg k ∨ ThrReg k
     let hot := autoPark u = true ∧ ∃ c, look u.hotSince g = some c ∧ c + 100000000 ≤ u.beat
     (galClocked u g = true → (g ∈ u.parking ∨ hot) → galFree u g = true → Completes (.heatPark g b) s (fun t => Parked u t g 6 ∧
       g ∉ t.parking ∧ (g ∉ u.parking → ThmFlag t 3 g) ∧ RegsBut H u t)) ∧
     (galClocked u g = true → g ∉ u.parking → hot → (∃ p ∈ clustersOf g, logicalOf u p < 800) → Completes (.heatPark g b) s (fun t =>
       g ∈ t.parking ∧ ThmFlag t 3 g ∧ galState t g = galState u g ∧
       (∀ p ∈ clustersOf g, (clState u p = csServing ∨ clState u p = csSuspect) → clState t p = csFenced) ∧
       StopKeeps u t (clustersOf g) ∧ RegsBut H u t)) ∧
     (galState u g = gsParked → galCause u g = 6 → (∃ c, look u.coolSince g = some c ∧ c + 1000000000 ≤ u.beat) →
       Completes (.heatUnpark g b) s (fun t => Asking u t g ∧ g ∈ t.retrial ∧ SameBut (fun k => k = rPwrGal g ∨ k = rModStatus) u t))) ∧
    (s.inputOpen = false →
      (galState s g ≠ gsDark → Completes (.thermalTrip g) s (fun t => Darkened s t g 5 ∧ ThmFlag t 2 g ∧ Recorded s t 3 2 g 6 ∧
        RegsBut (fun k => D k ∨ ThmReg k) s t)) ∧
      (galState s g = gsDark → Completes (.thermalTrip g) s (fun t => ThmFlag t 2 g ∧ SameBut ThmReg s t)) ∧
      (∀ n, n < 16 → Completes (.thermalTrip (144 + n)) s (fun t => ThmFlag t 2 (144 + n) ∧ msdState t n = msFailed)) ∧
      (∀ d, d < 2 → LinksKnown s → Completes (.thermalTrip (161 + d)) s (fun t => ThmFlag t 2 (161 + d) ∧
        (∀ l ∈ t.links, lgDie l.lg = d → l.state = lsFailed) ∧
        SameBut (fun k => ThmReg k ∨ Logged k ∨ FabErrReg d k ∨ k = rFabStatus 0 ∨ k = rFabStatus 1 ∨ ∃ j, j < 18 ∧ k = lgReg j) s t)) ∧
      (let off (t : State) (c : Nat) : Prop := PartReset s t ∧ t.inputOpen = true ∧ t.tripCause = some c
       Completes (.thermalTrip 160) s (fun t => t.inputOpen = true ∧ t.tripCause = some 4 ∧ t.flash = s.flash) ∧
       (∀ c, 1 ≤ c → c ≤ 4 → Completes (.moduleTrip c) s (fun t => off t c))))

/-- 14 R418-R431, R435-R439, 18 R515, R516: the cap loop sets Θ from the input power, the current and heat loops a gallery's skip demand;
sensors are read and flags set where they cross; margin alerts hold a cluster and refine its F_max; a gallery asks, is granted power, ramps
and is ON; THROT_N and the board cap are shown; a calibration table takes effect at its beat. The model's choices that it rests on: log 31,
37, 41, 66, 89, 112. -/
def Obligations.PowerLoopsComplete : Prop :=
  ∀ (s : State) (b : Nat),
    let u := advanceTo b s
    (∀ p10 vin iin, let e := u.energyFrac + p10
      let c := capInForce u vin
      Completes (.capTick p10 vin iin b) s (fun t => fld t rPwrInput fPwrInputVin = vin % 65536 ∧ fld t rPwrInput fPwrInputIin = iin % 65536 ∧
        rd t rPwrEnergy = BitVec.ofNat 64 (rdN u rPwrEnergy + e / 100) ∧ t.energyFrac = e % 100 ∧
        fld t rPwrStatus fPwrStatusInputW = p10 % 65536 ∧ fld t rPwrStatus fPwrStatusCapW = c % 65536 ∧
        fld t rPwrStatus fPwrStatusTheta = nextTheta (kpQ u) p10 c (fld u rPwrStatus fPwrStatusTheta) % 256 ∧
        (20000 < p10 → bitAt (rdN t rPwrFault) 6 = true) ∧
        SameBut (fun k => ThrReg k ∨ k = rPwrInput ∨ k = rPwrEnergy ∨ k = rPwrFault ∨ k = rPwrFaultCnt 6) u t)) ∧
    (∀ g, g < 144 → let r := rPwrGal g
      (∀ i low, let lim := fld s r fPwrGalILim
        let k := tabGet (fun _ => 0) s.gcSkip g
        Completes (.galleryCurrentTick g i low) s (fun t => fld t r fPwrGalIOut = i % 256 ∧ SameBut ThrReg s t ∧
          (galClocked s g = true → tabGet (fun _ => 0) t.gcSkip g = if lim < i then min 48 (k + 4)
            else if low = true ∧ 100 * i < 95 * lim then k - 1 else k) ∧
          (galClocked s g = false → t.gcSkip = s.gcSkip))) ∧
      (let k := tabGet (fun _ => 0) s.softSkip g
       Completes (.thermalSoftTick g) s (fun t => SameBut ThrReg s t ∧
         tabGet (fun _ => 0) t.softSkip g = if 1520 ≤ galTemp s g then min 48 (k + 2) else if galTemp s g < 1488 then k - 1 else k)) ∧
      (∀ l : List Nat, Completes (.sensorRead g l b) s (fun t =>
        (∀ j, j < 4 → bitsAt (16 * j) 16 (rdN t (rThmGalTemp g)) = l.getD j 0 % 65536) ∧
        (g ∈ t.hardGal ↔ 1680 ≤ galTemp t g ∨ (1600 ≤ galTemp t g ∧ g ∈ u.hardGal)) ∧
        (galTemp u g < 1520 → 1520 ≤ galTemp t g → ThmFlag t 0 g) ∧ (galTemp u g < 1680 → 1680 ≤ galTemp t g → ThmFlag t 1 g) ∧
        SameBut (fun k => ThrReg k ∨ ThmReg k ∨ k = rThmGalTemp g) u t)) ∧
      (u.inputOpen = false → (galState u g = gsParked ∨ (galState u g = gsDark ∧ galCause u g = 0 ∧ stageNow u = 1)) →
        Completes (.galPowerRequest g b) s (fun t => Asking u t g ∧ g ∉ t.ramped ∧ SameBut (fun k => k = r ∨ k = rModStatus) u t)) ∧
      (let may (x : Nat) : Prop := galState u x = gsWaiting ∧ headroom u = true ∧ blockers u x = [] ∧ waveOpen u x = true
       (may g → (∀ x, x < g → ¬ may x) → Completes (.galGrant b) s (fun t => galState t g = gsWaking ∧ galCause t g = 0 ∧
         look t.galAsked g = some u.beat ∧ SameBut (fun k => k = r ∨ k = rModStatus) u t)) ∧
       ((∀ x, x < 144 → ¬ may x) → Completes (.galGrant b) s (fun t => t.galAsked = u.galAsked ∧ SameAll u t))) ∧
      (∀ c skips theta, galState u g = gsWaiting → look u.galAsked g = some c → c + 1500000 ≤ u.beat →
        Completes (.galForcing g skips theta b) s (fun t => t.forceTheta = (if headroom u = true then u.forceTheta else min 48 theta) ∧
          (∀ x, x ∉ blockers u g → tabGet (fun _ => 0) t.forceSkip x = tabGet (fun _ => 0) u.forceSkip x) ∧ SameBut ThrReg u t)) ∧
      (∀ c, galState u g = gsWaking → g ∉ u.ramped → look u.galAsked g = some c → c + 200000 ≤ u.beat →
        Completes (.galRampDone g b) s (fun t => g ∈ t.ramped ∧ t.forceTheta = 0 ∧ SameBut ThrReg u t)) ∧
      (∀ passes c, galState u g = gsWaking → g ∈ u.ramped → look u.galAsked g = some c → c + 1200000 ≤ u.beat →
        let ok := if fld u r fPwrGalPhaseOk = 0 then 0xFFFF else fld u r fPwrGalPhaseOk
        let lost := 16 - (bitsOf 16 ok).length
        Completes (.galOn g passes b) s (fun t => galState t g = (if 5 ≤ lost then gsCapped else gsOn) ∧ fld t r fPwrGalPhaseOk = ok ∧
          fld t r fPwrGalILim = limitOf lost ∧ g ∉ t.ramped ∧ g ∉ t.retrial ∧ look t.galAsked g = none ∧
          (g ∈ u.retrial → ∀ p i, (clustersOf g)[i]? = some p → (clState u p = csFenced ∨ clState u p = csStandby) → 800 ≤ logicalOf u p →
            clState t p = if bitAt passes i = true ∧ fld u (rBruCl p) fBruClPending = 0 ∧ p ∉ u.badRouters then csStandby else csFenced) ∧
          SameBut (fun k => ThrReg k ∨ GalReg g k ∨ k = rModStatus ∨ ∃ p ∈ clustersOf g, k = rBruCl p) u t))) ∧
    (∀ k x, k < 20 → Completes (.sensorRead (144 + k) [x] b) s (fun t => fld t (rThmDieTemp k) fThmDieTempTemp = x % 65536 ∧
      (k < 19 → dieTemp u k < 1520 → 1520 ≤ dieTemp t k → ThmFlag t 0 (144 + k)) ∧
      (k = 19 → dieTemp u k ≤ 640 → 640 < dieTemp t k → ThmFlag t 4 (144 + k)) ∧
      SameBut (fun i => ThrReg i ∨ ThmReg i ∨ i = rThmDieTemp k) u t)) ∧
    (∀ p, p < 864 → let flag (t : State) (i : Nat) : Prop := bitAt (rdN t rClkMargin) i = true ∧ fld t rClkMargin fClkMarginLastP = p
      let K (i : Nat) : Nat → Prop := fun k => k = rClkMargin ∨ k = rClkMarginCnt i
      (inService u p = true →
        Completes (.marginAlert p false b) s (fun t => flag t 0 ∧ t.holds = u.holds ∧ SameBut (K 0) u t) ∧
        Completes (.marginAlert p true b) s (fun t => flag t 1 ∧ p ∈ t.holds ∧ t.alerts = (p, u.beat) :: u.alerts ∧
          SameBut (fun k => K 1 k ∨ ThrReg k) u t)) ∧
      (∀ a, p ∈ u.holds → look u.alerts p = some a → a + 1000000 ≤ u.beat → Completes (.alertHoldEnd p b) s (fun t =>
        t.holds = u.holds.filter (· != p) ∧ SameBut ThrReg u t)) ∧
      (let mine := u.alerts.filter (fun e => e.1 == p && u.beat < e.2 + 3600000000000)
       let n := tabGet (fun _ => 0) u.lowered p + 1
       ((mine.map (fun e => e.2 / 1000000000)).eraseDups.length < 3 → Completes (.fmaxRefine p b) s (fun t => SameAll u t)) ∧
       (3 ≤ (mine.map (fun e => e.2 / 1000000000)).eraseDups.length → 980 < fmaxOf u p → Completes (.fmaxRefine p b) s (fun t =>
         fmaxOf t p = max 980 (fmaxOf u p - 10) ∧ tabGet (fun _ => 0) t.lowered p = n ∧ flag t 2 ∧
         t.alerts = u.alerts.filter (fun e => e.1 != p) ∧
         SameBut (fun k => K 2 k ∨ k = rClkFmax p ∨ k = rClkFset p ∨ MeasReg k) u t)) ∧
       (3 ≤ (mine.map (fun e => e.2 / 1000000000)).eraseDups.length → fmaxOf u p ≤ 980 → clState u p ≠ csBad → clState u p ≠ csFenced →
         GenMapReady u → Completes (.fmaxRefine p b) s (fun t => clState t p = csFenced ∧ Recorded u t 3 0 p 0xE ∧ flag t 3 ∧
           StopKeeps u t [p] ∧ RegsBut (fun k => K 3 k ∨ StopReg [p] k) u t)))) ∧
    (let K : Nat → Prop := fun k => ThrReg k ∨ k = rPwrBoard
     Completes .throtAssert s (fun t => fld t rPwrBoard fPwrBoardThrot = 1 ∧ SameBut K s t) ∧
     Completes .throtRelease s (fun t => fld t rPwrBoard fPwrBoardThrot = 0 ∧ SameBut K s t) ∧
     (partDown s = false → ∀ w, let e := toSigned 5 (bitsAt 11 5 w)
       let v : Int := if 0 ≤ e then toSigned 11 (w % 2048) * (2 ^ e.toNat : Nat) else 0
       (6000 ≤ v → v ≤ 18000 → Completes (.pmbusPowerLimit true w) s (fun t => t.answer = ⟨stOk, []⟩ ∧
         (fld t rPwrBoard fPwrBoardBoardCap : Int) = v ∧ SameBut (fun k => k = rPwrBoard) s t)) ∧
       ((v < 6000 ∨ 18000 < v) → Completes (.pmbusPowerLimit true w) s (fun t => t.answer = ⟨stBadArg, []⟩ ∧
         bitAt t.pmFaults 1 = true ∧ SameAll s t)) ∧
       Completes (.pmbusPowerLimit false w) s (fun t => SameAll s t ∧ ∃ x, t.answer = ⟨stOk, [x]⟩ ∧ SentLast t .pmbus 0 [x] []))) ∧
    ((∀ c o, u.calNext = some (c, o) → u.beat < c → Completes (.calTableApply b) s (fun t => t.calNow = u.calNow ∧ SameAll u t)) ∧
     (∀ c o, u.calNext = some (c, o) → c ≤ u.beat → Completes (.calTableApply b) s (fun t => t.calNow = o ∧ t.calNext = none ∧
       SameBut MeasReg u t)))

/-- 14 R416, R422, R433-R436, R439, R440: the calls of the PWR and CLK mailboxes that change something: CAP sets the cap, GAL_PARK parks a
gallery whose clusters hold no number, GAL_UNPARK and GAL_RESTORE ask for its power and run on, CAL_LOAD verifies a table and keeps it for
the next whole millisecond, FREQ sets the request of a number. The model's choices that it rests on: log 69, 89, 111. -/
def Obligations.PowerServicesComplete : Prop :=
  ∀ (s : State) (rid : Nat),
    (Callable s rid mbPwr →
      (∀ w, (6000 ≤ w → w ≤ 18000 → Calls (.capService rid w) s mbPwr stOk [] (fun k => k = rPwrCapSet) (fun t =>
          fld t rPwrCapSet fPwrCapSetCap = w)) ∧
        ((w < 6000 ∨ 18000 < w) → Calls (.capService rid w) s mbPwr stBadArg [] (fun _ => False) (fun t => t.cl = s.cl))) ∧
      (∀ g, g < 144 →
        let idle := (∀ p ∈ clustersOf g, clState s p = csBad ∨ clState s p = csStandby) ∧ galFree s g = true
        let W : Nat → Prop := fun k => k = rPwrGal g ∨ k = rModStatus
        (¬ idle → Calls (.galPark rid g) s mbPwr 0x80 [] (fun _ => False) (fun t => t.cl = s.cl)) ∧
        (idle → galState s g = gsParked → Calls (.galPark rid g) s mbPwr stOk [] (fun _ => False) (fun t => t.cl = s.cl)) ∧
        (idle → galState s g ≠ gsParked → galClocked s g = false → Calls (.galPark rid g) s mbPwr 0x81 [] (fun _ => False) (fun t => t.cl = s.cl)) ∧
        (idle → galClocked s g = true → GenMapReady s → Completes (.galPark rid g) s (fun t => t.answer = ⟨stOk, [stOk]⟩ ∧
          CallEnded t mbPwr stOk [] ∧ Parked s t g 7 ∧
          RegsBut (fun k => InPage mbPwr k ∨ GalReg g k ∨ ThrReg k ∨ StopReg (clustersOf g) k) s t)) ∧
        ((galState s g ≠ gsParked ∨ galCause s g ≠ 7) → Calls (.galUnpark rid g) s mbPwr 0x81 [] (fun _ => False) (fun t => t.cl = s.cl)) ∧
        (galState s g = gsParked → galCause s g = 7 → Starts (.galUnpark rid g) s mbPwr ⟨0x0E05, rid, [g], s.beat, []⟩ W (fun t =>
          Asking s t g)) ∧
        (let may := galState s g = gsDark ∧ (galCause s g = 5 ∨ galCause s g = 2) ∧ phasesLost s g < 9
         (¬ may → Calls (.galRestore rid g) s mbPwr 0x81 [] (fun _ => False) (fun t => t.cl = s.cl)) ∧
         (may → 1360 < galTemp s g → Calls (.galRestore rid g) s mbPwr 0x83 [] (fun _ => False) (fun t => t.cl = s.cl)) ∧
         (may → galTemp s g ≤ 1360 → Starts (.galRestore rid g) s mbPwr ⟨0x0E06, rid, [g], s.beat, []⟩ W (fun t =>
           Asking s t g ∧ g ∈ t.retrial)))) ∧
      (∀ a n, a + n ≤ hbmTop s → let o := hbmPeek s a n
        let c := verifyCause s otCalTable o.length o
        Calls (.calLoad rid a n) s mbPwr (if c = vcOk then stOk else 0x82) [] (fun k => k = rSecVerifyLast ∨ k = rSecVerifyLastCnt) (fun t =>
          fld t rSecVerifyLast fSecVerifyLastCause = c % 16 ∧ t.calNow = s.calNow ∧
          t.calNext = (if c = vcOk then some ((s.beat / 1000000 + 1) * 1000000, o) else s.calNext) ∧
          t.flash = (if c = vcOk then tabPut otCalTable o s.flash else s.flash)))) ∧
    (Callable s rid mbClk → ∀ l f, l < 800 →
      (expertFreq s = false → Calls (.clkFreq rid l f) s mbClk 0x84 [] (fun _ => False) (fun t => t.fsetOf = s.fsetOf)) ∧
      (expertFreq s = true → fsetOk f = false → Calls (.clkFreq rid l f) s mbClk stBadArg [] (fun _ => False) (fun t =>
        t.fsetOf = s.fsetOf)) ∧
      (expertFreq s = true → fsetOk f = true → Calls (.clkFreq rid l f) s mbClk stOk [] (fun k => held s l = true ∧ k = rClkFset (physOf s l))
        (fun t => requestOf t l = f ∧ (held s l = true → fld t (rClkFset (physOf s l)) fClkFsetFset = f ∧
          fld t (rClkFset (physOf s l)) fClkFsetFnow = if f = 0 then fmaxOf s (physOf s l) else min f (fmaxOf s (physOf s l))))))

/-- 15 R450-R460, R463: a fault report starts the recovery of its unit's kind; a controller that misses ten polls has failed; a number moves
onto the first good spare whose trial passes, or is left vacant; a step replay stops what runs, fences what does not stop, and starts the
streams again at its beat; trials run; a firmware round takes freed clusters up. The model's choices that it rests on: log 85, 86, 87, 88,
97. -/
def Obligations.RecoveryEventsComplete : Prop :=
  ∀ (s : State) (b : Nat), GenMapReady s →
    let u := advanceTo b s
    (∀ p c d, p < 864 → let r := rBruCl p
      (c = 0 → clState u p = csServing → Completes (.faultReport 0 p c d b) s (fun t => clState t p = csSuspect ∧ fld t r fBruClClass = 1 ∧
        fld t r fBruClTrials = 0 ∧ Recorded u t 1 0 p 2 ∧ SameBut (fun k => Logged k ∨ ClReg p k) u t)) ∧
      ((c = 2 ∨ c = 3) → serves u p = true → p ∉ u.aborted → clState u p ≠ csSuspect → Completes (.faultReport 0 p c d b) s (fun t =>
        p ∈ t.aborted ∧ fld t r fBruClClass = 1 ∧ Recorded u t 2 0 p c ∧ t.stalled = t.nRecords :: u.stalled ∧ clState t p = clState u p ∧
        SameBut (fun k => Logged k ∨ k = r) u t)) ∧
      ((c = 2 ∨ c = 3) → serves u p = true → (p ∈ u.aborted ∨ clState u p = csSuspect) → Completes (.faultReport 0 p c d b) s (fun t =>
        ClusterFailed u t p c)) ∧
      (c = 1 ∨ 4 ≤ c → clState u p ≠ csBad → clState u p ≠ csFenced → Completes (.faultReport 0 p c d b) s (fun t => ClusterFailed u t p c)) ∧
      (p ∉ u.badRouters → Completes (.faultReport 1 p c d b) s (fun t => p ∈ t.badRouters ∧ fld t r fBruClClass = 2 ∧
        (clState u p ≠ csBad → clState t p = csFenced) ∧
        (imageActive u = false → Recorded u t 3 1 p 5 ∧ StopKeeps u t [p] ∧ RegsBut (StopReg [p]) u t)))) ∧
    (∀ g c d, g < 144 → galState u g ≠ gsDark → d < 32 → Completes (.faultReport 2 g c d b) s (fun t => Darkened u t g d ∧
      Recorded u t 3 2 g 6 ∧ RegsBut (fun k => GalReg g k ∨ StopReg (clustersOf g) k) u t)) ∧
    (∀ n c d, n < 16 → Completes (.faultReport 4 n c d b) s (fun t => msdState t n = msFailed)) ∧
    (∀ p c d, p < 2 → linkRuns u p = true → bonded u p = false → u.home = [] → Completes (.faultReport 6 p c d b) s (fun t =>
      portState t p = psDown ∧ Recorded u t 5 6 p 0xB)) ∧
    (∀ kind n c d, kind ∉ [0, 1, 2, 4, 6] → Completes (.faultReport kind n c d b) s (fun t => Recorded u t 3 kind n c ∧
      SameBut Logged u t)) ∧
    (∀ g answers, g < 144 → Completes (.ctrlPoll g answers b) s (fun t => StopKeeps u t (clustersOf g) ∧ RegsBut (StopReg (clustersOf g)) u t ∧
      ∀ i p, (clustersOf g)[i]? = some p → let n := (look u.silent p).getD 0 + 1
        ((inService u p = false ∨ bitAt answers i = true) → look t.silent p = none ∧ clState t p = clState u p) ∧
        (inService u p = true → bitAt answers i = false → n < 10 → look t.silent p = some n ∧ clState t p = clState u p) ∧
        (inService u p = true → bitAt answers i = false → 10 ≤ n → look t.silent p = none ∧ clState t p = csFenced ∧
          fld t (rBruCl p) fBruClClass = 2))) ∧
    (∀ l at_ fails, l < 800 → held u l = true → inMove u l = false → u.beat ≤ at_ →
      let h := physOf u l
      (moving u l = true → spareFor u l = none → (∀ e ∈ u.lmap, e.1 = l → e.2 = h) →
        let role := imageActive u && roleOf u 0 l != 0
        Completes (.move l at_ fails b) s (fun t => held t l = false ∧ fld t rBruFault fBruFaultNoSpare = 1 ∧
          Recorded u t (if role then 5 else 3) 9 0 0x13 ∧ (role = true → fld t rSvcAdmitCtl fSvcAdmitCtlAdmit = 0) ∧
          t.hbm = u.hbm ∧ t.spm = u.spm ∧ t.buf = u.buf ∧
          RegsBut (fun k => Logged k ∨ k = rBruCl h ∨ k = rModStatus ∨ k = rSvcAdmitCtl) u t)) ∧
      (∀ p, moving u l = true → spareFor u l = some p →
        (galState u (galleryOf p) = gsParked → Completes (.move l at_ fails b) s (fun t => Asking u t (galleryOf p) ∧
          t.mapChanges = u.mapChanges ∧ SameBut (fun k => k = rPwrGal (galleryOf p) ∨ k = rModStatus) u t)) ∧
        (galState u (galleryOf p) ≤ 1 → p ∉ fails → Completes (.move l at_ fails b) s (fun t =>
          t.mapChanges = u.mapChanges ++ [⟨l, p, at_⟩] ∧ clState t p = csMovingIn ∧ fld t (rBruCl p) fBruClLogical = l ∧
          (imageActive u = false → SameBut (fun k => Tally k ∨ ClReg p k ∨ k = rClkFset p ∨ k = rClkFset h ∨
            ∃ i, i < 6400 ∧ k = rBruGenMirror i) u t))) ∧
        (galState u (galleryOf p) ≤ 1 → p ∈ fails → Completes (.move l at_ fails b) s (fun t => clState t p = csBad ∧ p ∈ t.suspects))) ∧
      (moving u l = false → fenceMoveOf u l = true → atBoundary u = true → serves u h = true →
        Completes (.move l at_ fails b) s (fun t => clState t h = csFenced))) ∧
    (∀ p first again, p < 864 → trialOk u p = true → Completes (.trialRun p first again b) s (fun t => TrialRan u t p first again)) ∧
    (let ls := runningNumbers u
     let ps := ls.map (physOf u)
     let K : Nat → Prop := fun k => StopReg ps k ∨ ∃ n q, n < 16 ∧ q < 32 ∧ k = rMsdQueue n q
     (∀ rb, ¬ (imageActive u = true ∧ u.beat ≤ rb ∧ rb ≤ replayBound u) → Completes (.stepReplay rb b) s (fun t => t.replay = u.replay ∧
       t.cl = u.cl ∧ SameAll u t)) ∧
     (∀ rb, imageActive u = true → u.beat ≤ rb → rb ≤ replayBound u → (∀ g, u.genMap = some g → conflicts u g 51200 true = []) →
       Completes (.stepReplay rb b) s (fun t => t.replay = some (u.beat, rb) ∧
         (∀ p ∈ ps, (∀ st, st < 28 → streamState t p st = ssIdle) ∧ ∀ i, i < 56 → semOf t p i = 0) ∧
         StopKeeps u t ps ∧ RegsBut K u t)) ∧
     (∀ a rb, u.replay = some (a, rb) →
       (u.beat < a + 1000000 → Completes (.replayStopTimeout b) s (fun t => t.replay = u.replay ∧ SameAll u t)) ∧
       (a + 1000000 ≤ u.beat → let qs := (List.range 864).filter (fun p => serves u p && stillRuns u p)
         Completes (.replayStopTimeout b) s (fun t => (∀ p ∈ qs, clState t p = csFenced) ∧ t.nRecords = u.nRecords + qs.length ∧
           t.replay = u.replay ∧ StopKeeps u t qs ∧ RegsBut (StopReg qs) u t)) ∧
       ((u.beat < rb ∨ moveBusy u = true ∨ imageActive u = false) → Completes (.replayRestart b) s (fun t => t.replay = u.replay ∧
         SameAll u t)) ∧
       (rb ≤ u.beat → moveBusy u = false → imageActive u = true → Completes (.replayRestart b) s (fun t => t.replay = none ∧
         t.relaunched = rb ∧ t.stalled = [] ∧
         (∀ p ∈ ps, ∀ st, st < 28 → (streamOf t p st).first < (streamOf t p st).last → streamState t p st = ssRunning) ∧
         t.reqs = u.reqs.map (fun r => if r.phase = phDecode ∧ r.ended = 0 ∧ paused u r = false then { r with due := true } else r) ∧
         StopKeeps u t ps ∧ RegsBut (StopReg ps) u t)))) ∧
    (∀ at_ fails, rollingOut u = true → moveBusy u = false → atBoundary u = true → u.beat ≤ at_ →
      (∀ c, u.fwRound = some c → c + 1000000000 ≤ u.beat) → Completes (.fwRolloutRound at_ fails b) s (fun t => t.fwRound = some u.beat ∧
        runningHeader t otCcFw = (flashObj u otCcFw).take objHeader ∧
        (notRolled u = [] → (∀ p, p < 864 → clState u p = csFenced → 800 ≤ logicalOf u p → fld u (rBruCl p) fBruClClass ≠ 2 →
            fld u (rBruCl p) fBruClPending = 0 → p ∉ fails → galClocked u (galleryOf p) = true → clState t p = csStandby ∧ p ∈ t.fwNew) ∧
          SameBut (fun k => MeasReg k ∨ k = rModStatus ∨ ∃ p, p < 864 ∧ k = rBruCl p) u t)))

/-- 01 R41, 15 R445, R447, R457, R463, R465, Table 15-13: the calls of the BRU mailbox that do something: LOG_EXPORT writes records as CPER,
FENCE_MOVE runs until its number has moved, TRIAL runs a trial, DMAP_LOAD and FW_UPDATE verify what they load and take it up, FUSE_READ
answers an entry, RESET resets the part. The model's choices that it rests on: log 62, 88, 96, 97. -/
def Obligations.RecoveryServicesComplete : Prop :=
  ∀ (s : State) (rid : Nat), Callable s rid mbBru →
    let V : Nat → Prop := fun k => k = rSecVerifyLast ∨ k = rSecVerifyLastCnt
    (∀ a n first, let rs := recordsFrom s first n
      let bad := n = 0 ∨ 4096 < n ∨ first < s.nRecords + 1 - s.records.length ∨ first = 0 ∨ hbmTop s < a + 296 * rs.length
      (bad → Calls (.logExport rid a n first) s mbBru stBadArg [] (fun _ => False) (fun t => t.hbm = s.hbm)) ∧
      (¬ bad → HbmReady s → HbmRun s a (rs.flatMap cperBytes).length →
        CallsHbm (.logExport rid a n first) s mbBru stOk [rs.length, first + rs.length] a (rs.flatMap cperBytes) (fun _ => False)
          (fun t => t.records = s.records))) ∧
    (∀ l, (held s l = false → Calls (.fenceMove rid l) s mbBru stBadArg [] (fun _ => False) (fun t => t.cl = s.cl)) ∧
      (held s l = true → let waits := moving s l = true ∨ inMove s l = true
        ((waits ∨ (moveBusy s = false ∧ sparesLeft s ≠ 0)) → Starts (.fenceMove rid l) s mbBru ⟨0x1103, rid, [l], s.beat, [physOf s l]⟩
          (fun _ => False) (fun t => t.mapChanges = s.mapChanges)) ∧
        (¬ waits → moveBusy s = true → Calls (.fenceMove rid l) s mbBru 0x94 [] (fun _ => False) (fun t => t.cl = s.cl)) ∧
        (¬ waits → moveBusy s = false → sparesLeft s = 0 → Calls (.fenceMove rid l) s mbBru 0x90 [] (fun _ => False) (fun t => t.cl = s.cl)))) ∧
    (∀ p first again, (864 ≤ p ∨ trialOk s p = false) → Calls (.trialService rid p first again) s mbBru stBadArg [] (fun _ => False)
      (fun t => t.cl = s.cl)) ∧
    (∀ p first again, p < 864 → trialOk s p = true → GenMapReady s → Completes (.trialService rid p first again) s (fun t =>
      CallEnded t mbBru stOk [if first then 0 else if again = true ∧ clState s p ≠ csSuspect then 1 else 2] ∧
      ∃ v, TrialRan s v p first again ∧ SameBut (InPage mbBru) v t)) ∧
    (∀ a n, hbmTop s < a + n → Calls (.dmapLoad rid a n) s mbBru stBadArg [] (fun _ => False) (fun t => t.flash = s.flash)) ∧
    (∀ a n, a + n ≤ hbmTop s → let o := hbmPeek s a n
      let m := ohPayload o
      let c := verifyCause s otDefects o.length o
      let good := c = vcOk ∧ leAt 0x10 8 m = partSerial ∧ leAt 8 4 (defectMap s) < leAt 8 4 m ∧ mapOk m = true
      Completes (.dmapLoad rid a n) s (fun t => fld t rSecVerifyLast fSecVerifyLastCause = c % 16 ∧
        t.spm = s.spm ∧ t.hbm = s.hbm ∧ t.buf = s.buf ∧ t.lmap = s.lmap ∧
        (¬ good → CallEnded t mbBru (if c ≠ vcOk then 0x93 else if leAt 0x10 8 m ≠ partSerial then 0x92
            else if leAt 8 4 m ≤ leAt 8 4 (defectMap s) then 0x91 else stBadArg) [] ∧ t.flash = s.flash ∧
          RegsBut (fun k => InPage mbBru k ∨ V k) s t) ∧
        (good → CallEnded t mbBru stOk [] ∧ t.flash = tabPut otDefects o s.flash ∧
          (∀ d ∈ defectsOf m, (d.type = 1 ∨ d.type = 2 ∨ d.type = 3 ∨ d.type = 8) → serves s d.unit = true →
            fld t (rBruCl d.unit) fBruClPending = 1 ∧ clState t d.unit = clState s d.unit) ∧
          (∀ d ∈ defectsOf m, (d.type = 1 ∨ d.type = 3) → serves s d.unit = false → clState t d.unit = csBad) ∧
          RegsBut (fun k => InPage mbBru k ∨ V k ∨ MeasReg k ∨ k = rModStatus ∨ ∃ p, p < 864 ∧ (ClReg p k ∨ k = rClkFmax p ∨ k = rClkFset p)) s t)))
    ∧
    (∀ target a n, (4 < target ∨ hbmTop s < a + n) → Calls (.fwUpdate rid target a n) s mbBru stBadArg [] (fun _ => False)
      (fun t => t.flash = s.flash)) ∧
    (∀ target a n, target ≤ 4 → a + n ≤ hbmTop s → moveBusy s = true → Calls (.fwUpdate rid target a n) s mbBru 0x94 [] (fun _ => False)
      (fun t => t.flash = s.flash)) ∧
    (∀ target a n, target ≤ 4 → a + n ≤ hbmTop s → moveBusy s = false → let o := hbmPeek s a n
      let type := targetType target
      let c := verifyCause s type o.length o
      let bank := fld s rSecStatus fSecStatusBank
      Completes (.fwUpdate rid target a n) s (fun t => fld t rSecVerifyLast fSecVerifyLastCause = c % 16 ∧
        SameBut (fun k => InPage mbBru k ∨ V k ∨ MeasReg k) s t ∧
        (c ≠ vcOk → CallEnded t mbBru 0x93 [] ∧ t.flash = s.flash ∧ t.running = s.running) ∧
        (c = vcOk → target = 0 → sparesLeft s = 0 → CallEnded t mbBru 0x90 [] ∧ t.flash = s.flash) ∧
        (c = vcOk → target = 0 → sparesLeft s ≠ 0 → look t.calls mbBru = some ⟨0x1106, rid, [target, a, n], s.beat, []⟩ ∧
          t.flash = tabPut otCcFw o s.flash ∧ t.fwNew = (List.range 864).filter (fun p => clState s p == csStandby)) ∧
        (c = vcOk → target = 2 → CallEnded t mbBru stOk [] ∧ fld t rSecStatus fSecStatusBank = 1 - bank ∧
          t.flash = tabPut (if bank = 0 then bankB else otCidFw) o s.flash ∧ runningHeader t otCidFw = o.take objHeader) ∧
        (c = vcOk → target ≠ 0 → target ≠ 2 → CallEnded t mbBru stOk [] ∧ t.flash = tabPut type o s.flash ∧
          runningHeader t type = o.take objHeader))) ∧
    (∀ field e, (∀ v, fuseRead s field e = some v → Reads (.fuseRead rid field e) s mbBru [v]) ∧
      (fuseRead s field e = none → Calls (.fuseRead rid field e) s mbBru stBadArg [] (fun _ => False) (fun t => t.cl = s.cl))) ∧
    (∀ vin, Completes (.bruReset rid vin) s (fun t => t.answer = ⟨stOk, []⟩ ∧ PartReset s t ∧
      fld t rBruStatus fBruStatusWarm = bit (vin && s.trainRecord)))

/-- 17 R494-R502, Table 17-12: the calls of the SEC mailbox: ATTEST writes a report over its nonce with the measurements asked for and its
signature, CERT_READ and LOG_READ write what they name, EXTEND extends one of the registers 12 to 15, SVN_COMMIT and REVOKE, the owner's and
expert's alone, blow fuses where no object in use would be shut out. The model's choices that it rests on: log 13, 68, 69. -/
def Obligations.SecurityServicesComplete : Prop :=
  ∀ (s : State) (rid : Nat), Callable s rid mbSec →
    (fld s rSecStatus fSecStatusCertBad = 1 → ∀ x mask a, Calls (.attest rid x mask a) s mbSec 0xB5 [] (fun _ => False) (fun t => t.hbm = s.hbm)) ∧
    (fld s rSecStatus fSecStatusCertBad ≠ 1 → ∀ x mask a, x + 32 ≤ hbmTop s →
      let body := reportBody s (hbmPeek s x 32) mask
      let report := body ++ padTo 17088 (Config.slhSign identitySecret body)
      ((x % 64 ≠ 0 ∨ a % 64 ≠ 0 ∨ 65536 ≤ mask) → Calls (.attest rid x mask a) s mbSec stBadArg [] (fun _ => False) (fun t => t.hbm = s.hbm)) ∧
      (x % 64 = 0 → a % 64 = 0 → mask < 65536 → HbmReady s → HbmRun s a report.length →
        CallsHbm (.attest rid x mask a) s mbSec stOk [report.length] a report (fun _ => False) (fun t => t.measLog = s.measLog))) ∧
    (HbmReady s →
      (∀ a, let c := flashObj s otCert
        (HbmRun s a c.length → CallsHbm (.certRead rid a) s mbSec stOk [c.length] a c (fun _ => False) (fun t => t.flash = s.flash)) ∧
        (hbmTop s < a + c.length → Calls (.certRead rid a) s mbSec stBadArg [] (fun _ => False) (fun t => t.flash = s.flash))) ∧
      (∀ a first n, let es := (s.measLog.reverse.drop first).take n
        let bad := n = 0 ∨ 16384 < n ∨ fld s rSecStatus fSecStatusLogCount < first + n ∨ hbmTop s < a + 128 * n
        (bad → Calls (.logRead rid a first n) s mbSec stBadArg [] (fun _ => False) (fun t => t.measLog = s.measLog)) ∧
        (¬ bad → HbmRun s a (es.flatMap measBytes).length →
          CallsHbm (.logRead rid a first n) s mbSec stOk [es.length] a (es.flatMap measBytes) (fun _ => False)
            (fun t => t.measLog = s.measLog)))) ∧
    (∀ r a, r < 16 →
      (r < 12 → Calls (.extend rid r a) s mbSec 0xB4 [] (fun _ => False) (fun t => t.measLog = s.measLog)) ∧
      (12 ≤ r → a + 64 ≤ hbmTop s → Calls (.extend rid r a) s mbSec stOk [] MeasReg (fun t =>
        measReg t r = shake256 64 (measReg s r ++ hbmPeek s a 64) ∧
        fld t rSecStatus fSecStatusLogCount = (fld s rSecStatus fSecStatusLogCount + 1) % 2 ^ 32))) ∧
    (isOwner s rid = true →
      (secExpert s = false → ∀ x y, ∀ c ∈ [Instr.svnCommit rid x y, .revoke rid x], Calls c s mbSec stExpertOff [] (fun _ => False)
        (fun t => t.flash = s.flash)) ∧
      (secExpert s = true →
        (∀ c v, c < 9 → let old := fld s (rSecSvn c) fSecSvnCount
          let shut (h : List Byte) : Bool := svnClass (ohType h) == some c && ohSvn h < v
          ((63 < v ∨ v ≤ old) → Calls (.svnCommit rid c v) s mbSec 0xB3 [] (fun _ => False) (fun t => t.flash = s.flash)) ∧
          (∀ h, old < v → v ≤ 63 → (objectsStored s).find? shut = some h →
            Calls (.svnCommit rid c v) s mbSec 0xB2 [ohType h, ohSvn h] (fun _ => False) (fun t => t.flash = s.flash)) ∧
          (old < v → v ≤ 63 → (objectsStored s).find? shut = none →
            Calls (.svnCommit rid c v) s mbSec stOk [] (fun k => k = rSecSvn c) (fun t => fld t (rSecSvn c) fSecSvnCount = v))) ∧
        (∀ k, k < 4 → let used := (objectsInUse s).any (fun h => ohSlot h == k)
          (used = true → Calls (.revoke rid k) s mbSec 0xB0 [] (fun _ => False) (fun t => t.flash = s.flash)) ∧
          (used = false → lastKey s k = true → Calls (.revoke rid k) s mbSec 0xB1 [] (fun _ => False) (fun t => t.flash = s.flash)) ∧
          (used = false → lastKey s k = false → Calls (.revoke rid k) s mbSec stOk [] (fun i => i = rSecRoot k) (fun t =>
            fld t (rSecRoot k) fSecRootRevoked = 1)))))

/-- 14 R431, R432, 18 R506, R509, R510, R513-R515, R517: PRSNT_N and the input stage follow their times, and a part whose input closes or
opens is reset; a lost REFCLK ends service. I3C and PMBus answer what Tables 18-5 and 18-6 list, and refuse what they do not; the test ports
load their instructions, those that drive pins only while RST_N is low. The model's choices that it rests on: log 62, 90, 91, 105, 106, 107.
-/
def Obligations.ModuleCommandsComplete : Prop :=
  ∀ s : State,
    (∀ us, Completes (.prsntAssert us) s (fun t => t.presentAt = some us ∧ t.inputOpen = s.inputOpen ∧ SameAll s t)) ∧
    (∀ us vin bus p, s.inputOpen = true → s.presentAt = some p → p + 50000 ≤ us → 3200 ≤ vin → vin ≤ 4000 → vin ≤ bus + 100 →
      bus ≤ vin + 100 → Completes (.inputStageClose us vin bus) s (fun t => t.inputOpen = false ∧ stageNow t = 1 ∧ PartReset s t)) ∧
    (∀ us, us < 20 → Completes (.prsntRemove us) s (fun t => t.presentAt = (if s.inputOpen = true then none else s.presentAt) ∧
      t.inputOpen = s.inputOpen ∧ SameAll s t)) ∧
    (∀ us, 20 ≤ us → s.inputOpen = false → Completes (.prsntRemove us) s (fun t => t.presentAt = none ∧ t.inputOpen = true ∧
      PartReset s t)) ∧
    (∀ us, us ≤ 10 → Completes (.refclkLost us) s (fun t => t.cidLost = s.cidLost ∧ SameAll s t)) ∧
    (∀ us, 10 < us → partDown s = false → Completes (.refclkLost us) s (fun t => t.cidLost = true ∧ t.reqs = [] ∧ t.intake = [] ∧
      Recorded s t 5 9 0 0 ∧ t.faultLog.head? = t.records.head? ∧ SameBut Logged s t)) ∧
    (partDown s = false →
      (∀ a, (a < controlDev ∨ controlDev + 2 ^ 30 ≤ a) → ∀ v, ∀ c ∈ [Instr.i3cCsRead a, .i3cCsWrite a v],
        Completes c s (fun t => I3cAnswered t stUnmapped [] ∧ SameAll s t)) ∧
      (∀ o, o < 2 ^ 30 →
        (∀ st v u, csRead o 8 s = some (st, v, u) → Completes (.i3cCsRead (controlDev + o)) s (fun t =>
          I3cAnswered t st (if st = stOk then natLe 8 v else []) ∧ SameAll u t)) ∧
        (∀ v st u, csWrite 0x8000 o 8 v s = some (st, u) → Completes (.i3cCsWrite (controlDev + o) v) s (fun t =>
          I3cAnswered t st [] ∧ SameAll u t))) ∧
      (nextUnread s = none → Completes .i3cRecNext s (fun t => I3cAnswered t stOk (natLe 2 0) ∧ t.recRead = s.recRead ∧ SameAll s t)) ∧
      (∀ r, nextUnread s = some r → Completes .i3cRecNext s (fun t => I3cAnswered t stOk (natLe 2 296 ++ cperBytes r) ∧
        (cperBytes r).length = 296 ∧ t.recRead = r.num ∧ s.recAcked < r.num ∧ s.recRead < r.num ∧ SameAll s t)) ∧
      (∀ n, s.nRecords < n → Completes (.i3cRecAck n) s (fun t => I3cAnswered t stBadArg [] ∧ t.recAcked = s.recAcked ∧ SameAll s t)) ∧
      (∀ n, n ≤ s.nRecords → Completes (.i3cRecAck n) s (fun t => I3cAnswered t stOk [] ∧ t.recAcked = max s.recAcked n ∧
        (t.alertN = true ↔ ∃ r ∈ s.records, (r.cls = 3 ∨ r.cls = 5) ∧ s.recAcked < r.num ∧ n < r.num) ∧ SameAll s t)) ∧
      Completes .i3cStatus s (fun t => I3cAnswered t stOk (natLe 8 (rdN s rModStatus)) ∧ SameAll s t) ∧
      (∀ op, (op = 0 ∨ 5 < op) → Completes (.i3cOtherOp op) s (fun t => I3cAnswered t stBadService [] ∧ SameAll s t)) ∧
      Completes .pmbusClearFaults s (fun t => t.answer = ⟨stOk, []⟩ ∧ t.pmFaults = 0 ∧ SameAll s t) ∧
      (let word (c : Instr) (num : Int) (den : Nat) : Prop := Completes c s (fun t => ∃ w, t.answer = ⟨stOk, [w]⟩ ∧ Lin11 w num den ∧
         SentLast t .pmbus 0 [w] [] ∧ SameAll s t)
       Completes .pmbusStatusWord s (fun t => ∃ w, t.answer = ⟨stOk, [w]⟩ ∧ SentLast t .pmbus 0 [w] [] ∧ w = s.pmFaults ||| (
         if s.tripCause = none then 0 else 0x2000) ∧ SameAll s t) ∧
       word .pmbusReadVin (fld s rPwrInput fPwrInputVin) 100 ∧ word .pmbusReadIin (fld s rPwrInput fPwrInputIin) 10 ∧
       word .pmbusReadPin (fld s rPwrStatus fPwrStatusInputW) 1 ∧ word .pmbusReadTemperature1 (dieTemp s 19) 16 ∧
       (∀ x : Int, (∀ g, g < 144 → galTemp s g ≤ x) → (∀ k, k < 19 → dieTemp s k ≤ x) →
         ((∃ g, g < 144 ∧ galTemp s g = x) ∨ ∃ k, k < 19 ∧ dieTemp s k = x) → word .pmbusReadTemperature2 x 16)) ∧
      (let block (c : Instr) (l : List Byte) : Prop := Completes c s (fun t => t.answer = ⟨stOk, l.map (·.toNat)⟩ ∧
         SentLast t .pmbus 0 [] l ∧ SameAll s t)
       block .pmbusMfrId [0x46, 0x4F, 0x4C, 0x41, 0x55, 0x58] ∧
       block .pmbusMfrModel [0x58, 0x4B, 0x42, 0x38, 0x30, 0x30, 0x2D, 0x4D, 0x33, 0x36, 0x2D, 0x41, 0x32]) ∧
      (∀ code, code ∉ pmKnown → Completes (.pmbusOtherCommand code) s (fun t => t.answer = ⟨stBadArg, []⟩ ∧ bitAt t.pmFaults 1 = true ∧
        SameAll s t))) ∧
    (∀ d, d < 3 → s.inputOpen = false →
      let port (t : State) (ir drive : Nat) : Prop := t.jtagIr = listSet s.jtagIr d ir ∧ t.pinDrive = listSet s.pinDrive d drive ∧
        SameAll s t
      (∀ pins shift, Completes (.jtagExtest d true pins shift) s (fun t => port t 0 1 ∧ t.boundary = listSet s.boundary d shift ∧
        t.answer = ⟨stOk, pins.map bit⟩)) ∧
      (∀ pins shift, ∀ c ∈ [Instr.jtagExtest d false pins shift, .jtagClamp d false, .jtagHighz d false, .jtagBypass d],
        Completes c s (fun t => port t 0xFF 0 ∧ t.boundary = s.boundary)) ∧
      Completes (.jtagClamp d true) s (fun t => port t 3 1 ∧ t.boundary = s.boundary) ∧
      Completes (.jtagHighz d true) s (fun t => port t 4 2 ∧ t.boundary = s.boundary) ∧
      (∀ v, [0x2800156B, 0x2800256B, 0x2800356B][d]? = some v → Completes (.jtagIdcode d) s (fun t => port t 1 0 ∧
        t.boundary = s.boundary ∧ t.answer = ⟨stOk, [v]⟩)) ∧
      (∀ pins shift, Completes (.jtagSamplePreload d pins shift) s (fun t => port t 2 0 ∧ t.boundary = listSet s.boundary d shift ∧
        t.answer = ⟨stOk, pins.map bit⟩)))

/-- 01 R41-R44, 13 R376-R379, 15 R442-R449, 17 R497, 09 R292, 08 R277: RST_N low for 10 ms resets the part. Each stage of start-up does its
work, keeps its duration, and hands on to the next, or stops with FAIL_STAGE and a record: the straps and galleries, the firmware, the bad
lines, the numbers, the routers' ports, the MSDs, the self-tests, discovery, and READY. The model's choices that it rests on: log 92, 93,
94, 95. -/
def Obligations.StartStagesComplete : Prop :=
  ∀ s : State,
    (∀ us vin, us < 10000 → Completes (.rstNReset us vin) s (fun t => SameAll s t)) ∧
    (∀ us vin, 10000 ≤ us → s.inputOpen = false → Completes (.rstNReset us vin) s (fun t => PartReset s t ∧
      fld t rBruStatus fBruStatusWarm = bit (vin && s.trainRecord))) ∧
    (∀ pins shorts ms, stageReady s 1 = true →
      let straps (t : State) : Prop := fld t rModStraps fModStrapsGroup = pins % 16 ∧ fld t rModStraps fModStrapsSlot = pins / 16 % 16 ∧
        fld t rModStraps fModStrapsRole = strapRole pins ∧ fld t rModStraps fModStrapsGsize = pins / 2 ^ 10 % 16 ∧
        fld t rModStraps fModStrapsGcount = pins / 2 ^ 14 % 16 ∧ fld t rModStraps fModStrapsLatched = 1
      Completes (.stagePower pins false shorts ms) s (fun t => StageStopped s t 1 10 0 ∧ straps t ∧
        SameBut (fun k => Logged k ∨ k = rModStraps ∨ k = rBruStatus) s t) ∧
      (mapRecords s = [] → Completes (.stagePower pins true shorts ms) s (fun t => StagePassed t 1 ms ∧ t.beat = 0 ∧ straps t ∧
        t.tripCause = none ∧
        (∀ g, g < 144 → (g ∈ shorts → galState t g = gsDark ∧ galCause t g = 3) ∧
          (g ∉ shorts → galState t g = gsOn ∧ fld t (rPwrGal g) fPwrGalILim = 160 ∧ fld t (rPwrGal g) fPwrGalPhaseOk = 0xFFFF)) ∧
        (shorts = [] → SameBut (fun k => Logged k ∨ k = rModStraps ∨ k = rModStatus ∨ k = rBruStageMs 0 ∨ ∃ g, g < 144 ∧ k = rPwrGal g) s t ∧
          (s.tripCause = none → t.nRecords = s.nRecords) ∧ ∀ c, s.tripCause = some c → Recorded s t 5 10 0 0x16)))) ∧
    (∀ b, let u := advanceTo b s
      let at_ (n : Nat) (k : Nat) : Prop := k = rModStatus ∨ k = rBruStageMs (n - 1)
      (stageReady s 2 = true →
        let good (type key : Nat) : Prop := verifyCause u type (flashObj u key).length (flashObj u key) = vcOk
        let bank := fld u rSecStatus fSecStatusBank
        let other := if bank = 0 then bankB else otCidFw
        let rest := [otCoreFw, otCcFw, otSeFw, otFidFw]
        let ok := (good otCidFw (cidBank u) ∨ good otCidFw other) ∧ ∀ x ∈ rest, good x x
        let K (k : Nat) : Prop := MeasReg k ∨ k = rSecVerifyLast ∨ k = rSecVerifyLastCnt ∨ Logged k
        Completes (.stageSecureBoot b) s (fun t =>
          (ok → StagePassed t 2 (stageMs u) ∧ fld t rSecStatus fSecStatusBootOk = 1 ∧
            fld t rSecStatus fSecStatusCertBad = bit (certBad u) ∧ (∀ x ∈ rest, runningHeader t x = (flashObj u x).take objHeader) ∧
            (good otCidFw (cidBank u) → fld t rSecStatus fSecStatusBank = bank ∧
              runningHeader t otCidFw = (flashObj u (cidBank u)).take objHeader) ∧
            (¬ good otCidFw (cidBank u) → fld t rSecStatus fSecStatusBank = 1 - bank ∧
              runningHeader t otCidFw = (flashObj u other).take objHeader) ∧
            SameBut (fun k => K k ∨ at_ 2 k) u t) ∧
          (¬ ok → StageStopped u t 2 9 0 ∧ fld t rSecStatus fSecStatusBootOk = fld u rSecStatus fSecStatusBootOk ∧
            SameBut (fun k => K k ∨ k = rBruStatus) u t))) ∧
      (stageReady s 3 = true → Completes (.stageFusesRead b) s (fun t => StagePassed t 3 (stageMs u) ∧
        (∀ p, p < 864 → cluster t p = { cluster u p with
          spareLines := (cluster u p).spareLines ++ ((badLinesOf u).filter (fun (e : Nat × Nat × Nat) => e.1 = p)).map (·.2) }) ∧
        SameBut (at_ 3) u t)) ∧
      (stageReady s 4 = true → let order := byPosition.filter (fun p => !badAtStart u p)
        Completes (.stageDefectMerge b) s (fun t => StagePassed t 4 (stageMs u) ∧ t.numbered = true ∧
          (∀ p, p < 864 → fld t (rBruCl p) fBruClPosition = positionOf p ∧ byPosition[positionOf p]? = some p ∧
            (badAtStart u p = true → clState t p = clState u p ∧ fld t (rBruCl p) fBruClLogical = 0xFFFF)) ∧
          (∀ i p, order[i]? = some p →
            (i < 800 → physOf t i = p ∧ clState t p = csServing ∧ fld t (rBruCl p) fBruClLogical = i) ∧
            (800 ≤ i → clState t p = csStandby ∧ fld t (rBruCl p) fBruClLogical = 0xFFFF)) ∧
          (∀ l, order.length ≤ l → l < 800 → physOf t l = physOf u l) ∧
          t.spm = u.spm ∧ t.hbm = u.hbm ∧ t.buf = u.buf ∧
          RegsBut (fun k => MeasReg k ∨ at_ 4 k ∨ ∃ p, p < 864 ∧ (ClReg p k ∨ k = rClkFmax p)) u t)) ∧
      (∀ failed, stageReady s 5 = true → Completes (.stagePhaseTraining failed b) s (fun t => StagePassed t 5 (stageMs u) ∧
        (∀ p k, p < 864 → k < 7 → portPresent p k = true →
          let down := (p, k) ∈ failed ∨ ∃ d ∈ mapInForce u, d.type = 3 ∧ d.unit = p ∧ (bitAt d.data k = true ∨ (k = 4 ∧ d.data ≠ 0))
          (down → fld t (rClRtrPort p k) fClRtrPortState = 1 ∧ bitAt (rdN t (rClRtrStatus p)) k = false) ∧
          (¬ down → fld t (rClRtrPort p k) fClRtrPortState = 2 ∧ bitAt (rdN t (rClRtrStatus p)) k = true) ∧
          fld t (rClRtrPort p k) fClRtrPortLanding = bit (isLanding p k)) ∧
        SameBut (fun i => at_ 5 i ∨ ∃ p, p < 864 ∧ (i = rClRtrStatus p ∨ ∃ k, k < 7 ∧ i = rClRtrPort p k)) u t)) ∧
      (∀ failed, stageReady s 6 = true →
        let K (k : Nat) : Prop := at_ 6 k ∨ k = rBruDist ∨ Logged k ∨ ∃ n, n < 16 ∧ k = rMsdStatus n
        ((∀ n, n < 16 → n ∉ failed) → Completes (.stageMemoryTraining failed b) s (fun t => StagePassed t 6 (stageMs u) ∧
          (∀ n, n < 16 → msdState t n = msServing) ∧ fld t rModStatus fModStatusParityOn = bit u.parityFlash ∧ t.hbm = [] ∧
          fld t rBruDist fBruDistGen = (fld u rBruDist fBruDistGen + 1) % 65536 ∧ t.nRecords = u.nRecords ∧
          t.spm = u.spm ∧ t.lmap = u.lmap ∧ RegsBut K u t)) ∧
        (∀ n, n < 16 → (∀ m, m < 16 → (m ∈ failed ↔ m = n)) → u.parityFlash = true →
          Completes (.stageMemoryTraining failed b) s (fun t => StagePassed t 6 (stageMs u) ∧ msdState t n = msFailed ∧ n ∈ t.proxied ∧
            ∀ m, m < 16 → m ≠ n → msdState t m = msServing)) ∧
        (∀ n, n < 16 → n ∈ failed → (∀ m, m < n → m ∉ failed) → (u.parityFlash = false ∨ ∃ m ∈ failed, m < 16 ∧ m ≠ n) →
          Completes (.stageMemoryTraining failed b) s (fun t => stageNow t = 6 ∧ fld t rBruStatus fBruStatusFailStage = 6 ∧
            fld t rBruStatus fBruStatusFailCause = 0x15 ∧ fld t rBruStatus fBruStatusFailUnit = n ∧
            ∃ r, t.records.head? = some r ∧ r.cls = 3 ∧ r.unitKind = 4 ∧ r.unit = n ∧ r.cause = 0x15))) ∧
      (∀ fails, stageReady s 7 = true →
        let st (f : Field) : Nat := fld u rModStraps f
        let g := st fModStrapsGroup
        let sl := st fModStrapsSlot
        let role := st fModStrapsRole
        let clash := (sl = 0 ∧ role = 0) ∨ (sl ≠ 0 ∧ role ≠ 0) ∨ (16 * g + sl = 0 ∧ role ≠ 2) ∨ (16 * g + sl ≠ 0 ∧ role = 2)
        Completes (.stageSelfTests fails b) s (fun t => StagePassed t 7 (stageMs u) ∧
          (∀ p, p < 864 → (p ∈ fails → clState t p = csBad ∧ (clState u p ≠ csBad → fld t (rBruCl p) fBruClClass = 2)) ∧
            (p ∉ fails → clState u p = csServing → clState t p = csServing)) ∧
          (∀ x, x < 144 → galClocked u x = true →
            ((∀ p ∈ clustersOf x, clState t p = csBad ∨ clState t p = csStandby) → galState t x = gsParked) ∧
            ((∃ p ∈ clustersOf x, clState t p ≠ csBad ∧ clState t p ≠ csStandby) → galState t x = galState u x)) ∧
          (∀ d, d < 2 → fld t (rFabStatus d) fFabStatusDevice = 16 * g + sl ∧ fld t (rFabStatus d) fFabStatusRole = role ∧
            (clash → fld t (rFabStatus d) fFabStatusDisc = 4) ∧ (¬ clash → fld t (rFabStatus d) fFabStatusDisc = 1)) ∧
          fld t rEscStatus fEscStatusRole = (if role = 0 then 1 else if role = 1 then 2 else 0) ∧
          (clash → fld t rBruStatus fBruStatusFailStage = 8 ∧ fld t rBruStatus fBruStatusFailCause = 0x15) ∧
          (¬ clash → fld t rBruStatus fBruStatusFailStage = 0 ∧ LinksKnown t ∧ ∀ l ∈ t.links, l.state = lsTraining))) ∧
      (stageReady s 8 = true →
        let F (k : Nat) : Prop := k = rFabStatus 0 ∨ k = rFabStatus 1
        let K (k : Nat) : Prop := F k ∨ at_ 8 k ∨ k = rEscStatus ∨ k = rEscFault ∨ k = rEscFaultCnt 2 ∨ k = rEscAlign
        (∀ ref, roleAgrees u = true → Completes (.stageTopologyDiscovery ref b) s (fun t => StagePassed t 8 (stageMs u) ∧
          (∀ d, d < 2 → fld t (rFabStatus d) fFabStatusDisc = 3) ∧ fld t rEscStatus fEscStatusStepDone = 1 ∧
          (fld u rEscStatus fEscStatusRole = 0 → fld t rEscStatus fEscStatusAligned = 1 ∧ t.beat = u.beat ∧ rd t rEscFault = rd u rEscFault) ∧
          (fld u rEscStatus fEscStatusRole ≠ 0 → t.beat = ref ∧ bitAt (rdN t rEscFault) 2 = true ∧
            fld t rEscAlign fEscAlignOffset = ofSigned 32 ((u.beat : Int) - ref)) ∧ SameBut K u t)) ∧
        (roleAgrees u = false →
          (∀ ref, Completes (.stageTopologyDiscovery ref b) s (fun t => t.links = u.links ∧ SameAll u t)) ∧
          (u.beat < u.stageAt + 400000000 → Completes (.discoveryTimeout b) s (fun t => t.links = u.links ∧ SameAll u t)) ∧
          (u.stageAt + 400000000 ≤ u.beat → Completes (.discoveryTimeout b) s (fun t => StageStopped u t 8 9 0 ∧
            (∀ d, d < 2 → fld t (rFabStatus d) fFabStatusDisc = 4) ∧ SameBut (fun k => F k ∨ Logged k ∨ k = rBruStatus) u t)))) ∧
      (∀ bad, stageReady s 9 = true → Completes (.stageCalibreLoad bad b) s (fun t => stageNow t = 10 ∧
        fld t rModStatus fModStatusReady = 1 ∧ t.trainRecord = true ∧ t.suspects = [] ∧
        (flashObj u otImage = [] → StagePassed t 9 (stageMs u) ∧
          SameBut (fun k => at_ 9 k ∨ k = rBruStatus) u t))))

/-- 00 R5, R6, R13-R17, 06 R203-R206, 14 R433, 15 R450-R452: frames of the stair read and write registers, answer in their units' order,
fence, release, park and unpark, and report faults; three bad frames take a link down until it trains again. A write of control space is
refused in the order mapping, form, ownership, expert level, or taken with the status its register gives; a running call ends with what it
waited for. The model's choices that it rests on: log 21, 85, 100, 101, 104. -/
def Obligations.StairAndControlCommandsComplete : Prop :=
  ∀ s : State,
    (∀ tag rid o v, ∀ c ∈ [Instr.stairRead tag o, .stairWrite tag rid o v], (partDown s = true ∨ accessWaits s o = true) →
      Completes c s (fun t => t.stairReqs = s.stairReqs ∧ SameAll s t)) ∧
    (∀ tag o st v u, csRead o 8 s = some (st, v, u) → Completes (.stairRead tag o) s (fun t =>
      t.stairReqs = u.stairReqs ++ [⟨tag, stairUnit s o, st, v⟩] ∧ SameAll u t)) ∧
    (∀ tag rid o v st u, csWrite rid o 8 v s = some (st, u) → Completes (.stairWrite tag rid o v) s (fun t =>
      t.stairReqs = u.stairReqs ++ [⟨tag, stairUnit s o, st, 0⟩] ∧ SameAll u t)) ∧
    (∀ tag unit r, s.stairReqs.find? (fun q => q.unit == unit) = some r →
      (r.tag = tag → stairUp s unit = true → Completes (.stairResponse tag unit) s (fun t => t.answer = ⟨r.status, [r.value]⟩ ∧
        t.stairReqs = s.stairReqs.erase r ∧ SameAll s t)) ∧
      ((r.tag ≠ tag ∨ stairUp s unit = false) → Completes (.stairResponse tag unit) s (fun t => t.stairReqs = s.stairReqs ∧ SameAll s t))) ∧
    (∀ node q x p, node < 36 → q < 4 → x < 6 → (clustersOf (4 * node + q))[x]? = some p →
      partDown s = false → stairUp s (stairCode node q x) = true →
      (clState s p ≠ csBad → clState s p ≠ csFenced → GenMapReady s → Completes (.stairFence node q x) s (fun t => ClusterGone s t p)) ∧
      ((clState s p = csBad ∨ clState s p = csFenced) → Completes (.stairFence node q x) s (fun t => t.cl = s.cl ∧ SameAll s t)) ∧
      (let free := clState s p = csFenced ∧ 800 ≤ logicalOf s p ∧ fld s (rBruCl p) fBruClPending = 0
       (free → Completes (.stairUnfence node q x) s (fun t => clState t p = csStandby ∧ t.cl = s.cl ∧
         SameBut (fun k => k = rBruCl p ∨ k = rModStatus) s t)) ∧
       (¬ free → Completes (.stairUnfence node q x) s (fun t => t.cl = s.cl ∧ SameAll s t)))) ∧
    (∀ node q, node < 36 → q < 4 → partDown s = false → stairUp s (stairCode node q 14) = true →
      let g := 4 * node + q
      (galClocked s g = true → galFree s g = true → GenMapReady s → Completes (.stairPark node q) s (fun t => Parked s t g 7 ∧
        RegsBut (fun k => GalReg g k ∨ ThrReg k ∨ StopReg (clustersOf g) k) s t)) ∧
      ((galClocked s g = false ∨ galFree s g = false) → Completes (.stairPark node q) s (fun t => t.cl = s.cl ∧ SameAll s t)) ∧
      (galState s g = gsParked → Completes (.stairUnpark node q) s (fun t => Asking s t g ∧
        SameBut (fun k => k = rPwrGal g ∨ k = rModStatus) s t))) ∧
    (∀ kind unit c d at_ b, let u := advanceTo b s
      let up := partDown u = false ∧ stairUp u (reporter kind unit) = true ∧ at_ ≤ u.beat
      (up → Completes (.stairReport kind unit c d at_ b) s (fun t => exec (.faultReport kind unit c d b) s = .next t)) ∧
      (¬ up → Completes (.stairReport kind unit c d at_ b) s (fun t => t.nRecords = u.nRecords ∧ SameAll u t))) ∧
    (∀ k again, let n := if again = true then tabGet (fun _ => 0) s.stairRun k + 1 else 1
      (k ∉ s.stairDown → n < 3 → Completes (.stairFrameCrcFail k again) s (fun t => tabGet (fun _ => 0) t.stairRun k = n ∧
        t.stairDown = s.stairDown ∧ SameAll s t)) ∧
      (k ∉ s.stairDown → 3 ≤ n → Completes (.stairFrameCrcFail k again) s (fun t => tabGet (fun _ => 0) t.stairRun k = 0 ∧
        t.stairDown = k :: s.stairDown ∧ SameAll s t)) ∧
      Completes (.stairLinkRetrain k) s (fun t => k ∉ t.stairDown ∧ tabGet (fun _ => 0) t.stairRun k = 0 ∧
        (∀ j, j ≠ k → (j ∈ t.stairDown ↔ j ∈ s.stairDown)) ∧ SameAll s t)) ∧
    Completes .stairReservedOp s (fun t => t.stairReqs = s.stairReqs ∧ t.stairDown = s.stairDown ∧ SameAll s t) ∧
    (∀ rid o size v, let w : Instr := .controlRegisterWrite rid o size v
      let refused (st : Nat) : Prop := Completes w s (fun t => t.answer = ⟨st, []⟩ ∧ t.calls = s.calls ∧ SameAll s t)
      let gets (st : Nat) (u : State) : Prop := Completes w s (fun t => t.answer = ⟨st, []⟩ ∧ SameAll u t)
      ((partDown s = true ∨ accessWaits s o = true) → Completes w s (fun t => t.answer = s.answer ∧ SameAll s t)) ∧
      (partDown s = false → accessWaits s o = false →
        (place s o = .none → refused stUnmapped) ∧
        (place s o ≠ .none → (size ≠ 8 ∨ o % 8 ≠ 0) → refused stAlign) ∧
        (size = 8 → o % 8 = 0 →
          (∀ k page, place s o = .reg k page →
            (k = rSerOwnCmd → gets (ownCmd rid v s).1 (ownCmd rid v s).2) ∧
            (k ≠ rSerOwnCmd → mayWrite s rid (mbxBlock page) = false → refused stNotOwner) ∧
            (k ≠ rSerOwnCmd → mayWrite s rid (mbxBlock page) = true → rdN s (mbxExpertEn page) % 2 = 0 → refused stExpertOff) ∧
            (k ≠ rSerOwnCmd → mayWrite s rid (mbxBlock page) = true → rdN s (mbxExpertEn page) % 2 = 1 →
              gets (regWrite rid k v s).1 (regWrite rid k v s).2)) ∧
          (∀ k, place s o = .view k →
            (mayWrite s rid gbCl = false → refused stNotOwner) ∧
            (mayWrite s rid gbCl = true → rdN s (mbxExpertEn mbBru) % 2 = 0 → refused stExpertOff) ∧
            (mayWrite s rid gbCl = true → rdN s (mbxExpertEn mbBru) % 2 = 1 → gets (regWrite rid k v s).1 (regWrite rid k v s).2)) ∧
          (∀ page, place s o = .blank page → mayWrite s rid (mbxBlock page) = true → rdN s (mbxExpertEn page) % 2 = 1 → refused stOk) ∧
          (∀ page i, place s o = .mailbox page i →
            (mayWrite s rid (mbxBlock page) = false → refused stNotOwner) ∧
            (mayWrite s rid (mbxBlock page) = true →
              let sets (k x : Nat) : Prop := Completes w s (fun t => t.answer = ⟨stOk, []⟩ ∧ rd t k = BitVec.ofNat 64 x ∧
                SameBut (fun j => j = k) s t)
              (i = 0xFF8 → sets (mbxExpertEn page) (v % 2)) ∧
              (0x100 ≤ i → i < 0x180 → look s.calls page = none → sets (page + i) v) ∧
              (i = 0 → bitAt v 63 = true → v % 2 ^ 16 = 0 → Callable s rid page → Completes w s (fun t => t.answer = ⟨stOk, []⟩ ∧
                CallEnded t page stBadService [] ∧ SameBut (InPage page) s t))))))) ∧
    (∀ page b, let u := advanceTo b s
      (look u.calls page = none → Completes (.mailboxCallComplete page b) s (fun t => t.calls = u.calls ∧ SameAll u t)) ∧
      (∀ c, look u.calls page = some c →
        (callPoll page c u = none → Completes (.mailboxCallComplete page b) s (fun t => t.calls = u.calls ∧ SameAll u t)) ∧
        (∀ st res v, callPoll page c u = some (st, res, v) → Completes (.mailboxCallComplete page b) s (fun t =>
          CallEnded t page st res ∧ SameBut (InPage page) v t))))
end

