-- ==== Sys2Proof/Laws/State.lean ====
section
/-! SUPPORT. Every field of the state under each of the plain updates: unchanged, but for the one an update is of. -/
namespace Sys2Proof.Machine

@[simp] theorem wr_toLeafState (k : Nat) (v : Word) (s : State) : (wr k v s).toLeafState = s.toLeafState := rfl
@[simp] theorem wr_toRecordState (k : Nat) (v : Word) (s : State) : (wr k v s).toRecordState = s.toRecordState := rfl
@[simp] theorem wr_toCallState (k : Nat) (v : Word) (s : State) : (wr k v s).toCallState = s.toCallState := rfl
@[simp] theorem wr_toStackState (k : Nat) (v : Word) (s : State) : (wr k v s).toStackState = s.toStackState := rfl
@[simp] theorem wr_toMeshState (k : Nat) (v : Word) (s : State) : (wr k v s).toMeshState = s.toMeshState := rfl
@[simp] theorem wr_toImageState (k : Nat) (v : Word) (s : State) : (wr k v s).toImageState = s.toImageState := rfl
@[simp] theorem wr_toSericaState (k : Nat) (v : Word) (s : State) : (wr k v s).toSericaState = s.toSericaState := rfl
@[simp] theorem wr_toPowerState (k : Nat) (v : Word) (s : State) : (wr k v s).toPowerState = s.toPowerState := rfl
@[simp] theorem wr_toFabricState (k : Nat) (v : Word) (s : State) : (wr k v s).toFabricState = s.toFabricState := rfl
@[simp] theorem wr_toSecureState (k : Nat) (v : Word) (s : State) : (wr k v s).toSecureState = s.toSecureState := rfl
@[simp] theorem wr_toServiceState (k : Nat) (v : Word) (s : State) : (wr k v s).toServiceState = s.toServiceState := rfl
@[simp] theorem wr_toObserveState (k : Nat) (v : Word) (s : State) : (wr k v s).toObserveState = s.toObserveState := rfl
@[simp] theorem wr_toEscState (k : Nat) (v : Word) (s : State) : (wr k v s).toEscState = s.toEscState := rfl
@[simp] theorem wr_toRecoverState (k : Nat) (v : Word) (s : State) : (wr k v s).toRecoverState = s.toRecoverState := rfl
@[simp] theorem wr_toModuleState (k : Nat) (v : Word) (s : State) : (wr k v s).toModuleState = s.toModuleState := rfl
@[simp] theorem wr_pending (k : Nat) (v : Word) (s : State) : (wr k v s).pending = s.pending := rfl
@[simp] theorem wr_free (k : Nat) (v : Word) (s : State) : (wr k v s).free = s.free := rfl
@[simp] theorem wr_beat (k : Nat) (v : Word) (s : State) : (wr k v s).beat = s.beat := rfl
@[simp] theorem wr_answer (k : Nat) (v : Word) (s : State) : (wr k v s).answer = s.answer := rfl
@[simp] theorem wr_sent (k : Nat) (v : Word) (s : State) : (wr k v s).sent = s.sent := rfl
@[simp] theorem wr_spm (k : Nat) (v : Word) (s : State) : (wr k v s).spm = s.spm := rfl
@[simp] theorem wr_hbm (k : Nat) (v : Word) (s : State) : (wr k v s).hbm = s.hbm := rfl
@[simp] theorem wr_buf (k : Nat) (v : Word) (s : State) : (wr k v s).buf = s.buf := rfl
@[simp] theorem wr_lmap (k : Nat) (v : Word) (s : State) : (wr k v s).lmap = s.lmap := rfl
@[simp] theorem wr_cl (k : Nat) (v : Word) (s : State) : (wr k v s).cl = s.cl := rfl

@[simp] theorem setFld_toLeafState (k : Nat) (f : Field) (x : Nat) (s : State) : (setFld k f x s).toLeafState = s.toLeafState := rfl
@[simp] theorem setFld_toRecordState (k : Nat) (f : Field) (x : Nat) (s : State) : (setFld k f x s).toRecordState = s.toRecordState := rfl
@[simp] theorem setFld_toCallState (k : Nat) (f : Field) (x : Nat) (s : State) : (setFld k f x s).toCallState = s.toCallState := rfl
@[simp] theorem setFld_toStackState (k : Nat) (f : Field) (x : Nat) (s : State) : (setFld k f x s).toStackState = s.toStackState := rfl
@[simp] theorem setFld_toMeshState (k : Nat) (f : Field) (x : Nat) (s : State) : (setFld k f x s).toMeshState = s.toMeshState := rfl
@[simp] theorem setFld_toImageState (k : Nat) (f : Field) (x : Nat) (s : State) : (setFld k f x s).toImageState = s.toImageState := rfl
@[simp] theorem setFld_toSericaState (k : Nat) (f : Field) (x : Nat) (s : State) : (setFld k f x s).toSericaState = s.toSericaState := rfl
@[simp] theorem setFld_toPowerState (k : Nat) (f : Field) (x : Nat) (s : State) : (setFld k f x s).toPowerState = s.toPowerState := rfl
@[simp] theorem setFld_toFabricState (k : Nat) (f : Field) (x : Nat) (s : State) : (setFld k f x s).toFabricState = s.toFabricState := rfl
@[simp] theorem setFld_toSecureState (k : Nat) (f : Field) (x : Nat) (s : State) : (setFld k f x s).toSecureState = s.toSecureState := rfl
@[simp] theorem setFld_toServiceState (k : Nat) (f : Field) (x : Nat) (s : State) : (setFld k f x s).toServiceState = s.toServiceState := rfl
@[simp] theorem setFld_toObserveState (k : Nat) (f : Field) (x : Nat) (s : State) : (setFld k f x s).toObserveState = s.toObserveState := rfl
@[simp] theorem setFld_toEscState (k : Nat) (f : Field) (x : Nat) (s : State) : (setFld k f x s).toEscState = s.toEscState := rfl
@[simp] theorem setFld_toRecoverState (k : Nat) (f : Field) (x : Nat) (s : State) : (setFld k f x s).toRecoverState = s.toRecoverState := rfl
@[simp] theorem setFld_toModuleState (k : Nat) (f : Field) (x : Nat) (s : State) : (setFld k f x s).toModuleState = s.toModuleState := rfl
@[simp] theorem setFld_pending (k : Nat) (f : Field) (x : Nat) (s : State) : (setFld k f x s).pending = s.pending := rfl
@[simp] theorem setFld_free (k : Nat) (f : Field) (x : Nat) (s : State) : (setFld k f x s).free = s.free := rfl
@[simp] theorem setFld_beat (k : Nat) (f : Field) (x : Nat) (s : State) : (setFld k f x s).beat = s.beat := rfl
@[simp] theorem setFld_answer (k : Nat) (f : Field) (x : Nat) (s : State) : (setFld k f x s).answer = s.answer := rfl
@[simp] theorem setFld_sent (k : Nat) (f : Field) (x : Nat) (s : State) : (setFld k f x s).sent = s.sent := rfl
@[simp] theorem setFld_spm (k : Nat) (f : Field) (x : Nat) (s : State) : (setFld k f x s).spm = s.spm := rfl
@[simp] theorem setFld_hbm (k : Nat) (f : Field) (x : Nat) (s : State) : (setFld k f x s).hbm = s.hbm := rfl
@[simp] theorem setFld_buf (k : Nat) (f : Field) (x : Nat) (s : State) : (setFld k f x s).buf = s.buf := rfl
@[simp] theorem setFld_lmap (k : Nat) (f : Field) (x : Nat) (s : State) : (setFld k f x s).lmap = s.lmap := rfl
@[simp] theorem setFld_cl (k : Nat) (f : Field) (x : Nat) (s : State) : (setFld k f x s).cl = s.cl := rfl

@[simp] theorem setFlds_toLeafState (k : Nat) (l : List (Field × Nat)) (s : State) : (setFlds k l s).toLeafState = s.toLeafState := rfl
@[simp] theorem setFlds_toRecordState (k : Nat) (l : List (Field × Nat)) (s : State) : (setFlds k l s).toRecordState = s.toRecordState := rfl
@[simp] theorem setFlds_toCallState (k : Nat) (l : List (Field × Nat)) (s : State) : (setFlds k l s).toCallState = s.toCallState := rfl
@[simp] theorem setFlds_toStackState (k : Nat) (l : List (Field × Nat)) (s : State) : (setFlds k l s).toStackState = s.toStackState := rfl
@[simp] theorem setFlds_toMeshState (k : Nat) (l : List (Field × Nat)) (s : State) : (setFlds k l s).toMeshState = s.toMeshState := rfl
@[simp] theorem setFlds_toImageState (k : Nat) (l : List (Field × Nat)) (s : State) : (setFlds k l s).toImageState = s.toImageState := rfl
@[simp] theorem setFlds_toSericaState (k : Nat) (l : List (Field × Nat)) (s : State) : (setFlds k l s).toSericaState = s.toSericaState := rfl
@[simp] theorem setFlds_toPowerState (k : Nat) (l : List (Field × Nat)) (s : State) : (setFlds k l s).toPowerState = s.toPowerState := rfl
@[simp] theorem setFlds_toFabricState (k : Nat) (l : List (Field × Nat)) (s : State) : (setFlds k l s).toFabricState = s.toFabricState := rfl
@[simp] theorem setFlds_toSecureState (k : Nat) (l : List (Field × Nat)) (s : State) : (setFlds k l s).toSecureState = s.toSecureState := rfl
@[simp] theorem setFlds_toServiceState (k : Nat) (l : List (Field × Nat)) (s : State) : (setFlds k l s).toServiceState = s.toServiceState := rfl
@[simp] theorem setFlds_toObserveState (k : Nat) (l : List (Field × Nat)) (s : State) : (setFlds k l s).toObserveState = s.toObserveState := rfl
@[simp] theorem setFlds_toEscState (k : Nat) (l : List (Field × Nat)) (s : State) : (setFlds k l s).toEscState = s.toEscState := rfl
@[simp] theorem setFlds_toRecoverState (k : Nat) (l : List (Field × Nat)) (s : State) : (setFlds k l s).toRecoverState = s.toRecoverState := rfl
@[simp] theorem setFlds_toModuleState (k : Nat) (l : List (Field × Nat)) (s : State) : (setFlds k l s).toModuleState = s.toModuleState := rfl
@[simp] theorem setFlds_pending (k : Nat) (l : List (Field × Nat)) (s : State) : (setFlds k l s).pending = s.pending := rfl
@[simp] theorem setFlds_free (k : Nat) (l : List (Field × Nat)) (s : State) : (setFlds k l s).free = s.free := rfl
@[simp] theorem setFlds_beat (k : Nat) (l : List (Field × Nat)) (s : State) : (setFlds k l s).beat = s.beat := rfl
@[simp] theorem setFlds_answer (k : Nat) (l : List (Field × Nat)) (s : State) : (setFlds k l s).answer = s.answer := rfl
@[simp] theorem setFlds_sent (k : Nat) (l : List (Field × Nat)) (s : State) : (setFlds k l s).sent = s.sent := rfl
@[simp] theorem setFlds_spm (k : Nat) (l : List (Field × Nat)) (s : State) : (setFlds k l s).spm = s.spm := rfl
@[simp] theorem setFlds_hbm (k : Nat) (l : List (Field × Nat)) (s : State) : (setFlds k l s).hbm = s.hbm := rfl
@[simp] theorem setFlds_buf (k : Nat) (l : List (Field × Nat)) (s : State) : (setFlds k l s).buf = s.buf := rfl
@[simp] theorem setFlds_lmap (k : Nat) (l : List (Field × Nat)) (s : State) : (setFlds k l s).lmap = s.lmap := rfl
@[simp] theorem setFlds_cl (k : Nat) (l : List (Field × Nat)) (s : State) : (setFlds k l s).cl = s.cl := rfl

@[simp] theorem raise_toLeafState (k b c : Nat) (s : State) : (raise k b c s).toLeafState = s.toLeafState := rfl
@[simp] theorem raise_toRecordState (k b c : Nat) (s : State) : (raise k b c s).toRecordState = s.toRecordState := rfl
@[simp] theorem raise_toCallState (k b c : Nat) (s : State) : (raise k b c s).toCallState = s.toCallState := rfl
@[simp] theorem raise_toStackState (k b c : Nat) (s : State) : (raise k b c s).toStackState = s.toStackState := rfl
@[simp] theorem raise_toMeshState (k b c : Nat) (s : State) : (raise k b c s).toMeshState = s.toMeshState := rfl
@[simp] theorem raise_toImageState (k b c : Nat) (s : State) : (raise k b c s).toImageState = s.toImageState := rfl
@[simp] theorem raise_toSericaState (k b c : Nat) (s : State) : (raise k b c s).toSericaState = s.toSericaState := rfl
@[simp] theorem raise_toPowerState (k b c : Nat) (s : State) : (raise k b c s).toPowerState = s.toPowerState := rfl
@[simp] theorem raise_toFabricState (k b c : Nat) (s : State) : (raise k b c s).toFabricState = s.toFabricState := rfl
@[simp] theorem raise_toSecureState (k b c : Nat) (s : State) : (raise k b c s).toSecureState = s.toSecureState := rfl
@[simp] theorem raise_toServiceState (k b c : Nat) (s : State) : (raise k b c s).toServiceState = s.toServiceState := rfl
@[simp] theorem raise_toObserveState (k b c : Nat) (s : State) : (raise k b c s).toObserveState = s.toObserveState := rfl
@[simp] theorem raise_toEscState (k b c : Nat) (s : State) : (raise k b c s).toEscState = s.toEscState := rfl
@[simp] theorem raise_toRecoverState (k b c : Nat) (s : State) : (raise k b c s).toRecoverState = s.toRecoverState := rfl
@[simp] theorem raise_toModuleState (k b c : Nat) (s : State) : (raise k b c s).toModuleState = s.toModuleState := rfl
@[simp] theorem raise_pending (k b c : Nat) (s : State) : (raise k b c s).pending = s.pending := rfl
@[simp] theorem raise_free (k b c : Nat) (s : State) : (raise k b c s).free = s.free := rfl
@[simp] theorem raise_beat (k b c : Nat) (s : State) : (raise k b c s).beat = s.beat := rfl
@[simp] theorem raise_answer (k b c : Nat) (s : State) : (raise k b c s).answer = s.answer := rfl
@[simp] theorem raise_sent (k b c : Nat) (s : State) : (raise k b c s).sent = s.sent := rfl
@[simp] theorem raise_spm (k b c : Nat) (s : State) : (raise k b c s).spm = s.spm := rfl
@[simp] theorem raise_hbm (k b c : Nat) (s : State) : (raise k b c s).hbm = s.hbm := rfl
@[simp] theorem raise_buf (k b c : Nat) (s : State) : (raise k b c s).buf = s.buf := rfl
@[simp] theorem raise_lmap (k b c : Nat) (s : State) : (raise k b c s).lmap = s.lmap := rfl
@[simp] theorem raise_cl (k b c : Nat) (s : State) : (raise k b c s).cl = s.cl := rfl

@[simp] theorem setCluster_toLeafState (p : Nat) (c : Cluster) (s : State) : (setCluster p c s).toLeafState = s.toLeafState := rfl
@[simp] theorem setCluster_toRecordState (p : Nat) (c : Cluster) (s : State) : (setCluster p c s).toRecordState = s.toRecordState := rfl
@[simp] theorem setCluster_toCallState (p : Nat) (c : Cluster) (s : State) : (setCluster p c s).toCallState = s.toCallState := rfl
@[simp] theorem setCluster_toStackState (p : Nat) (c : Cluster) (s : State) : (setCluster p c s).toStackState = s.toStackState := rfl
@[simp] theorem setCluster_toMeshState (p : Nat) (c : Cluster) (s : State) : (setCluster p c s).toMeshState = s.toMeshState := rfl
@[simp] theorem setCluster_toImageState (p : Nat) (c : Cluster) (s : State) : (setCluster p c s).toImageState = s.toImageState := rfl
@[simp] theorem setCluster_toSericaState (p : Nat) (c : Cluster) (s : State) : (setCluster p c s).toSericaState = s.toSericaState := rfl
@[simp] theorem setCluster_toPowerState (p : Nat) (c : Cluster) (s : State) : (setCluster p c s).toPowerState = s.toPowerState := rfl
@[simp] theorem setCluster_toFabricState (p : Nat) (c : Cluster) (s : State) : (setCluster p c s).toFabricState = s.toFabricState := rfl
@[simp] theorem setCluster_toSecureState (p : Nat) (c : Cluster) (s : State) : (setCluster p c s).toSecureState = s.toSecureState := rfl
@[simp] theorem setCluster_toServiceState (p : Nat) (c : Cluster) (s : State) : (setCluster p c s).toServiceState = s.toServiceState := rfl
@[simp] theorem setCluster_toObserveState (p : Nat) (c : Cluster) (s : State) : (setCluster p c s).toObserveState = s.toObserveState := rfl
@[simp] theorem setCluster_toEscState (p : Nat) (c : Cluster) (s : State) : (setCluster p c s).toEscState = s.toEscState := rfl
@[simp] theorem setCluster_toRecoverState (p : Nat) (c : Cluster) (s : State) : (setCluster p c s).toRecoverState = s.toRecoverState := rfl
@[simp] theorem setCluster_toModuleState (p : Nat) (c : Cluster) (s : State) : (setCluster p c s).toModuleState = s.toModuleState := rfl
@[simp] theorem setCluster_pending (p : Nat) (c : Cluster) (s : State) : (setCluster p c s).pending = s.pending := rfl
@[simp] theorem setCluster_free (p : Nat) (c : Cluster) (s : State) : (setCluster p c s).free = s.free := rfl
@[simp] theorem setCluster_beat (p : Nat) (c : Cluster) (s : State) : (setCluster p c s).beat = s.beat := rfl
@[simp] theorem setCluster_answer (p : Nat) (c : Cluster) (s : State) : (setCluster p c s).answer = s.answer := rfl
@[simp] theorem setCluster_sent (p : Nat) (c : Cluster) (s : State) : (setCluster p c s).sent = s.sent := rfl
@[simp] theorem setCluster_regs (p : Nat) (c : Cluster) (s : State) : (setCluster p c s).regs = s.regs := rfl
@[simp] theorem setCluster_spm (p : Nat) (c : Cluster) (s : State) : (setCluster p c s).spm = s.spm := rfl
@[simp] theorem setCluster_hbm (p : Nat) (c : Cluster) (s : State) : (setCluster p c s).hbm = s.hbm := rfl
@[simp] theorem setCluster_buf (p : Nat) (c : Cluster) (s : State) : (setCluster p c s).buf = s.buf := rfl
@[simp] theorem setCluster_lmap (p : Nat) (c : Cluster) (s : State) : (setCluster p c s).lmap = s.lmap := rfl

@[simp] theorem modCluster_toLeafState (p : Nat) (f : Cluster → Cluster) (s : State) : (modCluster p f s).toLeafState = s.toLeafState := rfl
@[simp] theorem modCluster_toRecordState (p : Nat) (f : Cluster → Cluster) (s : State) : (modCluster p f s).toRecordState = s.toRecordState := rfl
@[simp] theorem modCluster_toCallState (p : Nat) (f : Cluster → Cluster) (s : State) : (modCluster p f s).toCallState = s.toCallState := rfl
@[simp] theorem modCluster_toStackState (p : Nat) (f : Cluster → Cluster) (s : State) : (modCluster p f s).toStackState = s.toStackState := rfl
@[simp] theorem modCluster_toMeshState (p : Nat) (f : Cluster → Cluster) (s : State) : (modCluster p f s).toMeshState = s.toMeshState := rfl
@[simp] theorem modCluster_toImageState (p : Nat) (f : Cluster → Cluster) (s : State) : (modCluster p f s).toImageState = s.toImageState := rfl
@[simp] theorem modCluster_toSericaState (p : Nat) (f : Cluster → Cluster) (s : State) : (modCluster p f s).toSericaState = s.toSericaState := rfl
@[simp] theorem modCluster_toPowerState (p : Nat) (f : Cluster → Cluster) (s : State) : (modCluster p f s).toPowerState = s.toPowerState := rfl
@[simp] theorem modCluster_toFabricState (p : Nat) (f : Cluster → Cluster) (s : State) : (modCluster p f s).toFabricState = s.toFabricState := rfl
@[simp] theorem modCluster_toSecureState (p : Nat) (f : Cluster → Cluster) (s : State) : (modCluster p f s).toSecureState = s.toSecureState := rfl
@[simp] theorem modCluster_toServiceState (p : Nat) (f : Cluster → Cluster) (s : State) : (modCluster p f s).toServiceState = s.toServiceState := rfl
@[simp] theorem modCluster_toObserveState (p : Nat) (f : Cluster → Cluster) (s : State) : (modCluster p f s).toObserveState = s.toObserveState := rfl
@[simp] theorem modCluster_toEscState (p : Nat) (f : Cluster → Cluster) (s : State) : (modCluster p f s).toEscState = s.toEscState := rfl
@[simp] theorem modCluster_toRecoverState (p : Nat) (f : Cluster → Cluster) (s : State) : (modCluster p f s).toRecoverState = s.toRecoverState := rfl
@[simp] theorem modCluster_toModuleState (p : Nat) (f : Cluster → Cluster) (s : State) : (modCluster p f s).toModuleState = s.toModuleState := rfl
@[simp] theorem modCluster_pending (p : Nat) (f : Cluster → Cluster) (s : State) : (modCluster p f s).pending = s.pending := rfl
@[simp] theorem modCluster_free (p : Nat) (f : Cluster → Cluster) (s : State) : (modCluster p f s).free = s.free := rfl
@[simp] theorem modCluster_beat (p : Nat) (f : Cluster → Cluster) (s : State) : (modCluster p f s).beat = s.beat := rfl
@[simp] theorem modCluster_answer (p : Nat) (f : Cluster → Cluster) (s : State) : (modCluster p f s).answer = s.answer := rfl
@[simp] theorem modCluster_sent (p : Nat) (f : Cluster → Cluster) (s : State) : (modCluster p f s).sent = s.sent := rfl
@[simp] theorem modCluster_regs (p : Nat) (f : Cluster → Cluster) (s : State) : (modCluster p f s).regs = s.regs := rfl
@[simp] theorem modCluster_spm (p : Nat) (f : Cluster → Cluster) (s : State) : (modCluster p f s).spm = s.spm := rfl
@[simp] theorem modCluster_hbm (p : Nat) (f : Cluster → Cluster) (s : State) : (modCluster p f s).hbm = s.hbm := rfl
@[simp] theorem modCluster_buf (p : Nat) (f : Cluster → Cluster) (s : State) : (modCluster p f s).buf = s.buf := rfl
@[simp] theorem modCluster_lmap (p : Nat) (f : Cluster → Cluster) (s : State) : (modCluster p f s).lmap = s.lmap := rfl

@[simp] theorem answerWith_toLeafState (st : Nat) (d : List Nat) (s : State) : (answerWith st d s).toLeafState = s.toLeafState := rfl
@[simp] theorem answerWith_toRecordState (st : Nat) (d : List Nat) (s : State) : (answerWith st d s).toRecordState = s.toRecordState := rfl
@[simp] theorem answerWith_toCallState (st : Nat) (d : List Nat) (s : State) : (answerWith st d s).toCallState = s.toCallState := rfl
@[simp] theorem answerWith_toStackState (st : Nat) (d : List Nat) (s : State) : (answerWith st d s).toStackState = s.toStackState := rfl
@[simp] theorem answerWith_toMeshState (st : Nat) (d : List Nat) (s : State) : (answerWith st d s).toMeshState = s.toMeshState := rfl
@[simp] theorem answerWith_toImageState (st : Nat) (d : List Nat) (s : State) : (answerWith st d s).toImageState = s.toImageState := rfl
@[simp] theorem answerWith_toSericaState (st : Nat) (d : List Nat) (s : State) : (answerWith st d s).toSericaState = s.toSericaState := rfl
@[simp] theorem answerWith_toPowerState (st : Nat) (d : List Nat) (s : State) : (answerWith st d s).toPowerState = s.toPowerState := rfl
@[simp] theorem answerWith_toFabricState (st : Nat) (d : List Nat) (s : State) : (answerWith st d s).toFabricState = s.toFabricState := rfl
@[simp] theorem answerWith_toSecureState (st : Nat) (d : List Nat) (s : State) : (answerWith st d s).toSecureState = s.toSecureState := rfl
@[simp] theorem answerWith_toServiceState (st : Nat) (d : List Nat) (s : State) : (answerWith st d s).toServiceState = s.toServiceState := rfl
@[simp] theorem answerWith_toObserveState (st : Nat) (d : List Nat) (s : State) : (answerWith st d s).toObserveState = s.toObserveState := rfl
@[simp] theorem answerWith_toEscState (st : Nat) (d : List Nat) (s : State) : (answerWith st d s).toEscState = s.toEscState := rfl
@[simp] theorem answerWith_toRecoverState (st : Nat) (d : List Nat) (s : State) : (answerWith st d s).toRecoverState = s.toRecoverState := rfl
@[simp] theorem answerWith_toModuleState (st : Nat) (d : List Nat) (s : State) : (answerWith st d s).toModuleState = s.toModuleState := rfl
@[simp] theorem answerWith_pending (st : Nat) (d : List Nat) (s : State) : (answerWith st d s).pending = s.pending := rfl
@[simp] theorem answerWith_free (st : Nat) (d : List Nat) (s : State) : (answerWith st d s).free = s.free := rfl
@[simp] theorem answerWith_beat (st : Nat) (d : List Nat) (s : State) : (answerWith st d s).beat = s.beat := rfl
@[simp] theorem answerWith_sent (st : Nat) (d : List Nat) (s : State) : (answerWith st d s).sent = s.sent := rfl
@[simp] theorem answerWith_regs (st : Nat) (d : List Nat) (s : State) : (answerWith st d s).regs = s.regs := rfl
@[simp] theorem answerWith_spm (st : Nat) (d : List Nat) (s : State) : (answerWith st d s).spm = s.spm := rfl
@[simp] theorem answerWith_hbm (st : Nat) (d : List Nat) (s : State) : (answerWith st d s).hbm = s.hbm := rfl
@[simp] theorem answerWith_buf (st : Nat) (d : List Nat) (s : State) : (answerWith st d s).buf = s.buf := rfl
@[simp] theorem answerWith_lmap (st : Nat) (d : List Nat) (s : State) : (answerWith st d s).lmap = s.lmap := rfl
@[simp] theorem answerWith_cl (st : Nat) (d : List Nat) (s : State) : (answerWith st d s).cl = s.cl := rfl

@[simp] theorem send_toLeafState (k : MsgKind) (p : Nat) (a : List Nat) (d : List Byte) (s : State) : (send k p a d s).toLeafState = s.toLeafState := rfl
@[simp] theorem send_toRecordState (k : MsgKind) (p : Nat) (a : List Nat) (d : List Byte) (s : State) : (send k p a d s).toRecordState = s.toRecordState := rfl
@[simp] theorem send_toCallState (k : MsgKind) (p : Nat) (a : List Nat) (d : List Byte) (s : State) : (send k p a d s).toCallState = s.toCallState := rfl
@[simp] theorem send_toStackState (k : MsgKind) (p : Nat) (a : List Nat) (d : List Byte) (s : State) : (send k p a d s).toStackState = s.toStackState := rfl
@[simp] theorem send_toMeshState (k : MsgKind) (p : Nat) (a : List Nat) (d : List Byte) (s : State) : (send k p a d s).toMeshState = s.toMeshState := rfl
@[simp] theorem send_toImageState (k : MsgKind) (p : Nat) (a : List Nat) (d : List Byte) (s : State) : (send k p a d s).toImageState = s.toImageState := rfl
@[simp] theorem send_toSericaState (k : MsgKind) (p : Nat) (a : List Nat) (d : List Byte) (s : State) : (send k p a d s).toSericaState = s.toSericaState := rfl
@[simp] theorem send_toPowerState (k : MsgKind) (p : Nat) (a : List Nat) (d : List Byte) (s : State) : (send k p a d s).toPowerState = s.toPowerState := rfl
@[simp] theorem send_toFabricState (k : MsgKind) (p : Nat) (a : List Nat) (d : List Byte) (s : State) : (send k p a d s).toFabricState = s.toFabricState := rfl
@[simp] theorem send_toSecureState (k : MsgKind) (p : Nat) (a : List Nat) (d : List Byte) (s : State) : (send k p a d s).toSecureState = s.toSecureState := rfl
@[simp] theorem send_toServiceState (k : MsgKind) (p : Nat) (a : List Nat) (d : List Byte) (s : State) : (send k p a d s).toServiceState = s.toServiceState := rfl
@[simp] theorem send_toObserveState (k : MsgKind) (p : Nat) (a : List Nat) (d : List Byte) (s : State) : (send k p a d s).toObserveState = s.toObserveState := rfl
@[simp] theorem send_toEscState (k : MsgKind) (p : Nat) (a : List Nat) (d : List Byte) (s : State) : (send k p a d s).toEscState = s.toEscState := rfl
@[simp] theorem send_toRecoverState (k : MsgKind) (p : Nat) (a : List Nat) (d : List Byte) (s : State) : (send k p a d s).toRecoverState = s.toRecoverState := rfl
@[simp] theorem send_toModuleState (k : MsgKind) (p : Nat) (a : List Nat) (d : List Byte) (s : State) : (send k p a d s).toModuleState = s.toModuleState := rfl
@[simp] theorem send_pending (k : MsgKind) (p : Nat) (a : List Nat) (d : List Byte) (s : State) : (send k p a d s).pending = s.pending := rfl
@[simp] theorem send_free (k : MsgKind) (p : Nat) (a : List Nat) (d : List Byte) (s : State) : (send k p a d s).free = s.free := rfl
@[simp] theorem send_beat (k : MsgKind) (p : Nat) (a : List Nat) (d : List Byte) (s : State) : (send k p a d s).beat = s.beat := rfl
@[simp] theorem send_answer (k : MsgKind) (p : Nat) (a : List Nat) (d : List Byte) (s : State) : (send k p a d s).answer = s.answer := rfl
@[simp] theorem send_regs (k : MsgKind) (p : Nat) (a : List Nat) (d : List Byte) (s : State) : (send k p a d s).regs = s.regs := rfl
@[simp] theorem send_spm (k : MsgKind) (p : Nat) (a : List Nat) (d : List Byte) (s : State) : (send k p a d s).spm = s.spm := rfl
@[simp] theorem send_hbm (k : MsgKind) (p : Nat) (a : List Nat) (d : List Byte) (s : State) : (send k p a d s).hbm = s.hbm := rfl
@[simp] theorem send_buf (k : MsgKind) (p : Nat) (a : List Nat) (d : List Byte) (s : State) : (send k p a d s).buf = s.buf := rfl
@[simp] theorem send_lmap (k : MsgKind) (p : Nat) (a : List Nat) (d : List Byte) (s : State) : (send k p a d s).lmap = s.lmap := rfl
@[simp] theorem send_cl (k : MsgKind) (p : Nat) (a : List Nat) (d : List Byte) (s : State) : (send k p a d s).cl = s.cl := rfl

@[simp] theorem spmWrite_toLeafState (p o : Nat) (l : List Byte) (s : State) : (spmWrite p o l s).toLeafState = s.toLeafState := rfl
@[simp] theorem spmWrite_toRecordState (p o : Nat) (l : List Byte) (s : State) : (spmWrite p o l s).toRecordState = s.toRecordState := rfl
@[simp] theorem spmWrite_toCallState (p o : Nat) (l : List Byte) (s : State) : (spmWrite p o l s).toCallState = s.toCallState := rfl
@[simp] theorem spmWrite_toStackState (p o : Nat) (l : List Byte) (s : State) : (spmWrite p o l s).toStackState = s.toStackState := rfl
@[simp] theorem spmWrite_toMeshState (p o : Nat) (l : List Byte) (s : State) : (spmWrite p o l s).toMeshState = s.toMeshState := rfl
@[simp] theorem spmWrite_toImageState (p o : Nat) (l : List Byte) (s : State) : (spmWrite p o l s).toImageState = s.toImageState := rfl
@[simp] theorem spmWrite_toSericaState (p o : Nat) (l : List Byte) (s : State) : (spmWrite p o l s).toSericaState = s.toSericaState := rfl
@[simp] theorem spmWrite_toPowerState (p o : Nat) (l : List Byte) (s : State) : (spmWrite p o l s).toPowerState = s.toPowerState := rfl
@[simp] theorem spmWrite_toFabricState (p o : Nat) (l : List Byte) (s : State) : (spmWrite p o l s).toFabricState = s.toFabricState := rfl
@[simp] theorem spmWrite_toSecureState (p o : Nat) (l : List Byte) (s : State) : (spmWrite p o l s).toSecureState = s.toSecureState := rfl
@[simp] theorem spmWrite_toServiceState (p o : Nat) (l : List Byte) (s : State) : (spmWrite p o l s).toServiceState = s.toServiceState := rfl
@[simp] theorem spmWrite_toObserveState (p o : Nat) (l : List Byte) (s : State) : (spmWrite p o l s).toObserveState = s.toObserveState := rfl
@[simp] theorem spmWrite_toEscState (p o : Nat) (l : List Byte) (s : State) : (spmWrite p o l s).toEscState = s.toEscState := rfl
@[simp] theorem spmWrite_toRecoverState (p o : Nat) (l : List Byte) (s : State) : (spmWrite p o l s).toRecoverState = s.toRecoverState := rfl
@[simp] theorem spmWrite_toModuleState (p o : Nat) (l : List Byte) (s : State) : (spmWrite p o l s).toModuleState = s.toModuleState := rfl
@[simp] theorem spmWrite_pending (p o : Nat) (l : List Byte) (s : State) : (spmWrite p o l s).pending = s.pending := rfl
@[simp] theorem spmWrite_free (p o : Nat) (l : List Byte) (s : State) : (spmWrite p o l s).free = s.free := rfl
@[simp] theorem spmWrite_beat (p o : Nat) (l : List Byte) (s : State) : (spmWrite p o l s).beat = s.beat := rfl
@[simp] theorem spmWrite_answer (p o : Nat) (l : List Byte) (s : State) : (spmWrite p o l s).answer = s.answer := rfl
@[simp] theorem spmWrite_sent (p o : Nat) (l : List Byte) (s : State) : (spmWrite p o l s).sent = s.sent := rfl
@[simp] theorem spmWrite_regs (p o : Nat) (l : List Byte) (s : State) : (spmWrite p o l s).regs = s.regs := rfl
@[simp] theorem spmWrite_hbm (p o : Nat) (l : List Byte) (s : State) : (spmWrite p o l s).hbm = s.hbm := rfl
@[simp] theorem spmWrite_buf (p o : Nat) (l : List Byte) (s : State) : (spmWrite p o l s).buf = s.buf := rfl
@[simp] theorem spmWrite_lmap (p o : Nat) (l : List Byte) (s : State) : (spmWrite p o l s).lmap = s.lmap := rfl
@[simp] theorem spmWrite_cl (p o : Nat) (l : List Byte) (s : State) : (spmWrite p o l s).cl = s.cl := rfl

@[simp] theorem answerWith_answer (st : Nat) (d : List Nat) (s : State) : (answerWith st d s).answer = ⟨st, d⟩ := rfl
@[simp] theorem rd_answerWith (st : Nat) (d : List Nat) (s : State) (k : Nat) : rd (answerWith st d s) k = rd s k := rfl
@[simp] theorem rd_send (k : MsgKind) (p : Nat) (a : List Nat) (d : List Byte) (s : State) (r : Nat) :
    rd (send k p a d s) r = rd s r := rfl
@[simp] theorem rd_setCluster (p : Nat) (c : Cluster) (s : State) (r : Nat) : rd (setCluster p c s) r = rd s r := rfl
@[simp] theorem rd_modCluster (p : Nat) (f : Cluster → Cluster) (s : State) (r : Nat) : rd (modCluster p f s) r = rd s r := rfl
@[simp] theorem rd_spmWrite (p o : Nat) (l : List Byte) (s : State) (r : Nat) : rd (spmWrite p o l s) r = rd s r := rfl

end Sys2Proof.Machine
end

