-- ==== Sys2Proof/Laws/Tab.lean ====
section
/-! SUPPORT. What a sparse table reads as after a write, a delete and a replacement. -/
namespace Sys2Proof.Machine

variable {α : Type}

theorem tabGet_tabPut (d : Nat → α) (l : List (Nat × α)) (k : Nat) (x : α) (j : Nat) :
    tabGet d (tabPut k x l) j = if k = j then x else tabGet d l j := by
  induction l with
  | nil => simp [tabPut, tabGet]
  | cons a t ih =>
    obtain ⟨i, v⟩ := a
    simp only [tabPut]
    split
    · simp [tabGet]
    · split
      · rename_i h
        subst h
        by_cases hj : k = j <;> simp [tabGet, hj]
      · rename_i h
        simp only [tabGet, ih]
        by_cases hj : k = j
        · subst hj
          rw [if_neg (Ne.symm h), if_pos rfl, if_pos rfl]
        · rw [if_neg hj, if_neg hj]

theorem tabGet_tabDel (d : Nat → α) (l : List (Nat × α)) (k j : Nat) :
    tabGet d (tabDel k l) j = if k = j then d j else tabGet d l j := by
  induction l with
  | nil => simp [tabDel, tabGet]
  | cons a t ih =>
    obtain ⟨i, v⟩ := a
    unfold tabDel at ih ⊢
    by_cases hi : i = k
    · subst hi
      have h : List.filter (fun e => e.1 != i) ((i, v) :: t) = List.filter (fun e : Nat × α => e.1 != i) t := by simp
      rw [h, ih]
      by_cases hj : i = j <;> simp [tabGet, hj]
    · have h : List.filter (fun e => e.1 != k) ((i, v) :: t) = (i, v) :: List.filter (fun e : Nat × α => e.1 != k) t := by simp [hi]
      rw [h, tabGet, ih]
      by_cases hj : i = j
      · subst hj
        rw [if_pos rfl, if_neg (Ne.symm hi), tabGet, if_pos rfl]
      · rw [if_neg hj, tabGet, if_neg hj]

/-- A written key reads as written, and every other key as before. -/
theorem tabGet_tabSet [DecidableEq α] (d : Nat → α) (l : List (Nat × α)) (k : Nat) (x : α) (j : Nat) :
    tabGet d (tabSet d l k x) j = if k = j then x else tabGet d l j := by
  unfold tabSet
  split
  · rename_i h
    rw [tabGet_tabDel]
    by_cases hj : k = j
    · rw [if_pos hj, if_pos hj, h, hj]
    · rw [if_neg hj, if_neg hj]
  · exact tabGet_tabPut d l k x j

end Sys2Proof.Machine
end

