-- ==== Sys2Proof/Laws/Ops.lean ====
section
/-! SUPPORT. Register fields, the register file, the clusters and the memories: a read after a write, once for each operation. -/
namespace Sys2Proof.Machine

/-- A register reads as it was written, and every other one as before. -/
theorem rd_wr (k : Nat) (v : Word) (s : State) (j : Nat) : rd (wr k v s) j = if k = j then v else rd s j :=
  tabGet_tabSet regReset s.regs k v j

@[simp] theorem rd_wr_same (k : Nat) (v : Word) (s : State) : rd (wr k v s) k = v := by rw [rd_wr, if_pos rfl]

theorem rd_wr_other {k j : Nat} (h : k ≠ j) (v : Word) (s : State) : rd (wr k v s) j = rd s j := by rw [rd_wr, if_neg h]

/-- A field reads as it was set, cut to its width. -/
theorem fget_fset (f : Field) (v : Word) (x : Nat) (h : f.lo + f.w ≤ 64) : fget f (fset f v x) = x % 2 ^ f.w := by
  have e : ((fset f v x >>> f.lo) &&& lowMask f.w) = BitVec.ofNat 64 (x % 2 ^ f.w) := by
    apply BitVec.eq_of_getLsbD_eq
    intro i hi
    simp only [fset, lowMask, BitVec.getLsbD_and, BitVec.getLsbD_ushiftRight, BitVec.getLsbD_or, BitVec.getLsbD_not,
      BitVec.getLsbD_shiftLeft, BitVec.getLsbD_ofNat, Nat.testBit_mod_two_pow, Nat.testBit_two_pow_sub_one]
    by_cases hw : i < f.w
    · have h1 : f.lo + i < 64 := by omega
      have h2 : ¬ f.lo + i < f.lo := by omega
      simp [hw, hi, h1, h2]
    · simp [hw]
  unfold fget
  rw [e, BitVec.toNat_ofNat]
  refine Nat.mod_eq_of_lt (Nat.lt_of_lt_of_le (Nat.mod_lt _ (Nat.two_pow_pos _)) (Nat.pow_le_pow_right (by decide) (by omega)))

/-- A field that does not overlap the one set reads as before. -/
theorem fget_fset_other (f g : Field) (v : Word) (x : Nat) (h : g.lo + g.w ≤ f.lo ∨ f.lo + f.w ≤ g.lo) :
    fget g (fset f v x) = fget g v := by
  unfold fget
  congr 1
  apply BitVec.eq_of_getLsbD_eq
  intro i hi
  simp only [fset, lowMask, BitVec.getLsbD_and, BitVec.getLsbD_ushiftRight, BitVec.getLsbD_or, BitVec.getLsbD_not,
    BitVec.getLsbD_shiftLeft, BitVec.getLsbD_ofNat, Nat.testBit_two_pow_sub_one]
  by_cases hw : i < g.w
  · by_cases h64 : g.lo + i < 64
    · rcases h with h | h
      · have h1 : g.lo + i < f.lo := by omega
        simp [hw, hi, h64, h1]
      · have h1 : ¬ (g.lo + i - f.lo < f.w) := by omega
        simp [hw, hi, h64, h1]
    · rw [BitVec.getLsbD_of_ge v _ (by omega)]
      simp [h64]
  · simp [hw]

/-- A register field reads as it was set. -/
theorem fld_setFld (s : State) (k : Nat) (f : Field) (x : Nat) (h : f.lo + f.w ≤ 64) :
    fld (setFld k f x s) k f = x % 2 ^ f.w := by
  unfold fld setFld
  rw [rd_wr_same, fget_fset f _ x h]

theorem fld_setFld_other (s : State) {k j : Nat} (h : k ≠ j) (f g : Field) (x : Nat) : fld (setFld k f x s) j g = fld s j g := by
  unfold fld setFld
  rw [rd_wr_other h]

/-- A cluster reads as it was set, and every other one as before. -/
theorem cluster_setCluster (p q : Nat) (c : Cluster) (s : State) :
    cluster (setCluster p c s) q = if p = q then c else cluster s q :=
  tabGet_tabSet (fun _ => Cluster.reset) s.cl p c q

@[simp] theorem cluster_setCluster_same (p : Nat) (c : Cluster) (s : State) : cluster (setCluster p c s) p = c := by
  rw [cluster_setCluster, if_pos rfl]

@[simp] theorem cluster_modCluster_same (p : Nat) (f : Cluster → Cluster) (s : State) :
    cluster (modCluster p f s) p = f (cluster s p) := cluster_setCluster_same p _ s

@[simp] theorem cluster_wr (k : Nat) (v : Word) (s : State) (p : Nat) : cluster (wr k v s) p = cluster s p := rfl

@[simp] theorem cluster_setFld (k : Nat) (f : Field) (x : Nat) (s : State) (p : Nat) : cluster (setFld k f x s) p = cluster s p := rfl
@[simp] theorem cluster_setFlds (k : Nat) (l : List (Field × Nat)) (s : State) (p : Nat) : cluster (setFlds k l s) p = cluster s p := rfl
@[simp] theorem cluster_raise (k b c : Nat) (s : State) (p : Nat) : cluster (raise k b c s) p = cluster s p := rfl
@[simp] theorem cluster_answerWith (st : Nat) (d : List Nat) (s : State) (p : Nat) : cluster (answerWith st d s) p = cluster s p := rfl
@[simp] theorem cluster_send (k : MsgKind) (d : Nat) (a : List Nat) (l : List Byte) (s : State) (p : Nat) :
    cluster (send k d a l s) p = cluster s p := rfl
@[simp] theorem cluster_spmWrite (q o : Nat) (l : List Byte) (s : State) (p : Nat) : cluster (spmWrite q o l s) p = cluster s p := rfl

/-- A memory reads as the bytes written where they lie, and as before elsewhere. -/
theorem memByte_memWrite (m : Mem) (a : Nat) (l : List Byte) (x : Nat) :
    memByte (memWrite m a l) x = if a ≤ x ∧ x < a + l.length then l.getD (x - a) 0 else memByte m x := by
  induction l generalizing m a with
  | nil =>
    rw [memWrite, if_neg (by simp)]
  | cons b t ih =>
    rw [memWrite, ih]
    unfold memByte
    rw [tabGet_tabSet]
    by_cases h : a = x
    · subst h
      rw [if_neg (by omega), if_pos rfl, if_pos (by simp)]
      simp [List.getD]
    · rw [if_neg h]
      by_cases h2 : a ≤ x ∧ x < a + (b :: t).length
      · have h3 : a + 1 ≤ x ∧ x < a + 1 + t.length := by simp only [List.length_cons] at h2; omega
        rw [if_pos h3, if_pos h2, show x - a = (x - (a + 1)) + 1 by omega]
        simp
      · have h3 : ¬ (a + 1 ≤ x ∧ x < a + 1 + t.length) := by simp only [List.length_cons] at h2; omega
        rw [if_neg h3, if_neg h2]

end Sys2Proof.Machine
end

