-- ==== Sys2Proof/Laws/Quiet.lean ====
section
/-! SUPPORT. What counting, tracing and the passing of time leave alone: everything but the registers of `Tally` and the trace
buffers. -/
namespace Sys2Proof.Machine

/-- From `s` to `t` nothing has happened but counting, tracing and the passing of time. -/
structure Quiet (s t : State) : Prop where
  regs : ∀ k, ¬ Tally k → rd t k = rd s k
  mem : t.spm = s.spm ∧ t.hbm = s.hbm ∧ t.buf = s.buf
  units : t.lmap = s.lmap ∧ t.cl = s.cl
  queue : t.pending = s.pending
  told : t.answer = s.answer ∧ t.sent = s.sent

theorem Quiet.refl (s : State) : Quiet s s := ⟨fun _ _ => rfl, ⟨rfl, rfl, rfl⟩, ⟨rfl, rfl⟩, rfl, ⟨rfl, rfl⟩⟩

theorem Quiet.trans {s t u : State} (h : Quiet s t) (g : Quiet t u) : Quiet s u :=
  ⟨fun k hk => (g.regs k hk).trans (h.regs k hk),
   ⟨g.mem.1.trans h.mem.1, g.mem.2.1.trans h.mem.2.1, g.mem.2.2.trans h.mem.2.2⟩,
   ⟨g.units.1.trans h.units.1, g.units.2.trans h.units.2⟩, g.queue.trans h.queue,
   ⟨g.told.1.trans h.told.1, g.told.2.trans h.told.2⟩⟩

theorem quiet_wr {k : Nat} (hk : Tally k) (v : Word) (s : State) : Quiet s (wr k v s) :=
  ⟨fun j hj => rd_wr_other (fun e => hj (by subst e; exact hk)) v s, ⟨rfl, rfl, rfl⟩, ⟨rfl, rfl⟩, rfl, ⟨rfl, rfl⟩⟩

theorem quiet_setFld {k : Nat} (hk : Tally k) (f : Field) (x : Nat) (s : State) : Quiet s (setFld k f x s) := quiet_wr hk _ s

theorem quiet_setFlds {k : Nat} (hk : Tally k) (l : List (Field × Nat)) (s : State) : Quiet s (setFlds k l s) := quiet_wr hk _ s

theorem quiet_foldl {α : Type} {f : State → α → State} (l : List α) (hf : ∀ s, ∀ x ∈ l, Quiet s (f s x)) (s : State) :
    Quiet s (l.foldl f s) := by
  induction l generalizing s with
  | nil => exact Quiet.refl s
  | cons a t ih =>
    exact (hf s a List.mem_cons_self).trans (ih (fun s x hx => hf s x (List.mem_cons_of_mem _ hx)) _)

theorem quiet_countOne {cfg cnt done : Nat} (h1 : Tally cfg) (h2 : Tally cnt) (h3 : Tally done) (i : Ids) (n : Nat) (s : State) :
    Quiet s (countOne cfg cnt done i n s) := by
  unfold countOne
  dsimp only
  split
  · split
    · exact quiet_setFld h3 _ _ s
    · exact Quiet.refl s
  · split
    · exact (quiet_wr h2 _ s).trans (quiet_setFld h1 _ _ _)
    · exact quiet_wr h2 _ s

/-- The counters found in a bank are the bank's. -/
theorem bankOf_lt {s : State} {cfg n ev : Nat} {ids : Ids} {i : Nat} (h : i ∈ bankOf s cfg n ev ids) : i < n := by
  unfold bankOf at h
  obtain ⟨e, he, rfl⟩ := List.mem_map.mp h
  have h2 := (List.mem_filter.mp he).2
  simp only [Bool.and_eq_true, decide_eq_true_eq] at h2
  omega

theorem tally_clCnt {p i : Nat} (h : i < 64) : Tally (rClCntCfg p i) ∧ Tally (rClCnt p i) ∧ Tally (rClCntDone p i) := by
  simp only [rClCntCfg, rClCnt, rClCntDone, clBase, Tally]
  omega

theorem quiet_countCl (p ev : Nat) (i : Ids) (n : Nat) (s : State) : Quiet s (countCl p ev i n s) := by
  unfold countCl
  split
  · exact Quiet.refl s
  · exact quiet_foldl _ (fun s x hx => let h := tally_clCnt (p := p) (bankOf_lt hx); quiet_countOne h.1 h.2.1 h.2.2 i n s) s

theorem quiet_countBlk {b : Nat} (hb : (∃ n, n < 16 ∧ b = msdBase n) ∨ (∃ d, d < 2 ∧ b = fabBase d)) (ev : Nat) (i : Ids) (n : Nat)
    (s : State) : Quiet s (countBlk b ev i n s) := by
  unfold countBlk
  split
  · exact Quiet.refl s
  · refine quiet_foldl _ (fun s x hx => ?_) s
    have hx := bankOf_lt hx
    have h1 : Tally (b + 0x1000 + 8 * x) ∧ Tally (b + 0x1100 + 8 * x) := by
      rcases hb with ⟨m, hm, rfl⟩ | ⟨m, hm, rfl⟩
      · simp only [msdBase, Tally]
        omega
      · simp only [fabBase, Tally]
        omega
    exact quiet_countOne h1.1 h1.2 h1.2 i n s

theorem quiet_countMsd {m : Nat} (hm : m < 16) (ev : Nat) (i : Ids) (n : Nat) (s : State) : Quiet s (countMsd m ev i n s) :=
  quiet_countBlk (.inl ⟨m, hm, rfl⟩) ev i n s

theorem quiet_countGal {g : Nat} (hg : g < 144) (ev n : Nat) (s : State) : Quiet s (countGal g ev n s) := by
  unfold countGal
  split
  · exact Quiet.refl s
  · refine quiet_foldl _ (fun s x hx => ?_) s
    have hx := bankOf_lt hx
    have h1 : Tally (rObsGalCntCfg (8 * g + x)) ∧ Tally (rObsGalCnt (8 * g + x)) := by
      simp only [rObsGalCntCfg, rObsGalCnt, Tally]
      omega
    exact quiet_countOne h1.1 h1.2 h1.2 _ n s

theorem quiet_countLaunch (p : Nat) (evs : List Nat) (i : Ids) (s : State) : Quiet s (countLaunch p evs i s) := by
  unfold countLaunch
  split
  · exact Quiet.refl s
  · dsimp only
    refine quiet_foldl _ (fun s x hx => ?_) s
    have h2 := (List.mem_filter.mp hx).2
    simp only [Bool.and_eq_true, decide_eq_true_eq] at h2
    have h3 : (x.1 - rClCntCfg p 0) / 8 < 64 := by
      simp only [rClCntCfg] at h2 ⊢
      omega
    have h := tally_clCnt (p := p) h3
    exact (quiet_wr h.2.2 _ _).trans (quiet_wr h.2.1 _ _)

theorem quiet_countDone (p : Nat) (i : Ids) (s : State) : Quiet s (countDone p i s) := by
  unfold countDone
  refine quiet_foldl _ (fun s x hx => ?_) s
  have h2 := (List.mem_filter.mp hx).2
  simp only [Bool.and_eq_true, decide_eq_true_eq] at h2
  refine quiet_setFld ?_ _ _ s
  simp only [rClCntDone, clBase] at h2
  simp only [Tally]
  omega

theorem quiet_elapse (n : Nat) (s : State) : Quiet s (elapse n s) := by
  unfold elapse
  split
  · exact Quiet.refl s
  · dsimp only
    have h1 : Quiet s { s with beat := (s.beat + n) % 2 ^ 64 } := ⟨fun _ _ => rfl, ⟨rfl, rfl, rfl⟩, ⟨rfl, rfl⟩, rfl, ⟨rfl, rfl⟩⟩
    have h2 : ∀ u : State, Quiet u ((bitsOf 6 s.reasons).foldl (fun s r =>
        wr (rPwrThrDur r) (BitVec.ofNat 64 (rdN s (rPwrThrDur r) + n)) s) u) := by
      intro u
      refine quiet_foldl _ (fun s x hx => quiet_wr ?_ _ s) u
      have h3 := List.mem_range.mp (List.mem_filter.mp hx).1
      simp only [rPwrThrDur, Tally]
      omega
    split
    · exact h1.trans (h2 _)
    · refine (h1.trans (h2 _)).trans ?_
      refine quiet_foldl _ (fun s x hx => ?_) _
      have h3 := (List.mem_filter.mp hx).2
      simp only [Bool.and_eq_true, decide_eq_true_eq, beq_iff_eq] at h3
      refine quiet_countOne ?_ ?_ ?_ _ n s <;> simp only [Tally] <;> omega

theorem quiet_advanceTo (b : Nat) (s : State) : Quiet s (advanceTo b s) := quiet_elapse _ s

/-- Units that have a trace buffer: clusters, MSDs and fabric dies. -/
abbrev TraceUnit (u : Nat) : Prop := u < 1000 ∨ (1000 ≤ u ∧ u < 1016) ∨ (2000 ≤ u ∧ u < 2002)

theorem tally_trcPtr {u : Nat} (h : TraceUnit u) : Tally (trcCtl u + 8) := by
  unfold trcCtl
  simp only [TraceUnit] at h
  split
  · simp only [rClTrcCtl, clBase, Tally]
    omega
  · split
    · simp only [rMsdTrcCtl, msdBase, Tally]
      omega
    · simp only [rFabTrcCtl, fabBase, Tally]
      omega

theorem quiet_setTrace (u : Nat) (t : Trace) (s : State) : Quiet s (setTrace u t s) :=
  ⟨fun _ _ => rfl, ⟨rfl, rfl, rfl⟩, ⟨rfl, rfl⟩, rfl, ⟨rfl, rfl⟩⟩

theorem quiet_traceRec {u : Nat} (hu : TraceUnit u) (ty src : Nat) (i : Ids) (l : List Byte) (s : State) :
    Quiet s (traceRec u ty src i l s) := by
  have hd : ∀ s, Quiet s (traceDrop u s) := fun s => (quiet_setTrace u _ s).trans (quiet_setFld (tally_trcPtr hu) _ _ _)
  unfold traceRec
  dsimp only
  split
  · split
    · exact hd s
    · exact Quiet.refl s
  · split
    · exact (quiet_setTrace u _ s).trans (quiet_setFlds (tally_trcPtr hu) _ _)
    · split
      · exact quiet_setTrace u _ s
      · exact hd s

theorem quiet_takeFree (w : Nat) (s : State) : Quiet s (takeFree w s).2 :=
  ⟨fun _ _ => rfl, ⟨rfl, rfl, rfl⟩, ⟨rfl, rfl⟩, rfl, ⟨rfl, rfl⟩⟩

theorem Quiet.cluster_eq {s t : State} (h : Quiet s t) (p : Nat) : cluster t p = cluster s p := by
  unfold cluster
  rw [h.units.2]

theorem Quiet.fld_eq {s t : State} (h : Quiet s t) {k : Nat} (hk : ¬ Tally k) (f : Field) : fld t k f = fld s k f := by
  unfold fld
  rw [h.regs k hk]

end Sys2Proof.Machine
end

