-- ==== Sys2Proof/Laws/SameBut.lean ====
section
/-! SUPPORT. `SameBut` through the shared operations, and the next states of the two shapes of a meaning. -/
namespace Sys2Proof.Machine

theorem SameBut.refl {K : Nat → Prop} (s : State) : SameBut K s s := ⟨rfl, rfl, rfl, rfl, fun _ _ => rfl⟩

theorem SameBut.mono {K L : Nat → Prop} {s t : State} (h : SameBut K s t) (g : ∀ k, K k → L k) : SameBut L s t :=
  ⟨h.1, h.2.1, h.2.2.1, h.2.2.2.1, fun i hi => h.2.2.2.2 i (fun e => hi (g i e))⟩

theorem SameBut.trans {K : Nat → Prop} {s t u : State} (h : SameBut K s t) (g : SameBut K t u) : SameBut K s u :=
  ⟨g.1.trans h.1, g.2.1.trans h.2.1, g.2.2.1.trans h.2.2.1, g.2.2.2.1.trans h.2.2.2.1,
    fun i hi => (g.2.2.2.2 i hi).trans (h.2.2.2.2 i hi)⟩

theorem SameBut.ite {K : Nat → Prop} {s a b : State} {c : Prop} [Decidable c] (ha : SameBut K s a) (hb : SameBut K s b) :
    SameBut K s (if c then a else b) := by
  split
  · exact ha
  · exact hb

theorem SameBut.wr {K : Nat → Prop} {k : Nat} (h : K k) (v : Word) (s : State) : SameBut K s (Machine.wr k v s) :=
  ⟨rfl, rfl, rfl, rfl, fun i hi => rd_wr_other (fun e => hi (by rw [← e]; exact h)) v s⟩

theorem SameBut.setFld {K : Nat → Prop} {k : Nat} (h : K k) (f : Field) (x : Nat) (s : State) :
    SameBut K s (Machine.setFld k f x s) := .wr h _ s

theorem SameBut.setFlds {K : Nat → Prop} {k : Nat} (h : K k) (l : List (Field × Nat)) (s : State) :
    SameBut K s (Machine.setFlds k l s) := .wr h _ s

theorem SameBut.raise {K : Nat → Prop} {k c : Nat} (h : K k) (g : K c) (b : Nat) (s : State) :
    SameBut K s (Machine.raise k b c s) := (SameBut.wr h _ s).trans (.wr g _ _)

/-- A change of fields that are neither memory, map nor registers. -/
theorem SameBut.same {K : Nat → Prop} (s : State) {t : State} (h1 : t.spm = s.spm) (h2 : t.hbm = s.hbm) (h3 : t.buf = s.buf)
    (h4 : t.lmap = s.lmap) (h5 : t.regs = s.regs) : SameBut K s t :=
  ⟨h1, h2, h3, h4, fun i _ => by unfold rd; rw [h5]⟩

theorem SameBut.modCluster {K : Nat → Prop} (p : Nat) (f : Cluster → Cluster) (s : State) : SameBut K s (Machine.modCluster p f s) :=
  .same s rfl rfl rfl rfl rfl

theorem SameBut.send {K : Nat → Prop} (k : MsgKind) (d : Nat) (a : List Nat) (l : List Byte) (s : State) :
    SameBut K s (Machine.send k d a l s) := .same s rfl rfl rfl rfl rfl

theorem SameBut.answerWith {K : Nat → Prop} (st : Nat) (d : List Nat) (s : State) : SameBut K s (Machine.answerWith st d s) :=
  .same s rfl rfl rfl rfl rfl

theorem SameBut.setTrace {K : Nat → Prop} (u : Nat) (t : Trace) (s : State) : SameBut K s (Machine.setTrace u t s) :=
  .same s rfl rfl rfl rfl rfl

theorem SameBut.foldl {K : Nat → Prop} {α : Type} {f : State → α → State} (l : List α) (hf : ∀ s, ∀ x ∈ l, SameBut K s (f s x))
    (s : State) : SameBut K s (l.foldl f s) := by
  induction l generalizing s with
  | nil => exact .refl s
  | cons a t ih => exact (hf s a List.mem_cons_self).trans (ih (fun s x hx => hf s x (List.mem_cons_of_mem _ hx)) _)

theorem SameBut.of_quiet {K : Nat → Prop} {s t : State} (hK : ∀ k, Tally k → K k) (h : Quiet s t) : SameBut K s t :=
  SameBut.mono ⟨h.mem.1, h.mem.2.1, h.mem.2.2, h.units.1, h.regs⟩ hK

theorem SameBut.rd_eq {K : Nat → Prop} {s t : State} (h : SameBut K s t) {k : Nat} (hk : ¬ K k) : rd t k = rd s k := h.2.2.2.2 k hk

theorem SameBut.rdN_eq {K : Nat → Prop} {s t : State} (h : SameBut K s t) {k : Nat} (hk : ¬ K k) : rdN t k = rdN s k := by
  unfold rdN; rw [h.rd_eq hk]

theorem SameBut.fld_eq {K : Nat → Prop} {s t : State} (h : SameBut K s t) {k : Nat} (hk : ¬ K k) (f : Field) : fld t k f = fld s k f := by
  unfold fld; rw [h.rd_eq hk]

theorem SameBut.takeFree {K : Nat → Prop} (w : Nat) (s : State) : SameBut K s (Machine.takeFree w s).2 := .same s rfl rfl rfl rfl rfl

theorem SameBut.faultEvt {K : Nat → Prop} (c d : Nat) (s : State) : SameBut K s (Machine.faultEvt c d s) :=
  .foldl _ (fun s _ _ => .ite (.send ..) (.refl s)) s

/-- An error record writes BRU.FAULT, its counter, and BRU.LOG. -/
theorem SameBut.addRecord {K : Nat → Prop} (h1 : K rBruFault) (h2 : K rBruFaultCnt) (h3 : K rBruLog) (r : Record) (s : State) :
    SameBut K s (Machine.addRecord r s) := by
  unfold Machine.addRecord
  have e1 : SameBut K s (if (!s.alertN && (r.cls == 3 || r.cls == 5)) = true then Machine.send .i3c 0 [] [] s else s) :=
    .ite (.send ..) (.refl s)
  generalize (if (!s.alertN && (r.cls == 3 || r.cls == 5)) = true then Machine.send .i3c 0 [] [] s else s) = a at e1 ⊢
  have e2 : SameBut K a (recordPlace r a).2 := by
    unfold recordPlace
    cases recordGal r.unitKind r.unit
    · exact .refl a
    · exact .takeFree 16 a
  refine e1.trans (e2.trans ?_)
  dsimp only
  refine .trans ?_ (.faultEvt ..)
  refine .trans ?_ (.wr h3 _ _)
  refine .trans ?_ (.raise h1 h2 _ _)
  refine .trans ?_ (.setFld h1 _ _ _)
  exact .same _ rfl rfl rfl rfl rfl

/-! ### The two shapes of a meaning -/

theorem onUnit_next {p n : Nat} (h1 : p < n) (s : State) (f : State → State) : onUnit p n s f = .next (f s) := by
  unfold onUnit; rw [if_pos h1]

theorem onUnits_next {p n q m : Nat} (h1 : p < n) (h2 : q < m) (s : State) (f : State → State) :
    onUnits p n q m s f = .next (f s) := by
  unfold onUnits; rw [if_pos ⟨h1, h2⟩]

/-- On a cluster, a number, an MSD, a gallery; and on a cluster's stream, a number's window or semaphore, an MSD's queue. -/
theorem nx_c {p : Nat} (h : p < 864) (s : State) (f : State → State) : onUnit p nClusters s f = .next (f s) := onUnit_next h s f
theorem nx_l {p : Nat} (h : p < 800) (s : State) (f : State → State) : onUnit p nLogical s f = .next (f s) := onUnit_next h s f
theorem nx_m {p : Nat} (h : p < 16) (s : State) (f : State → State) : onUnit p nMsd s f = .next (f s) := onUnit_next h s f
theorem nx_g {p : Nat} (h : p < 144) (s : State) (f : State → State) : onUnit p nGal s f = .next (f s) := onUnit_next h s f
theorem nx_cs {p q : Nat} (h1 : p < 864) (h2 : q < 32) (s : State) (f : State → State) :
    onUnits p nClusters q 32 s f = .next (f s) := onUnits_next h1 h2 s f
theorem nx_ls {p q : Nat} (h1 : p < 800) (h2 : q < 64) (s : State) (f : State → State) :
    onUnits p nLogical q 64 s f = .next (f s) := onUnits_next h1 h2 s f
theorem nx_lt {p q : Nat} (h1 : p < 800) (h2 : q < 32) (s : State) (f : State → State) :
    onUnits p nLogical q 32 s f = .next (f s) := onUnits_next h1 h2 s f
theorem nx_mq {p q : Nat} (h1 : p < 16) (h2 : q < 32) (s : State) (f : State → State) :
    onUnits p nMsd q 32 s f = .next (f s) := onUnits_next h1 h2 s f

end Sys2Proof.Machine
end

