-- ==== Sys2Proof/Laws/Clock.lean ====
section
/-! SUPPORT. The frequencies brought up to date (14 R416). -/
namespace Sys2Proof.Machine

theorem setFreqOf_congr {s t : State} {p : Nat} (h1 : fld t (rClkFset p) fClkFsetFset = fld s (rClkFset p) fClkFsetFset)
    (h2 : rd t rClkMode = rd s rClkMode) (h3 : rd t (rClkFmax p) = rd s (rClkFmax p)) : setFreqOf t p = setFreqOf s p := by
  unfold setFreqOf expertFreq fmaxOf
  rw [h1]
  unfold fld
  rw [h2, h3]

theorem regsOnly_updFreq (p : Nat) (s : State) : ∃ r, updFreq p s = { s with regs := r } := ⟨_, rfl⟩

theorem updFreqs_list (l : List Nat) (hl : l.Nodup) (h864 : ∀ p ∈ l, p < 864) (s : State) :
    (∃ r, l.foldl (fun s p => updFreq p s) s = { s with regs := r }) ∧
    (∀ k, (∀ p, p ∈ l → k ≠ rClkFset p) → rd (l.foldl (fun s p => updFreq p s) s) k = rd s k) ∧
    (∀ p, p ∈ l → rd (l.foldl (fun s p => updFreq p s) s) (rClkFset p) = fset fClkFsetFnow (rd s (rClkFset p)) (setFreqOf s p)) := by
  induction l generalizing s with
  | nil => exact ⟨⟨s.regs, rfl⟩, fun _ _ => rfl, fun p hp => by cases hp⟩
  | cons a t ih =>
    obtain ⟨n1, n2⟩ := List.nodup_cons.mp hl
    have ha := h864 a List.mem_cons_self
    obtain ⟨⟨r, e⟩, i2, i3⟩ := ih n2 (fun p hp => h864 p (List.mem_cons_of_mem _ hp)) (updFreq a s)
    have key : ∀ k, k ≠ rClkFset a → rd (updFreq a s) k = rd s k := fun k hk => rd_wr_other (fun e => hk e.symm) _ _
    refine ⟨⟨r, e⟩, fun k hk => ?_, fun p hp => ?_⟩
    · rw [List.foldl_cons, i2 k (fun p hp => hk p (List.mem_cons_of_mem _ hp)), key k (hk a List.mem_cons_self)]
    · rw [List.foldl_cons]
      by_cases hpa : p = a
      · subst hpa
        rw [i2 _ (fun q hq e => n1 (by simp only [rClkFset] at e; rw [show p = q by omega]; exact hq))]
        exact rd_wr_same _ _ _
      · have hpt : p ∈ t := by
          rcases List.mem_cons.mp hp with h | h
          · exact absurd h hpa
          · exact h
        have hp8 := h864 p hp
        have hk : rd (updFreq a s) (rClkFset p) = rd s (rClkFset p) := key _ (by simp only [rClkFset]; omega)
        rw [i3 p hpt, hk, setFreqOf_congr (s := s) (by unfold fld; rw [hk]) (key _ (by simp only [rClkFset, rClkMode]; omega))
          (key _ (by simp only [rClkFset, rClkFmax]; omega))]

/-- Every cluster's FNOW is brought up to date, and nothing else changes. -/
theorem rd_updFreqs (s : State) :
    (∃ r, updFreqs s = { s with regs := r }) ∧ (∀ k, (∀ p, p < 864 → k ≠ rClkFset p) → rd (updFreqs s) k = rd s k) ∧
    (∀ p, p < 864 → rd (updFreqs s) (rClkFset p) = fset fClkFsetFnow (rd s (rClkFset p)) (setFreqOf s p)) := by
  obtain ⟨h1, h2, h3⟩ := updFreqs_list (List.range nClusters) List.nodup_range (fun p hp => List.mem_range.mp hp) s
  exact ⟨h1, fun k hk => h2 k (fun p hp => hk p (List.mem_range.mp hp)), fun p hp => h3 p (List.mem_range.mpr hp)⟩

end Sys2Proof.Machine
end

