-- ==== Sys2Proof/Laws/Control.lean ====
section
/-! SUPPORT. Writes of control registers that pass every check of their block (00 R5-R14). -/
namespace Sys2Proof.Machine

/-- A write that passes every check of its block is the register's write. -/
theorem csStore_passes {s : State} {rid o k page : Nat} (h1 : partDown s = false) (h2 : accessWaits s o = false)
    (h3 : place s o = .reg k page) (h4 : o % 8 = 0) (h5 : k ≠ rSerOwnCmd) (h6 : mayWrite s rid (mbxBlock page) = true)
    (h7 : rdN s (mbxExpertEn page) % 2 = 1) (v : Nat) :
    csStore rid o 8 v s = answerWith (regWrite rid k v s).1 [] (regWrite rid k v s).2 := by
  unfold csStore csWrite
  rw [if_neg (by simp [h1, h2]), h3]
  dsimp only
  rw [if_neg (by omega), if_neg h5, if_neg (by simp [h6]), if_neg (by omega)]

/-- A write of a register outside the clusters. -/
theorem csStore_reg {s : State} {rid k page : Nat} (h : Writable s rid k page) (v : Nat) :
    csStore rid k 8 v s = answerWith (regWrite rid k v s).1 [] (regWrite rid k v s).2 := by
  obtain ⟨h1, h2, h3, h4, h5, h6, h7, h8⟩ := h
  refine csStore_passes h1 ?_ h3 h5 h6 h7 h8 v
  unfold accessWaits
  rw [h2]
  have : decide (0x10000000 ≤ k ∧ k < 0x10000000 + nLogical * 0x80000) = false := by
    rw [decide_eq_false_iff_not]
    omega
  rw [this]
  rfl

/-- A write of a cluster's register by its logical number. -/
theorem csStore_cl {s : State} {rid l r : Nat} (h : ClWritable s rid l) (hr : r % 8 = 0) (hr2 : r < 0x10000) (v : Nat) :
    csStore rid (clOff l r) 8 v s =
      answerWith (clWrite (physOf s l) r v s).1 [] (clWrite (physOf s l) r v s).2 := by
  obtain ⟨hl, h1, h2, h3, h4, h5, h6⟩ := h
  have e1 : (0x10000000 + l * 0x80000 + r - 0x10000000) / 0x80000 = l := by
    rw [Nat.add_assoc, Nat.add_sub_cancel_left]
    omega
  have e2 : (0x10000000 + l * 0x80000 + r) % 0x80000 = r := by omega
  have hin : 0x10000000 ≤ 0x10000000 + l * 0x80000 + r ∧ 0x10000000 + l * 0x80000 + r < 0x10000000 + nLogical * 0x80000 := by
    simp only [nLogical]
    omega
  have hu : stairUnit s (clOff l r) = stairCluster (physOf s l) := by
    unfold stairUnit clOff
    rw [if_neg (by omega), if_pos hin]
    dsimp only
    rw [e1, h2]
    rfl
  have hw : accessWaits s (clOff l r) = false := by
    unfold accessWaits
    rw [hu, h4]
    unfold clOff
    rw [e1, h3]
    simp
  have hp : place s (clOff l r) = .reg (clBase (physOf s l) + r) (mbCl l) := by
    unfold place clOff
    rw [if_neg (by omega), if_pos hin]
    dsimp only
    rw [e1, e2, if_neg (by simp [h2]), if_neg (by omega), if_pos hr2]
  have hk : clBase (physOf s l) + r ≠ rSerOwnCmd := by
    simp only [clBase, rSerOwnCmd]
    omega
  have hm : mbxBlock (mbCl l) = gbCl := by
    unfold mbxBlock mbCl
    rw [if_pos (by omega)]
  have hr3 : regWrite rid (clBase (physOf s l) + r) v s = clWrite (physOf s l) r v s := by
    have a0 : 0x30000000 ≤ clBase (physOf s l) + r := by simp only [clBase]; omega
    have a1 : (clBase (physOf s l) + r - 0x30000000) / 0x10000 = physOf s l := by
      unfold clBase
      rw [Nat.add_assoc, Nat.add_sub_cancel_left]
      omega
    have a2 : (clBase (physOf s l) + r) % 0x10000 = r := by simp only [clBase]; omega
    unfold regWrite
    split
    · rw [a1, a2]
    · rename_i h
      exact absurd a0 h
  rw [← hr3]
  refine csStore_passes h1 hw hp ?_ hk (by rw [hm]; exact h5) h6 v
  unfold clOff
  omega

/-- A write that its requestor may not make is answered NOT_OWNER and leaves everything but the answer (00 R14). -/
theorem csStore_denied {s : State} {rid o v k page : Nat} (h1 : partDown s = false) (h2 : accessWaits s o = false)
    (h3 : place s o = .reg k page) (h4 : o % 8 = 0) (h5 : k ≠ rSerOwnCmd) (h6 : mayWrite s rid (mbxBlock page) = false) :
    csStore rid o 8 v s = answerWith stNotOwner [] s := by
  unfold csStore csWrite
  rw [if_neg (by simp [h1, h2]), h3]
  dsimp only
  rw [if_neg (by omega), if_neg h5, if_pos (by simp [h6])]

/-- A write of a cluster's register, as one whole. -/
theorem writes_cl {c : Instr} {s u : State} {rid l r v st : Nat} {K : Nat → Prop} {p : State → Prop}
    (he : exec c s = .next (csStore rid (clOff l r) 8 v s)) (h : ClWritable s rid l) (hr : r % 8 = 0) (hr2 : r < 0x10000)
    (hw : clWrite (physOf s l) r v s = (st, u)) (hs : SameBut K s u) (hp : p (answerWith st [] u)) : Writes c s st K p := by
  have e : exec c s = .next (answerWith st [] u) := by rw [he, csStore_cl h hr hr2, hw]
  exact ⟨_, e, rfl, hs.trans (.answerWith _ _ u), hp⟩

/-- A write of an expert view's register, as one whole. -/
theorem writes_view {c : Instr} {s u : State} {rid k v st : Nat} {K : Nat → Prop} {p : State → Prop}
    (he : exec c s = .next (csStore rid k 8 v s)) (h : ViewWritable s rid k)
    (hw : regWrite rid k v s = (st, u)) (hs : SameBut K s u) (hp : p (answerWith st [] u)) : Writes c s st K p := by
  obtain ⟨h1, h2, h3, h4, h5, h6, h7⟩ := h
  have e0 : place s k = .view k := by
    unfold place
    rw [if_neg (by omega), if_neg (by simp only [nLogical]; omega), if_pos (by simp only [nClusters]; omega)]
  have e1 : accessWaits s k = false := by
    unfold accessWaits
    have : decide (0x10000000 ≤ k ∧ k < 0x10000000 + nLogical * 0x80000) = false := by
      rw [decide_eq_false_iff_not]
      simp only [nLogical]
      omega
    rw [h5, this]
    rfl
  have e2 : csStore rid k 8 v s = answerWith st [] u := by
    unfold csStore csWrite
    rw [if_neg (by simp [h4, e1]), e0]
    dsimp only
    rw [if_neg (by omega), if_neg (by simp [h6]), if_neg (by omega), hw]
  have e : exec c s = .next (answerWith st [] u) := by rw [he, e2]
  exact ⟨_, e, rfl, hs.trans (.answerWith _ _ u), hp⟩

/-- A write of another block's register, as one whole. -/
theorem writes_reg {c : Instr} {s u : State} {rid k page v st : Nat} {K : Nat → Prop} {p : State → Prop}
    (he : exec c s = .next (csStore rid k 8 v s)) (h : Writable s rid k page)
    (hw : regWrite rid k v s = (st, u)) (hs : SameBut K s u) (hp : p (answerWith st [] u)) : Writes c s st K p := by
  have e : exec c s = .next (answerWith st [] u) := by rw [he, csStore_reg h, hw]
  exact ⟨_, e, rfl, hs.trans (.answerWith _ _ u), hp⟩

/-- A field all of whose bits a register's specification makes writable reads as written. -/
theorem fget_masked (f : Field) (old w m c : Word) (hf : f.lo + f.w ≤ 64) (h : ∀ i, i < f.w → m.getLsbD (f.lo + i) = true) :
    fget f ((old &&& ~~~m &&& c) ||| (w &&& m)) = fget f w := by
  unfold fget lowMask
  congr 1
  apply BitVec.eq_of_getLsbD_eq
  intro i hi
  simp only [BitVec.getLsbD_and, BitVec.getLsbD_ushiftRight, BitVec.getLsbD_or, BitVec.getLsbD_not, BitVec.getLsbD_ofNat,
    Nat.testBit_two_pow_sub_one]
  by_cases hw : i < f.w
  · have : f.lo + i < 64 := by omega
    rw [h i hw]
    simp [hw, this]
  · simp [hw]

/-- A field of a number as a register. -/
theorem fget_ofNat (f : Field) (v : Nat) (hf : f.lo + f.w ≤ 64) : fget f (BitVec.ofNat 64 v) = v / 2 ^ f.lo % 2 ^ f.w := by
  unfold fget lowMask
  have h1 : 2 ^ f.w ≤ 2 ^ 64 := Nat.pow_le_pow_right (by decide) (by omega)
  have h2 := Nat.pow_pos (n := f.w) (a := 2) (by decide)
  rw [BitVec.toNat_and, BitVec.toNat_ushiftRight, BitVec.toNat_ofNat, BitVec.toNat_ofNat, Nat.mod_eq_of_lt (a := 2 ^ f.w - 1) (by omega),
    Nat.and_two_pow_sub_one_eq_mod, Nat.shiftRight_eq_div_pow]
  apply Nat.eq_of_testBit_eq
  intro i
  simp only [Nat.testBit_mod_two_pow, Nat.testBit_div_two_pow]
  by_cases hw : i < f.w
  · have : i + f.lo < 64 := by omega
    simp [hw, this]
  · simp [hw]

end Sys2Proof.Machine
end

