-- ==== Sys2Proof/Laws/Mailbox.lean ====
section
/-! SUPPORT. The mailbox protocol (00 R14-R18): the state a service body runs in, and the state its call ends in. -/
namespace Sys2Proof.Machine

/-- The state in which the body of a call runs: the arguments, GO and BUSY are written. -/
def called (b code : Nat) (args : List Nat) (s : State) : State :=
  let s := (args.zip (List.range 16)).foldl (fun s e => wr (mbxArg b e.2) (BitVec.ofNat 64 e.1) s) s
  let s := wr (mbxCmd b) (BitVec.ofNat 64 (code % 2 ^ 16 + 2 ^ 63)) s
  wr (mbxStatus b) (rd s (mbxStatus b) ||| 1) s

/-- A taken call runs its body. -/
theorem service_callable {s : State} {b code rid : Nat} {args : List Nat} {body : State → Reply × State} (h : Callable s rid b) :
    service b code rid args body s =
      (match body (called b code args s) with
       | (.done st res, s) => answerWith stOk (st :: res) (endCall b st res s)
       | (.runs keep, s) => answerWith stOk [] { s with calls := tabPut b ⟨code, rid, args, s.beat, keep⟩ s.calls }) := by
  obtain ⟨h1, h2, h3, h4⟩ := h
  unfold service
  dsimp only
  rw [if_neg (by simp [h1]), if_neg (by rintro ⟨a, b⟩; rw [(h2 a).1] at b; cases b), if_neg (by rintro ⟨a, b⟩; rw [(h2 a).2] at b; cases b),
    if_neg (by simp [h3]), if_neg (by simp [h4])]
  rfl

/-- A call by a requestor that may not write the block is answered NOT_OWNER and does nothing (00 R14). -/
theorem service_denied {s : State} {b code rid : Nat} {args : List Nat} {body : State → Reply × State} (h1 : partDown s = false)
    (h2 : mbxBlock b = gbCl → held s ((b - 0x10000000) / 0x80000) = true ∧ moving s ((b - 0x10000000) / 0x80000) = false)
    (h3 : mayWrite s rid (mbxBlock b) = false) : service b code rid args body s = answerWith stNotOwner [] s := by
  unfold service
  dsimp only
  rw [if_neg (by simp [h1]), if_neg (by rintro ⟨a, b⟩; rw [(h2 a).1] at b; cases b), if_neg (by rintro ⟨a, b⟩; rw [(h2 a).2] at b; cases b),
    if_pos (by simp [h3])]

/-- Only registers differ. -/
def RegsOnly (s t : State) : Prop := ∃ r, t = { s with regs := r }

theorem RegsOnly.refl (s : State) : RegsOnly s s := ⟨s.regs, rfl⟩

theorem RegsOnly.trans {s t u : State} (h : RegsOnly s t) (g : RegsOnly t u) : RegsOnly s u := by
  obtain ⟨r, rfl⟩ := h
  obtain ⟨q, rfl⟩ := g
  exact ⟨q, rfl⟩

theorem regsOnly_wr (k : Nat) (v : Word) (s : State) : RegsOnly s (wr k v s) := ⟨_, rfl⟩

theorem regsOnly_foldl {α : Type} (f : α → Nat) (g : α → Word) (l : List α) (s : State) :
    RegsOnly s (l.foldl (fun s x => wr (f x) (g x) s) s) := by
  induction l generalizing s with
  | nil => exact .refl s
  | cons a t ih => exact (regsOnly_wr _ _ s).trans (ih _)

theorem regsOnly_called (b code : Nat) (args : List Nat) (s : State) : RegsOnly s (called b code args s) := by
  have h := regsOnly_foldl (fun e : Nat × Nat => mbxArg b e.2) (fun e => BitVec.ofNat 64 e.1) (args.zip (List.range 16)) s
  unfold called
  generalize List.foldl (fun s x => wr (mbxArg b x.2) (BitVec.ofNat 64 x.1) s) s (args.zip (List.range 16)) = v at h ⊢
  exact (h.trans (regsOnly_wr _ _ _)).trans (regsOnly_wr _ _ _)

theorem rd_foldl_wr {α : Type} {f : α → Nat} {g : α → Word} (l : List α) (s : State) {k : Nat} (h : ∀ x ∈ l, f x ≠ k) :
    rd (l.foldl (fun s x => wr (f x) (g x) s) s) k = rd s k := by
  induction l generalizing s with
  | nil => rfl
  | cons a t ih =>
    rw [List.foldl_cons, ih _ (fun x hx => h x (List.mem_cons_of_mem _ hx)), rd_wr_other (h a List.mem_cons_self)]

/-- A register outside the page is as before while the body runs. -/
theorem rd_called {b k : Nat} (h : ¬ InPage b k) (code : Nat) (args : List Nat) (s : State) : rd (called b code args s) k = rd s k := by
  unfold called
  dsimp only
  rw [rd_wr_other (by simp only [InPage] at h; simp only [mbxStatus]; omega),
    rd_wr_other (by simp only [InPage] at h; simp only [mbxCmd]; omega),
    rd_foldl_wr _ _ (f := fun e : Nat × Nat => mbxArg b e.2) (g := fun e => BitVec.ofNat 64 e.1)]
  intro x hx
  have h1 := (List.of_mem_zip hx).2
  rw [List.mem_range] at h1
  simp only [mbxArg, InPage] at h ⊢
  omega

/-- Bit 1 set in an even number. -/
theorem or_two (x : Nat) (h : x % 2 = 0) : x ||| 2 = x / 4 * 4 + 2 := by
  have h1 : x = (x / 4) <<< 2 ||| x % 4 := by
    rw [← Nat.shiftLeft_add_eq_or_of_lt (Nat.mod_lt x (by decide)), Nat.shiftLeft_eq]
    omega
  have h2 : x % 4 ||| 2 = 2 := by
    have : x % 4 = 0 ∨ x % 4 = 2 := by omega
    rcases this with h | h <;> rw [h] <;> decide
  have h3 : x ||| 2 = (x / 4) <<< 2 ||| 2 := by
    have h4 : ∀ a b : Nat, a ||| b ||| 2 = a ||| (b ||| 2) := fun a b => Nat.or_assoc a b 2
    conv => lhs; rw [h1]
    rw [h4, h2]
  rw [h3, ← Nat.shiftLeft_add_eq_or_of_lt (by decide), Nat.shiftLeft_eq]

/-- The results of a call written. -/
def resWritten (b : Nat) (res : List Nat) (s : State) : State :=
  (List.range 16).foldl (fun s i => wr (mbxRes b i) (BitVec.ofNat 64 (res.getD i 0)) s) s

/-- The rest of a call's end. -/
theorem endCall_eq (b st : Nat) (res : List Nat) (s : State) : endCall b st res s =
    (let v := resWritten b res s
     let s := wr (mbxStatus b) (BitVec.ofNat 64 (st % 256 * 256 + rdN v (mbxStatus b) % 256 / 2 * 2)) v
     let s := wr (mbxStatusCnt b) (BitVec.ofNat 64 (min 0xFFFFFFFF (rdN (wr (mbxStatus b) (rd s (mbxStatus b) ||| (1#64 <<< 1)) s)
       (mbxStatusCnt b) % 2 ^ 32 + 1))) (wr (mbxStatus b) (rd s (mbxStatus b) ||| (1#64 <<< 1)) s)
     let s := wr (mbxCmd b) (BitVec.ofNat 64 (rdN s (mbxCmd b) % 2 ^ 63)) s
     { s with calls := tabDel b s.calls }) := rfl

theorem rd_calls (k : Nat) (s : State) (l : List (Nat × Call)) : rd { s with calls := l } k = rd s k := rfl

theorem regsOnly_resWritten (b : Nat) (res : List Nat) (s : State) : RegsOnly s (resWritten b res s) :=
  regsOnly_foldl (fun i => mbxRes b i) (fun i => BitVec.ofNat 64 (res.getD i 0)) _ s

/-- A register outside the page is not written by a call's end. -/
theorem rd_endCall {b k : Nat} (h : ¬ InPage b k) (st : Nat) (res : List Nat) (s : State) : rd (endCall b st res s) k = rd s k := by
  have h0 : rd (resWritten b res s) k = rd s k := by
    refine rd_foldl_wr _ _ (f := fun i : Nat => mbxRes b i) (g := fun i => BitVec.ofNat 64 (res.getD i 0)) ?_
    intro x hx
    rw [List.mem_range] at hx
    simp only [InPage] at h
    simp only [mbxRes]
    omega
  rw [endCall_eq]
  simp only [InPage] at h
  dsimp only
  rw [rd_calls, rd_wr_other (by simp only [mbxCmd]; omega), rd_wr_other (by simp only [mbxStatusCnt]; omega),
    rd_wr_other (by simp only [mbxStatus]; omega), rd_wr_other (by simp only [mbxStatus]; omega), h0]

/-- The registers a call's end writes, and what they read as. -/
theorem callEnded_endCall (b st : Nat) (res : List Nat) (s : State) : CallEnded (endCall b st res s) b st res := by
  have hx : ∀ (n : Nat) (u : State) (i : Nat), i < n →
      rd ((List.range n).foldl (fun s i => wr (mbxRes b i) (BitVec.ofNat 64 (res.getD i 0)) s) u) (mbxRes b i) =
      BitVec.ofNat 64 (res.getD i 0) := by
    intro n
    induction n with
    | zero => intro u i hi; omega
    | succ n ih =>
      intro u i hi
      rw [List.range_succ, List.foldl_append, List.foldl_cons, List.foldl_nil]
      by_cases hin : i = n
      · subst hin
        rw [rd_wr_same]
      · rw [rd_wr_other (by simp only [mbxRes]; omega), ih u i (by omega)]
  have hr : ∀ i, i < 16 → rd (resWritten b res s) (mbxRes b i) = BitVec.ofNat 64 (res.getD i 0) := hx 16 s
  rw [endCall_eq]
  generalize resWritten b res s = v at hr
  dsimp only
  have es : rdN { wr (mbxCmd b) (BitVec.ofNat 64 (rdN (wr (mbxStatusCnt b) (BitVec.ofNat 64 (min 0xFFFFFFFF (rdN (wr (mbxStatus b)
      (rd (wr (mbxStatus b) (BitVec.ofNat 64 (st % 256 * 256 + rdN v (mbxStatus b) % 256 / 2 * 2)) v) (mbxStatus b) ||| (1#64 <<< 1))
      (wr (mbxStatus b) (BitVec.ofNat 64 (st % 256 * 256 + rdN v (mbxStatus b) % 256 / 2 * 2)) v)) (mbxStatusCnt b) % 2 ^ 32 + 1)))
      (wr (mbxStatus b) (rd (wr (mbxStatus b) (BitVec.ofNat 64 (st % 256 * 256 + rdN v (mbxStatus b) % 256 / 2 * 2)) v) (mbxStatus b) |||
      (1#64 <<< 1)) (wr (mbxStatus b) (BitVec.ofNat 64 (st % 256 * 256 + rdN v (mbxStatus b) % 256 / 2 * 2)) v))) (mbxCmd b) % 2 ^ 63))
      (wr (mbxStatusCnt b) (BitVec.ofNat 64 (min 0xFFFFFFFF (rdN (wr (mbxStatus b)
      (rd (wr (mbxStatus b) (BitVec.ofNat 64 (st % 256 * 256 + rdN v (mbxStatus b) % 256 / 2 * 2)) v) (mbxStatus b) ||| (1#64 <<< 1))
      (wr (mbxStatus b) (BitVec.ofNat 64 (st % 256 * 256 + rdN v (mbxStatus b) % 256 / 2 * 2)) v)) (mbxStatusCnt b) % 2 ^ 32 + 1)))
      (wr (mbxStatus b) (rd (wr (mbxStatus b) (BitVec.ofNat 64 (st % 256 * 256 + rdN v (mbxStatus b) % 256 / 2 * 2)) v) (mbxStatus b) |||
      (1#64 <<< 1)) (wr (mbxStatus b) (BitVec.ofNat 64 (st % 256 * 256 + rdN v (mbxStatus b) % 256 / 2 * 2)) v)))
      with calls := tabDel b v.calls } (mbxStatus b) = st % 256 * 256 + rdN v (mbxStatus b) % 256 / 2 * 2 ||| 2 := by
    unfold rdN
    rw [rd_calls, rd_wr_other (by simp only [mbxCmd, mbxStatus]; omega), rd_wr_other (by simp only [mbxStatusCnt, mbxStatus]; omega),
      rd_wr_same, rd_wr_same, BitVec.toNat_or, BitVec.toNat_ofNat, Nat.mod_eq_of_lt (by omega)]
    rfl
  have ev : ∀ n : Nat, (st % 256 * 256 + n % 256 / 2 * 2) % 2 = 0 := by intro n; omega
  refine ⟨?_, ?_, ?_, ?_, fun i hi => ?_⟩
  · refine (congrArg (· % 2) es).trans ?_
    rw [or_two _ (ev _)]
    omega
  · refine (congrArg (bitAt · 1) es).trans ?_
    rw [or_two _ (ev _)]
    unfold bitAt
    rw [Nat.shiftRight_eq_div_pow]
    generalize rdN _ _ = n
    have : ((st % 256 * 256 + n % 256 / 2 * 2) / 4 * 4 + 2) / 2 ^ 1 % 2 = 1 := by omega
    rw [this]
    rfl
  · refine (congrArg (bitsAt 8 8 ·) es).trans ?_
    rw [or_two _ (ev _)]
    unfold bitsAt
    rw [Nat.shiftRight_eq_div_pow]
    omega
  · unfold look
    rw [Option.map_eq_none_iff, List.find?_eq_none]
    intro x hx
    have := (List.mem_filter.mp hx).2
    simpa using this
  · rw [rd_calls, rd_wr_other (by simp only [mbxCmd, mbxRes]; omega), rd_wr_other (by simp only [mbxStatusCnt, mbxRes]; omega),
      rd_wr_other (by simp only [mbxStatus, mbxRes]; omega), rd_wr_other (by simp only [mbxStatus, mbxRes]; omega)]
    exact hr i hi

/-- A register outside the page as a number, while the body runs. -/
theorem rdN_called {b k : Nat} (h : ¬ InPage b k) (code : Nat) (args : List Nat) (s : State) : rdN (called b code args s) k = rdN s k := by
  unfold rdN
  rw [rd_called h]

theorem fld_called {b k : Nat} (h : ¬ InPage b k) (f : Field) (code : Nat) (args : List Nat) (s : State) :
    fld (called b code args s) k f = fld s k f := by
  unfold fld
  rw [rd_called h]

/-- A call whose body ends at once, as one whole: its answer, its page, and what stays as before. -/
theorem calls_done {c : Instr} {s u : State} {b code rid st : Nat} {args res : List Nat} {body : State → Reply × State} {K : Nat → Prop}
    {p : State → Prop} (he : exec c s = .next (service b code rid args body s)) (h : Callable s rid b)
    (hb : body (called b code args s) = (.done st res, u)) (hs : SameBut K (called b code args s) u)
    (hp : p (answerWith stOk (st :: res) (endCall b st res u))) : Calls c s b st res K p := by
  have e : service b code rid args body s = answerWith stOk (st :: res) (endCall b st res u) := by
    rw [service_callable h, hb]
  have r1 : (called b code args s).spm = s.spm ∧ (called b code args s).hbm = s.hbm ∧ (called b code args s).buf = s.buf ∧
      (called b code args s).lmap = s.lmap := by
    obtain ⟨r, e⟩ := regsOnly_called b code args s
    rw [e]
    exact ⟨rfl, rfl, rfl, rfl⟩
  have r2 : (endCall b st res u).spm = u.spm ∧ (endCall b st res u).hbm = u.hbm ∧ (endCall b st res u).buf = u.buf ∧
      (endCall b st res u).lmap = u.lmap := by
    obtain ⟨r, e⟩ := regsOnly_resWritten b res u
    rw [endCall_eq, e]
    dsimp only
    refine ⟨?_, ?_, ?_, ?_⟩ <;> simp only [wr_spm, wr_hbm, wr_buf, wr_lmap]
  have r3 := callEnded_endCall b st res u
  have r4 : ∀ i, ¬ InPage b i → rd (endCall b st res u) i = rd u i := fun i hi => rd_endCall hi st res u
  generalize endCall b st res u = v at e hp r2 r3 r4
  refine ⟨answerWith stOk (st :: res) v, by rw [he, e], rfl, r3, ⟨?_, ?_, ?_, ?_, fun i hi => ?_⟩, hp⟩
  · exact r2.1.trans (hs.1.trans r1.1)
  · exact r2.2.1.trans (hs.2.1.trans r1.2.1)
  · exact r2.2.2.1.trans (hs.2.2.1.trans r1.2.2.1)
  · exact r2.2.2.2.trans (hs.2.2.2.1.trans r1.2.2.2)
  · have h1 : ¬ InPage b i := fun e => hi (.inl e)
    rw [rd_answerWith, r4 i h1, hs.2.2.2.2 i (fun e => hi (.inr e)), rd_called h1]

end Sys2Proof.Machine
end

