-- ==== Sys2Proof/Laws/Hbm.lean ====
section
/-! SUPPORT. What a read of HBM by firmware depends on. -/
namespace Sys2Proof.Machine

/-- Two states show the same HBM to a read: the stacks' bytes, the lines out of order, the states of the MSDs, and parity. -/
structure SameHbm (s t : State) : Prop where
  bytes : t.hbm = s.hbm
  bad : t.hbmBad = s.hbmBad
  parity : rd t rModStatus = rd s rModStatus
  msd : ∀ n, n < 16 → rd t (rMsdStatus n) = rd s (rMsdStatus n)

theorem SameHbm.lineUp_eq {s t : State} (h : SameHbm s t) {n : Nat} (hn : n < 16) (o : Nat) : lineUp t n o = lineUp s n o := by
  unfold lineUp msdDown msdState fld
  rw [h.msd n hn, h.bad]

theorem SameHbm.lineVal_eq {s t : State} (h : SameHbm s t) {n : Nat} (hn : n < 16) (o : Nat) : lineVal t n o = lineVal s n o := by
  have hr : ∀ a b, rawLine t a b = rawLine s a b := fun a b => by unfold rawLine; rw [h.bytes]
  have hz : (stripeOf n o).i < 16 := by
    unfold stripeOf
    dsimp only
    split
    · exact Nat.mod_lt _ (by decide)
    · exact hn
  unfold lineVal rebuilt parityOn fld
  rw [h.lineUp_eq hn, h.parity, hr]
  have hl : ∀ e ∈ List.filter (fun e => e.1 != n) (parityAt (stripeOf n o) :: dataAt (stripeOf n o)), e.1 < 16 := by
    intro e he
    rcases List.mem_cons.mp (List.mem_filter.mp he).1 with e1 | e1
    · rw [e1]; exact hz
    · unfold dataAt at e1
      obtain ⟨j, -, e2⟩ := List.mem_map.mp e1
      rw [← e2]
      exact Nat.mod_lt _ (by decide)
  dsimp only
  generalize List.filter (fun e => e.1 != n) (parityAt (stripeOf n o) :: dataAt (stripeOf n o)) = l at hl ⊢
  have h1 : l.all (fun e => lineUp t e.1 e.2) = l.all (fun e => lineUp s e.1 e.2) := by
    induction l with
    | nil => rfl
    | cons a b ih =>
      rw [List.all_cons, List.all_cons, h.lineUp_eq (hl a List.mem_cons_self), ih (fun e he => hl e (List.mem_cons_of_mem _ he))]
  have h2 : ∀ x, l.foldl (fun x e => xorBytes x (rawLine t e.1 e.2)) x = l.foldl (fun x e => xorBytes x (rawLine s e.1 e.2)) x := by
    intro x
    simp only [hr]
  rw [h1, h2]

/-- Such a read gives the same bytes. -/
theorem SameHbm.hbmPeek_eq {s t : State} (h : SameHbm s t) (a n : Nat) : hbmPeek t a n = hbmPeek s a n := by
  unfold hbmPeek
  have : ∀ e : Nat × Nat, lineVal t (stackOf e.1) (stackOff (e.1 / 64 * 64)) = lineVal s (stackOf e.1) (stackOff (e.1 / 64 * 64)) :=
    fun e => h.lineVal_eq (Nat.mod_lt _ (by decide)) _
  simp only [this]

/-- The start of a call on any page leaves HBM as it reads. -/
theorem sameHbm_called {b : Nat} (h : ∀ n, n < 16 → ¬ InPage b (rMsdStatus n)) (h2 : ¬ InPage b rModStatus) (code : Nat)
    (args : List Nat) (s : State) : SameHbm s (called b code args s) := by
  obtain ⟨r, e⟩ := regsOnly_called b code args s
  exact ⟨by rw [e], by rw [e], rd_called h2 code args s, fun n hn => rd_called (h n hn) code args s⟩

/-- A call's end changes registers of its page and ends the call. -/
theorem endCall_shape (b st : Nat) (res : List Nat) (s : State) : ∃ r c, endCall b st res s = { s with regs := r, calls := c } := by
  have h : ∀ x, RegsOnly s x → ∃ r c, ({ x with calls := tabDel b x.calls } : State) = { s with regs := r, calls := c } := by
    rintro x ⟨r, rfl⟩
    exact ⟨r, _, rfl⟩
  rw [endCall_eq]
  exact h _ ((((regsOnly_resWritten b res s).trans (regsOnly_wr _ _ _)).trans ((regsOnly_wr _ _ _).trans (regsOnly_wr _ _ _))).trans
    (regsOnly_wr _ _ _))

/-- The page shows BUSY after the start of a call. -/
theorem busy_called (b code : Nat) (args : List Nat) (s : State) : rdN (called b code args s) (mbxStatus b) % 2 = 1 := by
  unfold called rdN
  dsimp only
  rw [rd_wr_same, BitVec.toNat_or]
  show (_ ||| 1) % 2 = 1
  rw [Nat.or_mod_two_eq_one]
  exact .inr rfl

theorem look_tabPut {α : Type} (k : Nat) (v : α) (m : List (Nat × α)) : look (tabPut k v m) k = some v := by
  induction m with
  | nil => simp [look, tabPut]
  | cons e t ih =>
    unfold tabPut
    split
    · simp [look]
    · split
      · simp [look]
      · rename_i h1 h2
        unfold look at ih ⊢
        rw [List.find?_cons_of_neg (by simp only [beq_iff_eq]; omega)]
        exact ih

/-- A call whose body runs on, as one whole. -/
theorem calls_runs {c : Instr} {s u : State} {b code rid : Nat} {args keep : List Nat} {body : State → Reply × State} {K : Nat → Prop}
    {p : State → Prop} (he : exec c s = .next (service b code rid args body s)) (h : Callable s rid b)
    (hb : body (called b code args s) = (.runs keep, u)) (hs : SameBut K (called b code args s) u) (hk : ¬ K (mbxStatus b))
    (hbeat : u.beat = s.beat) (hp : p (answerWith stOk [] { u with calls := tabPut b ⟨code, rid, args, u.beat, keep⟩ u.calls })) :
    Starts c s b ⟨code, rid, args, s.beat, keep⟩ K p := by
  obtain ⟨r, e⟩ := regsOnly_called b code args s
  have h1 : SameBut (fun k => InPage b k ∨ K k) s (called b code args s) :=
    ⟨by rw [e], by rw [e], by rw [e], by rw [e], fun i hi => rd_called (fun x => hi (.inl x)) code args s⟩
  have h2 : rdN u (mbxStatus b) % 2 = 1 := by
    rw [hs.rdN_eq hk]
    exact busy_called b code args s
  have e2 : exec c s = .next (answerWith stOk [] { u with calls := tabPut b ⟨code, rid, args, u.beat, keep⟩ u.calls }) := by
    rw [he, service_callable h, hb]
  refine ⟨_, e2, rfl, h2, ?_, ?_, hp⟩
  · rw [← hbeat]
    exact look_tabPut b _ u.calls
  · exact h1.trans ((hs.mono fun _ => .inr).trans (.same u rfl rfl rfl rfl rfl))

/-- `t` reads as `s` outside the registers in `P`. -/
structure Off (P : Nat → Prop) (s t : State) : Prop where
  rd : ∀ k, ¬ P k → Machine.rd t k = Machine.rd s k
  rdN : ∀ k, ¬ P k → Machine.rdN t k = Machine.rdN s k
  fld : ∀ k f, ¬ P k → Machine.fld t k f = Machine.fld s k f

theorem Off.mk' {P : Nat → Prop} {s t : State} (h : ∀ k, ¬ P k → Machine.rd t k = Machine.rd s k) : Off P s t :=
  ⟨h, fun k hk => by unfold Machine.rdN; rw [h k hk], fun k f hk => by unfold Machine.fld; rw [h k hk]⟩

/-- A call that ends at once, from what its body does in a state that is `s` but for the registers of the page. -/
theorem call_done {c : Instr} {s : State} {b code rid st : Nat} {args res : List Nat} {body : State → Reply × State} {K : Nat → Prop}
    {p : State → Prop} (he : exec c s = .next (service b code rid args body s)) (h : Callable s rid b)
    (H : ∀ r, Off (InPage b) s { s with regs := r } → ∃ u, body { s with regs := r } = (.done st res, u) ∧
      SameBut K { s with regs := r } u ∧ ∀ q c, Off (InPage b) u { u with regs := q, calls := c, answer := ⟨stOk, st :: res⟩ } →
        p { u with regs := q, calls := c, answer := ⟨stOk, st :: res⟩ }) : Calls c s b st res K p := by
  obtain ⟨r, e⟩ := regsOnly_called b code args s
  obtain ⟨u, h1, h2, h3⟩ := H r (.mk' fun k hk => by rw [← e]; exact rd_called hk code args s)
  rw [← e] at h1 h2
  refine calls_done he h h1 h2 ?_
  obtain ⟨q, c, e2⟩ := endCall_shape b st res u
  have h4 : answerWith stOk (st :: res) (endCall b st res u) = { u with regs := q, calls := c, answer := ⟨stOk, st :: res⟩ } := by
    rw [e2]; rfl
  have h5 : ∀ w, answerWith stOk (st :: res) (endCall b st res u) = w → Off (InPage b) u w := by
    rintro w rfl
    exact .mk' fun k hk => by rw [rd_answerWith, rd_endCall hk st res u]
  have h6 := h3 q c (h5 _ h4)
  rw [← h4] at h6
  exact h6

/-- A call that runs on, likewise. -/
theorem call_runs {c : Instr} {s : State} {b code rid : Nat} {args keep : List Nat} {body : State → Reply × State} {K : Nat → Prop}
    {p : State → Prop} (he : exec c s = .next (service b code rid args body s)) (h : Callable s rid b) (hk : ¬ K (mbxStatus b))
    (H : ∀ r, Off (InPage b) s { s with regs := r } → ∃ u, body { s with regs := r } = (.runs keep, u) ∧
      SameBut K { s with regs := r } u ∧ u.beat = s.beat ∧ ∀ c, p { u with calls := c, answer := ⟨stOk, []⟩ }) :
    Starts c s b ⟨code, rid, args, s.beat, keep⟩ K p := by
  obtain ⟨r, e⟩ := regsOnly_called b code args s
  obtain ⟨u, h1, h2, h3, h4⟩ := H r (.mk' fun k hk => by rw [← e]; exact rd_called hk code args s)
  rw [← e] at h1 h2
  exact calls_runs he h h1 h2 hk h3 (h4 _)

end Sys2Proof.Machine
end

