-- ==== Sys2Proof/Laws/HbmWrite.lean ====
section
/-! SUPPORT. A write of HBM whose stacks are all in service: the bytes stand where they are written, parity goes with them, and the rest
of addressable HBM is as before. -/
namespace Sys2Proof.Machine

/-- What such a write changes beside the stacks' bytes: event counters, and the combining entries it closes. -/
structure HbmOnly (s t : State) : Prop where
  shape : ∃ q m l, t = { s with regs := q, hbm := m, lineReads := l }
  regs : ∀ k, ¬ Tally k → rd t k = rd s k

theorem HbmOnly.refl (s : State) : HbmOnly s s := ⟨⟨_, _, _, rfl⟩, fun _ _ => rfl⟩

theorem HbmOnly.trans {s t u : State} (h : HbmOnly s t) (g : HbmOnly t u) : HbmOnly s u := by
  obtain ⟨⟨q, m, l, rfl⟩, h2⟩ := h
  obtain ⟨⟨q', m', l', rfl⟩, g2⟩ := g
  exact ⟨⟨q', m', l', rfl⟩, fun k hk => (g2 k hk).trans (h2 k hk)⟩

theorem HbmOnly.msd {s t : State} (h : HbmOnly s t) {n : Nat} (hn : n < 16) : msdState t n = msdState s n := by
  unfold msdState fld
  rw [h.regs _ (by simp only [rMsdStatus, msdBase, Tally]; omega)]

theorem HbmOnly.parity {s t : State} (h : HbmOnly s t) : parityOn t = parityOn s := by
  unfold parityOn fld
  rw [h.regs _ (by simp only [rModStatus, Tally]; omega)]

theorem HbmOnly.top {s t : State} (h : HbmOnly s t) : hbmTop t = hbmTop s := by
  unfold hbmTop
  rw [h.parity]

theorem HbmOnly.ready {s t : State} (h : HbmOnly s t) (hr : HbmReady s) : HbmReady t := by
  refine ⟨fun n hn => (h.msd hn).trans (hr.1 n hn), ?_, ?_⟩
  · obtain ⟨⟨q, m, l, rfl⟩, -⟩ := h; exact hr.2.1
  · obtain ⟨⟨q, m, l, rfl⟩, -⟩ := h; exact hr.2.2

theorem HbmOnly.same {K : Nat → Prop} {s t : State} (h : HbmOnly s t) (hh : t.hbm = s.hbm) (hK : ∀ k, Tally k → K k) : SameBut K s t := by
  obtain ⟨⟨q, m, l, rfl⟩, h2⟩ := h
  exact ⟨rfl, hh, rfl, rfl, fun k hk => h2 k (fun e => hk (hK k e))⟩

/-- Counting keeps everything but the register file. -/
theorem regsOnly_countOne (cfg cnt done : Nat) (i : Ids) (n : Nat) (s : State) : RegsOnly s (countOne cfg cnt done i n s) := by
  unfold countOne
  dsimp only
  split
  · split
    · exact regsOnly_wr _ _ _
    · exact .refl s
  · split
    · exact (regsOnly_wr _ _ s).trans (regsOnly_wr _ _ _)
    · exact regsOnly_wr _ _ _

theorem RegsOnly.foldl {α : Type} {f : State → α → State} (hf : ∀ s x, RegsOnly s (f s x)) (l : List α) (s : State) :
    RegsOnly s (l.foldl f s) := by
  induction l generalizing s with
  | nil => exact .refl s
  | cons a t ih => exact (hf s a).trans (ih _)

theorem hbmOnly_countMsd {m : Nat} (hm : m < 16) (ev : Nat) (i : Ids) (n : Nat) (s : State) : HbmOnly s (countMsd m ev i n s) := by
  refine ⟨?_, (quiet_countMsd hm ev i n s).regs⟩
  have h : RegsOnly s (countMsd m ev i n s) := by
    unfold countMsd countBlk
    split
    · exact .refl s
    · exact .foldl (fun s x => regsOnly_countOne _ _ _ _ _ s) _ s
  obtain ⟨q, e⟩ := h
  exact ⟨q, s.hbm, s.lineReads, e⟩

theorem hbm_countMsd (m ev : Nat) (i : Ids) (n : Nat) (s : State) : (countMsd m ev i n s).hbm = s.hbm := by
  have h : RegsOnly s (countMsd m ev i n s) := by
    unfold countMsd countBlk
    split
    · exact .refl s
    · exact .foldl (fun s x => regsOnly_countOne _ _ _ _ _ s) _ s
  obtain ⟨q, e⟩ := h
  rw [e]

theorem msdDown_ready {s : State} (hr : HbmReady s) {n : Nat} (hn : n < 16) : msdDown s n = false := by
  unfold msdDown
  rw [hr.1 n hn]
  decide

theorem lineUp_ready {s : State} (hr : HbmReady s) {n : Nat} (hn : n < 16) (o : Nat) : lineUp s n o = true := by
  unfold lineUp
  rw [msdDown_ready hr hn, hr.2.1]
  rfl

/-- Such a stack gives its line as it is stored. -/
theorem readLine_ready {s : State} (hr : HbmReady s) {n : Nat} (hn : n < 16) (o : Nat) :
    readLine n o s = (some (rawLine s n o), countMsd n 0x80 noIds 1 s) := by
  have h := hbmOnly_countMsd hn 0x80 noIds 1 s
  unfold readLine
  simp only [msdDown_ready hr hn, Bool.false_eq_true, if_false, lineUp_ready (h.ready hr) hn, if_true]
  unfold rawLine
  rw [hbm_countMsd]

/-- Bytes of stack `n` from offset `o` on have been written, and no other byte below the parity region. -/
def LineSet (s t : State) (n o : Nat) (l : List Byte) : Prop :=
  ∀ m x, m < 16 → x < 2 ^ 36 → (parityOn s = true → x < parityBase) →
    memByte t.hbm (hkey m x) = if m = n ∧ o ≤ x ∧ x < o + l.length then l.getD (x - o) 0 else memByte s.hbm (hkey m x)

theorem hbmOnly_putLine {s : State} (hr : HbmReady s) (n o : Nat) (l : List Byte) : HbmOnly s (putLine n o l s) := by
  refine ⟨⟨s.regs, memWrite s.hbm (hkey n o) l, s.lineReads, ?_⟩, fun _ _ => rfl⟩
  unfold putLine
  rw [hr.2.1, List.filter_nil]

theorem byte_putLine (n o : Nat) (l : List Byte) (s : State) (m x : Nat) (hx : x < 2 ^ 36) (ho : o + l.length ≤ 2 ^ 36) :
    memByte (putLine n o l s).hbm (hkey m x) =
      if m = n ∧ o ≤ x ∧ x < o + l.length then l.getD (x - o) 0 else memByte s.hbm (hkey m x) := by
  unfold putLine
  dsimp only
  rw [memByte_memWrite]
  unfold hkey
  by_cases h : m = n ∧ o ≤ x ∧ x < o + l.length
  · rw [if_pos h, if_pos (by rw [h.1]; omega), h.1, show n * 2 ^ 36 + x - (n * 2 ^ 36 + o) = x - o by omega]
  · rw [if_neg h, if_neg]
    rintro ⟨h1, h2⟩
    apply h
    have h3 : m = n := by omega
    subst h3
    exact ⟨rfl, by omega, by omega⟩

theorem xorBytes_length (a b : List Byte) : (xorBytes a b).length ≤ a.length := by
  induction a generalizing b with
  | nil => exact Nat.le_refl _
  | cons x t ih =>
    cases b with
    | nil => simp [xorBytes]
    | cons y u => simp only [xorBytes, List.length_cons]; have := ih u; omega

theorem rawLine_length (s : State) (n o : Nat) : (rawLine s n o).length = 64 := by
  have h : ∀ (m : Mem) (k a : Nat), (memRead m a k).length = k := by
    intro m k
    induction k with
    | zero => intro a; rfl
    | succ k ih => intro a; simp only [memRead, List.length_cons, ih]
  exact h _ _ _

/-- A stripe's number and parity offset stay inside a stack. -/
theorem parityAt_lt {n o : Nat} (ho : o < parityBase) : (parityAt (stripeOf n o)).1 < 16 ∧
    parityBase ≤ (parityAt (stripeOf n o)).2 ∧ (parityAt (stripeOf n o)).2 + 64 ≤ 2 ^ 36 ∨ ¬ o % 64 = 0 := by
  by_cases h : o % 64 = 0
  · left
    unfold stripeOf
    rw [if_pos ho]
    unfold parityAt parityBase at *
    dsimp only
    omega
  · exact .inr h

/-- A line write carried through, all stacks in service: the line stands, and its parity line has taken the difference. -/
theorem writeLine_ready {s : State} (hr : HbmReady s) {n o : Nat} (hn : n < 16) (ho : o % 64 = 0) (h36 : o + 64 ≤ 2 ^ 36)
    (hp : parityOn s = true → o < parityBase) {l : List Byte} (hl : l.length = 64) :
    ∃ t, writeLine n o l s = (0, t) ∧ HbmOnly s t ∧ LineSet s t n o l := by
  unfold writeLine
  dsimp only
  cases hpar : parityOn s with
  | false =>
    have h1 := hbmOnly_putLine hr n o l
    have h2 := hbmOnly_countMsd hn 0x81 noIds 1 (putLine n o l s)
    refine ⟨countMsd n 0x81 noIds 1 (putLine n o l s), ?_, h1.trans h2, ?_⟩
    · simp only [msdDown_ready hr hn, Bool.not_false, if_true, Bool.false_eq_true, if_false]
    · intro m x hm hx _
      rw [hbm_countMsd, byte_putLine n o l s m x hx (by omega)]
  | true =>
    have hop := hp hpar
    obtain ⟨hz, hb1, hb2⟩ | hz := parityAt_lt (n := n) hop
    case inr => exact absurd ho hz
    simp only [msdDown_ready hr hn, msdDown_ready hr hz, Bool.not_true, Bool.false_eq_true, if_false, readLine_ready hr hn]
    have c1 := hbmOnly_countMsd hn 0x80 noIds 1 s
    rw [readLine_ready (c1.ready hr) hz]
    dsimp only
    have c2 := c1.trans (hbmOnly_countMsd hz 0x80 noIds 1 (countMsd n 0x80 noIds 1 s))
    have b2 : (countMsd (parityAt (stripeOf n o)).1 0x80 noIds 1 (countMsd n 0x80 noIds 1 s)).hbm = s.hbm := by
      rw [hbm_countMsd, hbm_countMsd]
    generalize countMsd (parityAt (stripeOf n o)).1 0x80 noIds 1 (countMsd n 0x80 noIds 1 s) = v at c2 b2 ⊢
    have d1 : ∃ e, applyDelta (stripeOf n o) (xorBytes (rawLine s n o) l) v = putLine (parityAt (stripeOf n o)).1
        (parityAt (stripeOf n o)).2 e (countMsd (parityAt (stripeOf n o)).1 0x86 noIds 1 (countMsd (parityAt (stripeOf n o)).1 0x81 noIds 1
        (countMsd (parityAt (stripeOf n o)).1 0x80 noIds 1 v))) ∧ e.length ≤ 64 :=
      ⟨_, rfl, Nat.le_trans (xorBytes_length _ _) (Nat.le_of_eq (rawLine_length _ _ _))⟩
    obtain ⟨e, de, dl⟩ := d1
    rw [de]
    have c3 := ((c2.trans (hbmOnly_countMsd hz 0x80 noIds 1 v)).trans (hbmOnly_countMsd hz 0x81 noIds 1 _)).trans
      (hbmOnly_countMsd hz 0x86 noIds 1 _)
    have b3 : (countMsd (parityAt (stripeOf n o)).1 0x86 noIds 1 (countMsd (parityAt (stripeOf n o)).1 0x81 noIds 1
        (countMsd (parityAt (stripeOf n o)).1 0x80 noIds 1 v))).hbm = s.hbm := by
      rw [hbm_countMsd, hbm_countMsd, hbm_countMsd, b2]
    generalize countMsd (parityAt (stripeOf n o)).1 0x86 noIds 1 (countMsd (parityAt (stripeOf n o)).1 0x81 noIds 1
        (countMsd (parityAt (stripeOf n o)).1 0x80 noIds 1 v)) = w at c3 b3 ⊢
    have c4 := c3.trans (hbmOnly_putLine (c3.ready hr) (parityAt (stripeOf n o)).1 (parityAt (stripeOf n o)).2 e)
    have c5 := c4.trans (hbmOnly_putLine (c4.ready hr) n o l)
    refine ⟨_, rfl, c5.trans (hbmOnly_countMsd hn 0x81 noIds 1 _), ?_⟩
    intro m x hm hx hxp
    rw [hbm_countMsd, byte_putLine n o l _ m x hx (by omega), byte_putLine _ _ e w m x hx (by omega), b3]
    have := hxp hpar
    rw [if_neg (c := m = (parityAt (stripeOf n o)).1 ∧ _) (by omega)]

/-- Where the bytes of a device address lie in its stack. -/
theorem stackOff_lt {x : Nat} (h : x < 0x9000000000) : stackOff x < 0x900000000 := by
  unfold stackOff
  omega

theorem stackOff_data {x : Nat} (h : x < 0x8700000000) : stackOff x < parityBase := by
  unfold stackOff parityBase
  omega

theorem hbmTop_le (s : State) : hbmTop s ≤ 0x9000000000 := by
  unfold hbmTop
  split <;> decide

theorem hbmTop_parity {s : State} (h : parityOn s = true) : hbmTop s = 0x8700000000 := by
  unfold hbmTop
  rw [if_pos h]

/-- Bytes of one line lie together in one stack. -/
theorem line_iff {a x : Nat} (n : Nat) (hn : a % 64 + n ≤ 64) :
    (stackOf x = stackOf a ∧ stackOff a ≤ stackOff x ∧ stackOff x < stackOff a + n) ↔ (a ≤ x ∧ x < a + n) := by
  unfold stackOf stackOff
  constructor
  · rintro ⟨h1, h2, h3⟩
    omega
  · rintro ⟨h1, h2⟩
    omega

theorem line_sub {a x : Nat} (n : Nat) (hn : a % 64 + n ≤ 64) (h : a ≤ x ∧ x < a + n) : stackOff x - stackOff a = x - a := by
  unfold stackOff
  omega

theorem stored_of_lineSet {s t : State} {a : Nat} {l : List Byte} (hl : a % 64 + l.length ≤ 64)
    (h : LineSet s t (stackOf a) (stackOff a) l) : Stored s t a l := by
  intro x hx
  have h1 := hbmTop_le s
  unfold hbmByte
  rw [h (stackOf x) (stackOff x) (Nat.mod_lt _ (by decide)) (by have := stackOff_lt (x := x) (by omega); omega)
    (fun hp => stackOff_data (by have := hbmTop_parity hp; omega))]
  by_cases hc : a ≤ x ∧ x < a + l.length
  · rw [if_pos ((line_iff _ hl).mpr hc), if_pos hc, line_sub _ hl hc]
  · rw [if_neg (fun e => hc ((line_iff _ hl).mp e)), if_neg hc]

theorem LineSet.of_hbm {s u t : State} {n o : Nat} {l : List Byte} (h : LineSet u t n o l) (e : u.hbm = s.hbm)
    (hp : parityOn u = parityOn s) : LineSet s t n o l := by
  intro m x hm hx hxp
  rw [← e]
  exact h m x hm hx (by rw [hp]; exact hxp)

/-- The drain of a line and the closing of its combined reads, no write being in progress. -/
theorem drained_ready {s : State} (hr : HbmReady s) (a b : Nat) (l : List Byte) : HbmOnly s (closeReads a l (drainLine b s)) ∧
    (closeReads a l (drainLine b s)).hbm = s.hbm := by
  have e : drainLine b s = s := by
    unfold drainLine
    have h := hr.2.2
    dsimp only
    rw [h]
    show { s with lineWrites := [] } = s
    rw [← h]
  rw [e]
  exact ⟨⟨⟨s.regs, s.hbm, _, rfl⟩, fun _ _ => rfl⟩, rfl⟩

theorem memRead_getD (m : Mem) (n a i : Nat) (h : i < n) : (memRead m a n).getD i 0 = memByte m (a + i) := by
  induction n generalizing a i with
  | zero => omega
  | succ n ih =>
    cases i with
    | zero => rfl
    | succ i =>
      show (memRead m (a + 1) n).getD i 0 = _
      rw [ih (a + 1) i (by omega)]
      congr 1
      omega

theorem patch_length {line l : List Byte} {o : Nat} (h1 : line.length = 64) (h2 : o + l.length ≤ 64) : (patch line o l).length = 64 := by
  unfold patch
  simp only [List.length_append, List.length_take, List.length_drop]
  omega

theorem patch_getD {line l : List Byte} {o : Nat} (h1 : line.length = 64) (h2 : o + l.length ≤ 64) (i : Nat) :
    (patch line o l).getD i 0 = if o ≤ i ∧ i < o + l.length then l.getD (i - o) 0 else line.getD i 0 := by
  unfold patch
  simp only [List.getD_eq_getElem?_getD, List.append_assoc]
  by_cases hi : i < o
  · rw [if_neg (by omega), List.getElem?_append_left (by simp only [List.length_take]; omega), List.getElem?_take_of_lt hi]
  · rw [List.getElem?_append_right (by simp only [List.length_take]; omega), List.length_take, Nat.min_eq_left (by omega)]
    by_cases hj : i < o + l.length
    · rw [if_pos ⟨by omega, hj⟩, List.getElem?_append_left (by omega)]
    · rw [if_neg (by omega), List.getElem?_append_right (by omega), List.getElem?_drop]
      congr 2
      omega

/-- A piece of a line written: its bytes stand, and no other byte below the parity region changes. -/
theorem hbmWriteLine_ready {s : State} (hr : HbmReady s) {a : Nat} {l : List Byte} (hl : a % 64 + l.length ≤ 64)
    (ht : a / 64 * 64 + 64 ≤ hbmTop s) : ∃ t, hbmWriteLine a l s = (0, t) ∧ HbmOnly s t ∧ Stored s t a l := by
  have h16 : stackOf a < 16 := Nat.mod_lt _ (by decide)
  have h1 := hbmTop_le s
  have ho : stackOff (a / 64 * 64) % 64 = 0 := by unfold stackOff; omega
  have h36 : stackOff (a / 64 * 64) + 64 ≤ 2 ^ 36 := by
    have := stackOff_lt (x := a / 64 * 64) (by omega)
    omega
  have hs : stackOf (a / 64 * 64) = stackOf a := by unfold stackOf; omega
  have hof : stackOff a = stackOff (a / 64 * 64) + a % 64 := by unfold stackOff; omega
  unfold hbmWriteLine
  dsimp only
  obtain ⟨c1, b1⟩ := drained_ready hr a a (rawLine (drainLine a s) (stackOf a) (stackOff (a / 64 * 64)))
  generalize closeReads a (rawLine (drainLine a s) (stackOf a) (stackOff (a / 64 * 64))) (drainLine a s) = u at c1 b1 ⊢
  have hp : ∀ v, HbmOnly s v → parityOn v = true → stackOff (a / 64 * 64) < parityBase := by
    intro v hv e
    rw [hv.parity] at e
    exact stackOff_data (by have := hbmTop_parity e; omega)
  by_cases h64 : l.length = 64
  · rw [if_pos h64]
    obtain ⟨t, e, c2, w⟩ := writeLine_ready (c1.ready hr) h16 ho h36 (hp u c1) h64
    refine ⟨t, e, c1.trans c2, ?_⟩
    have ha : a / 64 * 64 = a := by omega
    rw [ha] at w
    exact stored_of_lineSet hl (w.of_hbm b1 c1.parity)
  · rw [if_neg h64, readLine_ready (c1.ready hr) h16]
    dsimp only
    have c2 := c1.trans (hbmOnly_countMsd h16 0x80 noIds 1 u)
    have b2 : (countMsd (stackOf a) 0x80 noIds 1 u).hbm = s.hbm := by rw [hbm_countMsd, b1]
    have hlen := patch_length (rawLine_length u (stackOf a) (stackOff (a / 64 * 64))) hl
    have hg := patch_getD (rawLine_length u (stackOf a) (stackOff (a / 64 * 64))) hl
    generalize patch (rawLine u (stackOf a) (stackOff (a / 64 * 64))) (a % 64) l = pl at hlen hg ⊢
    obtain ⟨t, e, c3, w⟩ := writeLine_ready (c2.ready hr) h16 ho h36 (hp _ c2) hlen
    refine ⟨t, e, c2.trans c3, ?_⟩
    have w' := w.of_hbm b2 c2.parity
    rw [← hs] at w'
    have st := stored_of_lineSet (a := a / 64 * 64) (by rw [hlen]; omega) w'
    intro x hx
    rw [st x hx, hlen]
    by_cases hin : a / 64 * 64 ≤ x ∧ x < a / 64 * 64 + 64
    · rw [if_pos hin, hg]
      by_cases hq : a ≤ x ∧ x < a + l.length
      · rw [if_pos (by omega), if_pos hq]
        congr 1
        omega
      · rw [if_neg (by omega), if_neg hq]
        unfold rawLine
        rw [memRead_getD _ _ _ _ (by omega), b1]
        have g1 : stackOf x = stackOf a := by unfold stackOf; omega
        have g2 : stackOff x = stackOff (a / 64 * 64) + (x - a / 64 * 64) := by unfold stackOff; omega
        have g3 : hkey (stackOf a) (stackOff (a / 64 * 64)) + (x - a / 64 * 64) = hkey (stackOf x) (stackOff x) := by
          rw [g1, g2]
          unfold hkey
          omega
        unfold hbmByte
        rw [g3]
    · rw [if_neg hin, if_neg (by omega)]

theorem Stored.top {s t : State} (h : HbmOnly s t) {x : Nat} (hx : x < hbmTop s) : x < hbmTop t := by rw [h.top]; exact hx

/-- The pieces of a run are within its lines and cover it in order. -/
theorem hbmWrite_ready_aux (l0 : List Byte) (a0 : Nat) (fuel : Nat) : ∀ (a n : Nat) (s u : State), n ≤ 64 * fuel - (if a % 64 = 0 then 0 else a % 64) →
    HbmReady u → HbmOnly s u → a0 ≤ a → a + n = a0 + l0.length → (a0 + l0.length + 63) / 64 * 64 ≤ hbmTop s →
    Stored s u a0 (l0.take (a - a0)) →
    ∃ t, (linePieces fuel a n).foldl (fun (acc : Nat × State) e =>
      if acc.1 ≠ 0 then acc else hbmWriteLine e.1 (slice (e.1 - a0) e.2 l0) acc.2) (0, u) = (0, t) ∧ HbmOnly s t ∧ Stored s t a0 l0 := by
  induction fuel with
  | zero =>
    intro a n s u hn hr c h1 h2 h3 h4
    refine ⟨u, rfl, c, ?_⟩
    rw [List.take_of_length_le (by omega)] at h4
    exact h4
  | succ f ih =>
    intro a n s u hn hr c h1 h2 h3 h4
    by_cases h0 : n = 0
    · subst h0
      refine ⟨u, by rw [linePieces, if_pos rfl]; rfl, c, ?_⟩
      rw [List.take_of_length_le (by omega)] at h4
      exact h4
    · rw [linePieces, if_neg h0]
      dsimp only
      rw [List.foldl_cons]
      dsimp only
      rw [if_neg (by decide)]
      have hk : (slice (a - a0) (min n (64 - a % 64)) l0).length = min n (64 - a % 64) := by
        unfold slice padTo
        simp only [List.length_take, List.length_append, List.length_replicate, List.length_drop]
        omega
      obtain ⟨t, e, c2, st⟩ := hbmWriteLine_ready (a := a) (l := slice (a - a0) (min n (64 - a % 64)) l0) hr (by rw [hk]; omega)
        (by rw [c.top]; omega)
      rw [e]
      refine ih (a + min n (64 - a % 64)) (n - min n (64 - a % 64)) s t ?_ (c2.ready hr) (c.trans c2) (by omega) (by omega) h3 ?_
      · split at hn
        · rename_i hz
          split
          · omega
          · omega
        · split
          · omega
          · omega
      · intro x hx
        rw [st x (Stored.top c hx), hk]
        have hlt : (l0.take (a + min n (64 - a % 64) - a0)).length = a + min n (64 - a % 64) - a0 := by
          rw [List.length_take]; omega
        have hl2 : (l0.take (a - a0)).length = a - a0 := by rw [List.length_take]; omega
        rw [hlt]
        by_cases hin : a ≤ x ∧ x < a + min n (64 - a % 64)
        · rw [if_pos hin, if_pos (by omega)]
          unfold slice padTo
          simp only [List.getD_eq_getElem?_getD]
          rw [List.getElem?_take_of_lt (by omega), List.getElem?_append_left (by rw [List.length_drop]; omega), List.getElem?_drop,
            List.getElem?_take_of_lt (by omega)]
          congr 2
          omega
        · rw [if_neg hin, h4 x hx, hl2]
          by_cases hc : a0 ≤ x ∧ x < a0 + (a - a0)
          · rw [if_pos hc, if_pos (by omega)]
            simp only [List.getD_eq_getElem?_getD]
            rw [List.getElem?_take_of_lt (by omega), List.getElem?_take_of_lt (by omega)]
          · rw [if_neg hc, if_neg (by omega)]

/-- A run written: its bytes stand, and every other byte of addressable HBM is as before. -/
theorem hbmWrite_ready {s : State} (hr : HbmReady s) {a : Nat} {l : List Byte} (ht : a + l.length ≤ hbmTop s) :
    ∃ t, hbmWrite a l s = (0, t) ∧ HbmOnly s t ∧ Stored s t a l := by
  unfold hbmWrite pieces
  refine hbmWrite_ready_aux l a _ a l.length s s ?_ hr (.refl s) (Nat.le_refl a) rfl ?_ ?_
  · split <;> omega
  · have : hbmTop s % 64 = 0 := by unfold hbmTop; split <;> rfl
    omega
  · intro x hx
    rw [if_neg]
    rw [List.length_take]
    omega

/-- What firmware writes to HBM no companion holds a line of. -/
theorem fwWrite_ready {s : State} (hr : HbmReady s) {a : Nat} {l : List Byte} (ht : a + l.length ≤ hbmTop s)
    (hc : conflicts s a l.length true = []) : HbmOnly s (fwWrite a l s) ∧ Stored s (fwWrite a l s) a l := by
  obtain ⟨t, e, c, st⟩ := hbmWrite_ready hr ht
  have h : fwWrite a l s = t := by
    unfold fwWrite devWrite rangeAt
    rw [if_pos ht]
    dsimp only
    have : hbmGuarded s srcFirmware a l.length = false := rfl
    rw [this]
    simp only [Bool.false_eq_true, if_false, hc, List.isEmpty_nil, Bool.not_true, e]
  rw [h]
  exact ⟨c, st⟩

end Sys2Proof.Machine
end

