-- ==== Sys2Proof/Laws/Image.lean ====
section
/-! SUPPORT. What reads of a calibre image and the verification of an object depend on. -/
namespace Sys2Proof.Machine

/-- Two states show the same images: the same HBM and the same slots. -/
structure SameImg (s t : State) : Prop extends SameHbm s t where
  images : t.images = s.images

theorem SameImg.imgRead_eq {s t : State} (h : SameImg s t) (im o n : Nat) : imgRead t im o n = imgRead s im o n := by
  unfold imgRead
  rw [h.images]
  cases look s.images im with
  | none => rfl
  | some i => exact h.hbmPeek_eq _ _

theorem SameImg.imgLe_eq {s t : State} (h : SameImg s t) (im o n : Nat) : imgLe t im o n = imgLe s im o n := by
  unfold imgLe
  rw [h.imgRead_eq]

theorem SameImg.imgSection_eq {s t : State} (h : SameImg s t) (im x : Nat) : imgSection t im x = imgSection s im x := by
  unfold imgSection
  simp only [h.imgLe_eq]

theorem SameImg.secLe_eq {s t : State} (h : SameImg s t) (im x z i o n : Nat) : secLe t im x z i o n = secLe s im x z i o n := by
  unfold secLe secOff
  rw [h.imgSection_eq, h.imgLe_eq]

theorem SameImg.cplLe_eq {s t : State} (h : SameImg s t) (im o n : Nat) : cplLe t im o n = cplLe s im o n := h.secLe_eq ..

/-- The start of a call outside the MSDs and MOD leaves the images as they read. -/
theorem sameImg_called {b : Nat} (h : ∀ n, n < 16 → ¬ InPage b (rMsdStatus n)) (h2 : ¬ InPage b rModStatus) (code : Nat)
    (args : List Nat) (s : State) : SameImg s (called b code args s) := by
  refine ⟨sameHbm_called h h2 code args s, ?_⟩
  obtain ⟨r, e⟩ := regsOnly_called b code args s
  rw [e]

/-- A verification depends on the roots and the anti-rollback counters only. -/
theorem verifyCause_eq {s t : State} {type : Nat} (h1 : ∀ k, k < 256 → rd t (rSecRoot k) = rd s (rSecRoot k))
    (h2 : ∀ c, svnClass type = some c → rd t (rSecSvn c) = rd s (rSecSvn c)) (len : Nat) (o : List Byte) :
    verifyCause t type len o = verifyCause s type len o := by
  have hl : ∀ l : List Byte, l.length = 1 → leNat l < 256 := by
    rintro (_ | ⟨b, _ | ⟨c, l⟩⟩) h
    · cases h
    · simp only [leNat]
      have := b.isLt
      omega
    · cases h
  have hk : ohSlot o < 256 := by
    refine hl _ ?_
    unfold slice padTo
    simp only [List.length_take, List.length_append, List.length_replicate]
    omega
  have h3 : ∀ c, svnClass type = some c → fld t (rSecSvn c) fSecSvnCount = fld s (rSecSvn c) fSecSvnCount := fun c hc => by
    unfold fld; rw [h2 c hc]
  unfold verifyCause rootUsable
  cases e : svnClass type with
  | none => unfold fld; simp only [h1 _ hk, Option.any_none]
  | some c => simp only [Option.any_some, h3 c e]; unfold fld; simp only [h1 _ hk]

end Sys2Proof.Machine
end

