-- ==== Sys2Proof/Laws/Keep.lean ====
section
/-! SUPPORT. What every operation keeps: the queue as it was and the register file and memories in canonical form, with the rules by
which the lemmas of the Keep files are put together. -/
namespace Sys2Proof.Machine

/-- Coming from `z`, the state `t` has the same queue, and is in canonical form where `z` was. -/
structure Keeps (z t : State) : Prop where
  queue : t.pending = z.pending
  canon : z.Canonical → t.Canonical

theorem Keeps.refl (s : State) : Keeps s s := ⟨rfl, id⟩
theorem Keeps.of_eq {z s t : State} (h : Keeps z s) (hp : t.pending = s.pending) (hc : s.Canonical → t.Canonical) : Keeps z t :=
  ⟨hp.trans h.queue, fun c => hc (h.canon c)⟩
theorem keeps_mk {z s : State} {a1 a2 a3 a4 a5 a6 a7 a8 a9 a10 a11 a12 a13 a14 a15 b1 b2 b3 b4 b5 b6}
    (h : Keeps z s) : Keeps z (State.mk a1 a2 a3 a4 a5 a6 a7 a8 a9 a10 a11 a12 a13 a14 a15 s.pending b1 b2 b3 b4 s.regs s.spm s.hbm s.buf b5 b6) :=
  ⟨h.queue, h.canon⟩
theorem keeps_ite {z : State} {c : Prop} [Decidable c] {a b : State} (ha : Keeps z a) (hb : Keeps z b) : Keeps z (if c then a else b) := by
  split <;> assumption
theorem keeps_ite2 {α : Type} {z : State} {c : Prop} [Decidable c] {a b : α × State} (ha : Keeps z a.2) (hb : Keeps z b.2) :
    Keeps z (if c then a else b).2 := by split <;> assumption
theorem keeps_ite3 {α β : Type} {z : State} {c : Prop} [Decidable c] {a b : α × β × State} (ha : Keeps z a.2.2) (hb : Keeps z b.2.2) :
    Keeps z (if c then a else b).2.2 := by split <;> assumption
theorem keeps_pair {α : Type} {z t : State} {a : α} (h : Keeps z t) : Keeps z (a, t).2 := h
theorem keeps_triple {α β : Type} {z t : State} {a : α} {b : β} (h : Keeps z t) : Keeps z (a, b, t).2.2 := h
theorem keeps_foldl {α : Type} {z s : State} {f : State → α → State} {l : List α} (hf : ∀ s x, Keeps z s → Keeps z (f s x)) (h : Keeps z s) :
    Keeps z (l.foldl f s) := by
  induction l generalizing s with
  | nil => exact h
  | cons x t ih => exact ih (hf s x h)
theorem keeps_foldl2 {α β : Type} {z : State} {f : β × State → α → β × State} {l : List α} {p : β × State}
    (hf : ∀ p x, Keeps z p.2 → Keeps z (f p x).2) (h : Keeps z p.2) : Keeps z (l.foldl f p).2 := by
  induction l generalizing p with
  | nil => exact h
  | cons x t ih => exact ih (hf p x h)
theorem keeps_foldl3 {α β γ : Type} {z : State} {f : β × γ × State → α → β × γ × State} {l : List α} {p : β × γ × State}
    (hf : ∀ p x, Keeps z p.2.2 → Keeps z (f p x).2.2) (h : Keeps z p.2.2) : Keeps z (l.foldl f p).2.2 := by
  induction l generalizing p with
  | nil => exact h
  | cons x t ih => exact ih (hf p x h)
theorem keeps_whenS {z s : State} {c : Bool} {f : State → State} (hf : ∀ s, Keeps z s → Keeps z (f s)) (h : Keeps z s) : Keeps z (whenS c f s) := by
  unfold whenS; split
  · exact hf s h
  · exact h
/-- An outcome that keeps what `Keeps` says, wherever it is a next state. -/
def KeepsO (z : State) (o : Host.Outcome State Fault Refusal) : Prop := ∀ t, o = .next t → Keeps z t
theorem keepsO_next {z t : State} (h : Keeps z t) : KeepsO z (.next t) := fun _ e => by cases e; exact h
theorem keepsO_fault {z : State} {f : Fault} : KeepsO z (.fault f) := fun _ e => by cases e
theorem keepsO_onUnit {z s : State} {n c : Nat} {f : State → State} (hf : ∀ s, Keeps z s → Keeps z (f s)) (h : Keeps z s) : KeepsO z (onUnit n c s f) := by
  unfold onUnit; split
  · exact keepsO_next (hf s h)
  · exact keepsO_fault
theorem keepsO_onUnits {z s : State} {n c m d : Nat} {f : State → State} (hf : ∀ s, Keeps z s → Keeps z (f s)) (h : Keeps z s) : KeepsO z (onUnits n c m d s f) := by
  unfold onUnits; split
  · exact keepsO_next (hf s h)
  · exact keepsO_fault
theorem keepsO_ite {z : State} {c : Prop} [Decidable c] {a b : Host.Outcome State Fault Refusal} (ha : KeepsO z a) (hb : KeepsO z b) : KeepsO z (if c then a else b) := by
  split <;> assumption

theorem tabDel_mem {α : Type} {k : Nat} {l : List (Nat × α)} {e : Nat × α} (h : e ∈ tabDel k l) : e ∈ l := (List.mem_filter.mp h).1
theorem keysRise_iff {α : Type} (l : List (Nat × α)) : keysRise l = true ↔ l.Pairwise (fun a b => a.1 < b.1) := by
  induction l with
  | nil => simp [keysRise]
  | cons a t ih =>
    obtain ⟨j, v⟩ := a
    cases t with
    | nil => simp [keysRise]
    | cons b t =>
      obtain ⟨k, w⟩ := b
      rw [keysRise, Bool.and_eq_true, ih, decide_eq_true_eq]
      constructor
      · rintro ⟨hjk, hp⟩
        refine List.pairwise_cons.mpr ⟨?_, hp⟩
        intro e he
        rcases List.mem_cons.mp he with rfl | he
        · exact hjk
        · exact Nat.lt_trans hjk (List.rel_of_pairwise_cons hp he)
      · intro h
        have h := List.pairwise_cons.mp h
        exact ⟨h.1 _ List.mem_cons_self, h.2⟩
theorem tabWf_iff {α : Type} [DecidableEq α] (d : Nat → α) (l : List (Nat × α)) :
    tabWf d l = true ↔ l.Pairwise (fun a b => a.1 < b.1) ∧ ∀ e ∈ l, e.2 ≠ d e.1 := by
  simp [tabWf, keysRise_iff, List.all_eq_true]
theorem tabWf_filter {α : Type} [DecidableEq α] {d : Nat → α} {l : List (Nat × α)} (p : Nat × α → Bool) (h : tabWf d l = true) : tabWf d (l.filter p) = true := by
  rw [tabWf_iff] at *
  exact ⟨h.1.filter p, fun e he => h.2 e (List.mem_filter.mp he).1⟩
theorem tabPut_keys {α : Type} {k : Nat} {x : α} {l : List (Nat × α)} {e : Nat × α} (h : e ∈ tabPut k x l) : e = (k, x) ∨ e ∈ l := by
  induction l with
  | nil => simp [tabPut] at h; exact .inl h
  | cons a t ih =>
    obtain ⟨j, v⟩ := a
    simp only [tabPut] at h
    split at h
    · rcases List.mem_cons.mp h with h | h
      · exact .inl h
      · exact .inr h
    · split at h
      · rcases List.mem_cons.mp h with h | h
        · exact .inl h
        · exact .inr (List.mem_cons_of_mem _ h)
      · rcases List.mem_cons.mp h with h | h
        · exact .inr (h ▸ List.mem_cons_self)
        · rcases ih h with h | h
          · exact .inl h
          · exact .inr (List.mem_cons_of_mem _ h)
theorem tabPut_rise {α : Type} (k : Nat) (x : α) {l : List (Nat × α)} (h : l.Pairwise (fun a b => a.1 < b.1)) :
    (tabPut k x l).Pairwise (fun a b => a.1 < b.1) := by
  induction l with
  | nil => simp [tabPut]
  | cons a t ih =>
    obtain ⟨j, v⟩ := a
    have hp := List.pairwise_cons.mp h
    simp only [tabPut]
    split
    · rename_i hk
      refine List.pairwise_cons.mpr ⟨?_, h⟩
      intro e he
      rcases List.mem_cons.mp he with rfl | he
      · exact hk
      · exact Nat.lt_trans hk (hp.1 e he)
    · split
      · rename_i hk
        subst hk
        exact List.pairwise_cons.mpr ⟨hp.1, hp.2⟩
      · rename_i h1 h2
        refine List.pairwise_cons.mpr ⟨?_, ih hp.2⟩
        intro e he
        rcases tabPut_keys he with rfl | he
        · simp only; omega
        · exact hp.1 e he
theorem tabWf_set {α : Type} [DecidableEq α] {d : Nat → α} {l : List (Nat × α)} (k : Nat) (x : α) (h : tabWf d l = true) : tabWf d (tabSet d l k x) = true := by
  unfold tabSet
  split
  · exact tabWf_filter _ h
  · rename_i hx
    rw [tabWf_iff] at *
    refine ⟨tabPut_rise k x h.1, fun e he => ?_⟩
    rcases tabPut_keys he with rfl | he
    · exact hx
    · exact h.2 e he
theorem memWrite_wf (m : Mem) (a : Nat) (l : List Byte) (h : Memory.wf m = true) : Memory.wf (memWrite m a l) = true := by
  induction l generalizing m a with
  | nil => exact h
  | cons b t ih => exact ih _ _ (tabWf_set a b h)
theorem memZero_wf (m : Mem) (a n : Nat) (h : Memory.wf m = true) : Memory.wf (memZero m a n) = true := tabWf_filter _ h

theorem wr_keeps {z s : State} {k : Nat} {v : Word} (h : Keeps z s) : Keeps z (wr k v s) :=
  h.of_eq rfl (fun c => ⟨tabWf_set k v c.1, c.2⟩)
theorem keeps_hbm {z s : State} {m : Mem} {a1 a2 a3 a4 a5 a6 a7 a8 a9 a10 a11 a12 a13 a14 a15 b1 b2 b3 b4 b5 b6}
    (h : Keeps z s) (hm : Memory.wf s.hbm = true → Memory.wf m = true) : Keeps z (State.mk a1 a2 a3 a4 a5 a6 a7 a8 a9 a10 a11 a12 a13 a14 a15 s.pending b1 b2 b3 b4 s.regs s.spm m s.buf b5 b6) :=
  ⟨h.queue, fun c => let d := h.canon c; ⟨d.1, d.2.1, hm d.2.2.1, d.2.2.2⟩⟩
theorem keeps_spm {z s : State} {m : Mem} {a1 a2 a3 a4 a5 a6 a7 a8 a9 a10 a11 a12 a13 a14 a15 b1 b2 b3 b4 b5 b6}
    (h : Keeps z s) (hm : Memory.wf s.spm = true → Memory.wf m = true) : Keeps z (State.mk a1 a2 a3 a4 a5 a6 a7 a8 a9 a10 a11 a12 a13 a14 a15 s.pending b1 b2 b3 b4 s.regs m s.hbm s.buf b5 b6) :=
  ⟨h.queue, fun c => let d := h.canon c; ⟨d.1, hm d.2.1, d.2.2.1, d.2.2.2⟩⟩
theorem keeps_buf {z s : State} {m : Mem} {a1 a2 a3 a4 a5 a6 a7 a8 a9 a10 a11 a12 a13 a14 a15 b1 b2 b3 b4 b5 b6}
    (h : Keeps z s) (hm : Memory.wf s.buf = true → Memory.wf m = true) : Keeps z (State.mk a1 a2 a3 a4 a5 a6 a7 a8 a9 a10 a11 a12 a13 a14 a15 s.pending b1 b2 b3 b4 s.regs s.spm s.hbm m b5 b6) :=
  ⟨h.queue, fun c => let d := h.canon c; ⟨d.1, d.2.1, d.2.2.1, hm d.2.2.2⟩⟩
theorem keeps_regs {z s : State} {m : List (Nat × Word)} {a1 a2 a3 a4 a5 a6 a7 a8 a9 a10 a11 a12 a13 a14 a15 b1 b2 b3 b4 b5 b6}
    (h : Keeps z s) (hm : tabWf regReset s.regs = true → tabWf regReset m = true) : Keeps z (State.mk a1 a2 a3 a4 a5 a6 a7 a8 a9 a10 a11 a12 a13 a14 a15 s.pending b1 b2 b3 b4 m s.spm s.hbm s.buf b5 b6) :=
  ⟨h.queue, fun c => let d := h.canon c; ⟨hm d.1, d.2.1, d.2.2.1, d.2.2.2⟩⟩
theorem spmWrite_keeps {z s : State} {p o : Nat} {l : List Byte} (h : Keeps z s) : Keeps z (spmWrite p o l s) := by
  unfold spmWrite; exact keeps_spm h (memWrite_wf _ _ _)
end Sys2Proof.Machine
end

