-- ==== Sys2Proof/Laws/KeepOps.lean ====
section
/-! SUPPORT. One lemma for each definition of Machine/Ops.lean that answers a state: it keeps the queue and the canonical form. -/
namespace Sys2Proof.Machine

theorem setFld_keeps {k : Nat} {f : Field} {x : Nat} {s : State} {s₀ : State} (h₀ : Keeps s₀ s) : Keeps s₀ (setFld k f x s) := by
  unfold setFld
  apply wr_keeps
  assumption

theorem setFlds_keeps {k : Nat} {l : List (Field × Nat)} {s : State} {s₀ : State} (h₀ : Keeps s₀ s) : Keeps s₀ (setFlds k l s) := by
  unfold setFlds
  apply wr_keeps
  assumption

theorem raise_keeps {k b cnt : Nat} {s : State} {s₀ : State} (h₀ : Keeps s₀ s) : Keeps s₀ (raise k b cnt s) := by
  unfold raise
  dsimp only
  apply wr_keeps
  apply wr_keeps
  assumption

theorem setCluster_keeps {p : Nat} {c : Cluster} {s : State} {s₀ : State} (h₀ : Keeps s₀ s) : Keeps s₀ (setCluster p c s) := by
  unfold setCluster
  refine keeps_mk ?_
  assumption

theorem modCluster_keeps {p : Nat} {f : Cluster → Cluster} {s : State} {s₀ : State} (h₀ : Keeps s₀ s) : Keeps s₀ (modCluster p f s) := by
  unfold modCluster
  apply setCluster_keeps
  assumption

theorem takeFree_keeps {w : Nat} {s : State} {s₀ : State} (h₀ : Keeps s₀ s) : Keeps s₀ (takeFree w s).2 := by
  unfold takeFree
  refine keeps_pair ?_
  refine keeps_mk ?_
  assumption
theorem takeFree_pair {w : Nat} {s : State} {s₀ : State} {a₀} {t₀ : State} (e₀ : takeFree w s = (a₀, t₀)) (h₀ : Keeps s₀ s) : Keeps s₀ t₀ := by
  have k := @takeFree_keeps w s s₀ h₀
  rw [e₀] at k; exact k

theorem send_keeps {kind : MsgKind} {dst : Nat} {args : List Nat} {data : List Byte} {s : State} {s₀ : State} (h₀ : Keeps s₀ s) : Keeps s₀ (send kind dst args data s) := by
  unfold send
  refine keeps_mk ?_
  assumption

theorem answerWith_keeps {status : Nat} {data : List Nat} {s : State} {s₀ : State} (h₀ : Keeps s₀ s) : Keeps s₀ (answerWith status data s) := by
  unfold answerWith
  refine keeps_mk ?_
  assumption

theorem countOne_keeps {cfg cnt done : Nat} {ids : Ids} {n : Nat} {s : State} {s₀ : State} (h₀ : Keeps s₀ s) : Keeps s₀ (countOne cfg cnt done ids n s) := by
  unfold countOne
  dsimp only
  refine keeps_ite ?_ ?_
  refine keeps_ite ?_ ?_
  apply setFld_keeps
  assumption
  assumption
  refine keeps_ite ?_ ?_
  apply setFld_keeps
  apply wr_keeps
  assumption
  apply wr_keeps
  assumption

theorem countCl_keeps {p ev : Nat} {ids : Ids} {n : Nat} {s : State} {s₀ : State} (h₀ : Keeps s₀ s) : Keeps s₀ (countCl p ev ids n s) := by
  unfold countCl
  refine keeps_ite ?_ ?_
  assumption
  refine keeps_foldl ?_ ?_
  intro _
  intro _
  intro _
  apply countOne_keeps
  assumption
  assumption

theorem countBlk_keeps {b ev : Nat} {ids : Ids} {n : Nat} {s : State} {s₀ : State} (h₀ : Keeps s₀ s) : Keeps s₀ (countBlk b ev ids n s) := by
  unfold countBlk
  refine keeps_ite ?_ ?_
  assumption
  refine keeps_foldl ?_ ?_
  intro _
  intro _
  intro _
  apply countOne_keeps
  assumption
  assumption

theorem countMsd_keeps {n ev : Nat} {ids : Ids} {k : Nat} {s : State} {s₀ : State} (h₀ : Keeps s₀ s) : Keeps s₀ (countMsd n ev ids k s) := by
  unfold countMsd
  apply countBlk_keeps
  assumption

theorem countGal_keeps {g ev k : Nat} {s : State} {s₀ : State} (h₀ : Keeps s₀ s) : Keeps s₀ (countGal g ev k s) := by
  unfold countGal
  refine keeps_ite ?_ ?_
  assumption
  refine keeps_foldl ?_ ?_
  intro _
  intro _
  intro _
  apply countOne_keeps
  assumption
  assumption

theorem countLaunch_keeps {p : Nat} {evs : List Nat} {ids : Ids} {s : State} {s₀ : State} (h₀ : Keeps s₀ s) : Keeps s₀ (countLaunch p evs ids s) := by
  unfold countLaunch
  refine keeps_ite ?_ ?_
  assumption
  dsimp only
  refine keeps_foldl ?_ ?_
  intro _
  intro _
  intro _
  apply wr_keeps
  apply wr_keeps
  assumption
  assumption

theorem countDone_keeps {p : Nat} {ids : Ids} {s : State} {s₀ : State} (h₀ : Keeps s₀ s) : Keeps s₀ (countDone p ids s) := by
  unfold countDone
  refine keeps_foldl ?_ ?_
  intro _
  intro _
  intro _
  apply setFld_keeps
  assumption
  assumption

theorem elapse_keeps {n : Nat} {s : State} {s₀ : State} (h₀ : Keeps s₀ s) : Keeps s₀ (elapse n s) := by
  unfold elapse
  refine keeps_ite ?_ ?_
  assumption
  dsimp only
  refine keeps_ite ?_ ?_
  refine keeps_foldl ?_ ?_
  intro _
  intro _
  intro _
  apply wr_keeps
  assumption
  refine keeps_mk ?_
  assumption
  refine keeps_foldl ?_ ?_
  intro _
  intro _
  intro _
  apply countOne_keeps
  assumption
  refine keeps_foldl ?_ ?_
  intro _
  intro _
  intro _
  apply wr_keeps
  assumption
  refine keeps_mk ?_
  assumption

theorem idle_keeps {s : State} {s₀ : State} (h₀ : Keeps s₀ s) : Keeps s₀ (idle s) := by
  unfold idle
  refine keeps_ite ?_ ?_
  assumption
  apply elapse_keeps
  assumption

theorem advanceTo_keeps {b : Nat} {s : State} {s₀ : State} (h₀ : Keeps s₀ s) : Keeps s₀ (advanceTo b s) := by
  unfold advanceTo
  apply elapse_keeps
  assumption

theorem setTrace_keeps {u : Nat} {t : Trace} {s : State} {s₀ : State} (h₀ : Keeps s₀ s) : Keeps s₀ (setTrace u t s) := by
  unfold setTrace
  refine keeps_mk ?_
  assumption

theorem traceWrite_keeps {u : Nat} {r : List Byte} {s : State} {s₀ : State} (h₀ : Keeps s₀ s) : Keeps s₀ (traceWrite u r s) := by
  unfold traceWrite
  dsimp only
  apply setFlds_keeps
  apply setTrace_keeps
  assumption

theorem traceDrop_keeps {u : Nat} {s : State} {s₀ : State} (h₀ : Keeps s₀ s) : Keeps s₀ (traceDrop u s) := by
  unfold traceDrop
  dsimp only
  apply setFld_keeps
  apply setTrace_keeps
  assumption

theorem traceRec_keeps {u type source : Nat} {ids : Ids} {payload : List Byte} {s : State} {s₀ : State} (h₀ : Keeps s₀ s) : Keeps s₀ (traceRec u type source ids payload s) := by
  unfold traceRec
  dsimp only
  refine keeps_ite ?_ ?_
  refine keeps_ite ?_ ?_
  apply traceDrop_keeps
  assumption
  assumption
  refine keeps_ite ?_ ?_
  apply traceWrite_keeps
  assumption
  refine keeps_ite ?_ ?_
  apply setTrace_keeps
  assumption
  apply traceDrop_keeps
  assumption

theorem faultEvt_keeps {code data : Nat} {s : State} {s₀ : State} (h₀ : Keeps s₀ s) : Keeps s₀ (faultEvt code data s) := by
  unfold faultEvt
  refine keeps_foldl ?_ ?_
  intro _
  intro _
  intro _
  refine keeps_ite ?_ ?_
  apply send_keeps
  assumption
  assumption
  assumption

theorem recordPlace_keeps {r : Record} {s : State} {s₀ : State} (h₀ : Keeps s₀ s) : Keeps s₀ (recordPlace r s).2 := by
  unfold recordPlace
  split
  split
  refine keeps_pair ?_
  refine takeFree_pair (by assumption) ?_
  assumption
  refine keeps_pair ?_
  assumption
theorem recordPlace_pair {r : Record} {s : State} {s₀ : State} {a₀} {t₀ : State} (e₀ : recordPlace r s = (a₀, t₀)) (h₀ : Keeps s₀ s) : Keeps s₀ t₀ := by
  have k := @recordPlace_keeps r s s₀ h₀
  rw [e₀] at k; exact k

theorem addRecord_keeps {r : Record} {s : State} {s₀ : State} (h₀ : Keeps s₀ s) : Keeps s₀ (addRecord r s) := by
  unfold addRecord
  dsimp only
  apply faultEvt_keeps
  apply wr_keeps
  apply raise_keeps
  apply setFld_keeps
  refine keeps_mk ?_
  apply recordPlace_keeps
  refine keeps_ite ?_ ?_
  apply send_keeps
  assumption
  assumption

end Sys2Proof.Machine
end

