-- ==== Sys2Proof/Laws/KeepOperands.lean ====
section
/-! SUPPORT. One lemma for each definition of Machine/Operands.lean that answers a state: it keeps the queue and the canonical form. -/
namespace Sys2Proof.Machine

theorem setRange_keeps {p k st : Nat} {s : State} {s₀ : State} (h₀ : Keeps s₀ s) : Keeps s₀ (setRange p k st s) := by
  unfold setRange
  apply setFld_keeps
  assumption

theorem spmStore_keeps {p o : Nat} {l : List Byte} {s : State} {s₀ : State} (h₀ : Keeps s₀ s) : Keeps s₀ (spmStore p o l s) := by
  unfold spmStore
  dsimp only
  refine keeps_ite ?_ ?_
  apply setCluster_keeps
  apply spmWrite_keeps
  assumption
  apply spmWrite_keeps
  assumption

end Sys2Proof.Machine
end

