-- ==== Sys2Proof/Laws/KeepFlags.lean ====
section
/-! SUPPORT. One lemma for each definition of Machine/Flags.lean that answers a state: it keeps the queue and the canonical form. -/
namespace Sys2Proof.Machine

theorem raiseArith_keeps {p mask : Nat} {ids : Ids} {s : State} {s₀ : State} (h₀ : Keeps s₀ s) : Keeps s₀ (raiseArith p mask ids s) := by
  unfold raiseArith
  refine keeps_foldl ?_ ?_
  intro _
  intro _
  intro _
  apply countCl_keeps
  apply raise_keeps
  assumption
  assumption

theorem eccNote_keeps {p word : Nat} {uncorr : Bool} {s : State} {s₀ : State} (h₀ : Keeps s₀ s) : Keeps s₀ (eccNote p word uncorr s) := by
  unfold eccNote
  dsimp only
  refine keeps_ite ?_ ?_
  apply raise_keeps
  apply setFlds_keeps
  assumption
  apply countCl_keeps
  apply raise_keeps
  apply setFlds_keeps
  assumption

theorem eccRead_keeps {p o n : Nat} {s : State} {s₀ : State} (h₀ : Keeps s₀ s) : Keeps s₀ (eccRead p o n s) := by
  unfold eccRead
  split
  apply eccNote_keeps
  assumption
  assumption

theorem matErr_keeps {p : Nat} {i : Ids} {cause : Nat} {s : State} {s₀ : State} (h₀ : Keeps s₀ s) : Keeps s₀ (matErr p i cause s) := by
  unfold matErr
  dsimp only
  apply raise_keeps
  apply setFlds_keeps
  assumption

end Sys2Proof.Machine
end

