-- ==== Sys2Proof/Laws/KeepMailbox.lean ====
section
/-! SUPPORT. One lemma for each definition of Machine/Mailbox.lean that answers a state: it keeps the queue and the canonical form. -/
namespace Sys2Proof.Machine

theorem endCall_keeps {b status : Nat} {res : List Nat} {s : State} {s₀ : State} (h₀ : Keeps s₀ s) : Keeps s₀ (endCall b status res s) := by
  unfold endCall
  dsimp only
  refine keeps_mk ?_
  apply wr_keeps
  apply raise_keeps
  apply wr_keeps
  refine keeps_foldl ?_ ?_
  intro _
  intro _
  intro _
  apply wr_keeps
  assumption
  assumption

theorem startCall_keeps {b code rid : Nat} {args : List Nat} {body : State → Reply × State} {s s₀ : State}
    (hf : ∀ s, Keeps s₀ s → Keeps s₀ (body s).2) (h₀ : Keeps s₀ s) : Keeps s₀ (startCall b code rid args body s) := by
  have h2 := hf _ (wr_keeps (k := mbxStatus b) (v := rd (wr (mbxCmd b) (BitVec.ofNat 64 (code % 2 ^ 16 + 2 ^ 63)) s) (mbxStatus b) ||| 1)
    (wr_keeps (k := mbxCmd b) (v := BitVec.ofNat 64 (code % 2 ^ 16 + 2 ^ 63)) h₀))
  unfold startCall
  dsimp only
  split
  · rename_i e
    rw [e] at h2
    exact answerWith_keeps (endCall_keeps h2)
  · rename_i e
    rw [e] at h2
    exact answerWith_keeps (keeps_mk h2)

theorem service_keeps {b code rid : Nat} {args : List Nat} {body : State → Reply × State} {s s₀ : State}
    (hf : ∀ s, Keeps s₀ s → Keeps s₀ (body s).2) (h₀ : Keeps s₀ s) : Keeps s₀ (service b code rid args body s) := by
  unfold service
  dsimp only
  refine keeps_ite ?_ ?_
  assumption
  refine keeps_ite ?_ ?_
  apply answerWith_keeps
  assumption
  refine keeps_ite ?_ ?_
  assumption
  refine keeps_ite ?_ ?_
  apply answerWith_keeps
  assumption
  refine keeps_ite ?_ ?_
  apply answerWith_keeps
  assumption
  apply startCall_keeps
  intro _
  intro _
  apply hf
  assumption
  refine keeps_foldl ?_ ?_
  intro _
  intro _
  intro _
  apply wr_keeps
  assumption
  assumption

theorem serviceRead_keeps {b code rid : Nat} {args : List Nat} {res : State → List Nat} {s s₀ : State}
    (h₀ : Keeps s₀ s) : Keeps s₀ (serviceRead b code rid args res s) := by
  unfold serviceRead
  apply service_keeps
  intro _
  intro _
  refine keeps_pair ?_
  assumption
  assumption

end Sys2Proof.Machine
end

