-- ==== Sys2Proof/Laws/KeepHbm.lean ====
section
/-! SUPPORT. One lemma for each definition of Machine/Hbm.lean that answers a state: it keeps the queue and the canonical form. -/
namespace Sys2Proof.Machine

theorem putLine_keeps {st o : Nat} {l : List Byte} {s : State} {s₀ : State} (h₀ : Keeps s₀ s) : Keeps s₀ (putLine st o l s) := by
  unfold putLine
  refine keeps_hbm ?_ (memWrite_wf _ _ _)
  assumption

theorem raiseMsd_keeps {n b : Nat} {s : State} {s₀ : State} (h₀ : Keeps s₀ s) : Keeps s₀ (raiseMsd n b s) := by
  unfold raiseMsd
  apply raise_keeps
  assumption

theorem repairLine_keeps {st o : Nat} {l : List Byte} {s : State} {s₀ : State} (h₀ : Keeps s₀ s) : Keeps s₀ (repairLine st o l s) := by
  unfold repairLine
  dsimp only
  apply addRecord_keeps
  apply raiseMsd_keeps
  apply putLine_keeps
  assumption

theorem loseLine_keeps {st : Nat} {s : State} {s₀ : State} (h₀ : Keeps s₀ s) : Keeps s₀ (loseLine st s) := by
  unfold loseLine
  apply raiseMsd_keeps
  assumption

theorem readLine_keeps {st o : Nat} {s s₀ : State} (h₀ : Keeps s₀ s) : Keeps s₀ (readLine st o s).2 := by
  unfold readLine
  dsimp only
  refine keeps_ite2 ?_ ?_
  refine keeps_pair ?_
  refine keeps_ite ?_ ?_
  assumption
  apply countMsd_keeps
  assumption
  split
  refine keeps_pair ?_
  refine keeps_ite ?_ ?_
  apply countMsd_keeps
  refine keeps_ite ?_ ?_
  assumption
  apply countMsd_keeps
  assumption
  apply repairLine_keeps
  apply countMsd_keeps
  refine keeps_ite ?_ ?_
  assumption
  apply countMsd_keeps
  assumption
  refine keeps_pair ?_
  apply loseLine_keeps
  refine keeps_ite ?_ ?_
  assumption
  apply countMsd_keeps
  assumption
theorem readLine_pair {st o : Nat} {s s₀ : State} {a₀} {t₀ : State} (e₀ : readLine st o s = (a₀, t₀)) (h₀ : Keeps s₀ s) : Keeps s₀ t₀ := by
  have k := @readLine_keeps st o s s₀ h₀
  rw [e₀] at k; exact k

theorem logUnit_keeps {st o : Nat} {s : State} {s₀ : State} (h₀ : Keeps s₀ s) : Keeps s₀ (logUnit st o s) := by
  unfold logUnit
  refine keeps_ite ?_ ?_
  assumption
  dsimp only
  refine keeps_ite ?_ ?_
  assumption
  refine keeps_ite ?_ ?_
  assumption
  refine keeps_ite ?_ ?_
  apply setFld_keeps
  assumption
  apply setFld_keeps
  refine keeps_buf ?_ (memWrite_wf _ _ _)
  assumption

theorem applyDelta_keeps {z : Stripe} {delta : List Byte} {s : State} {s₀ : State} (h₀ : Keeps s₀ s) : Keeps s₀ (applyDelta z delta s) := by
  unfold applyDelta
  dsimp only
  apply putLine_keeps
  apply countMsd_keeps
  apply countMsd_keeps
  apply countMsd_keeps
  assumption

theorem writeLine_keeps {st o : Nat} {new : List Byte} {s : State} {s₀ : State} (h₀ : Keeps s₀ s) : Keeps s₀ (writeLine st o new s).2 := by
  unfold writeLine
  dsimp only
  refine keeps_ite2 ?_ ?_
  refine keeps_ite2 ?_ ?_
  refine keeps_pair ?_
  assumption
  refine keeps_pair ?_
  apply countMsd_keeps
  apply putLine_keeps
  assumption
  refine keeps_ite2 ?_ ?_
  split
  refine keeps_pair ?_
  assumption
  refine keeps_pair ?_
  apply logUnit_keeps
  apply applyDelta_keeps
  assumption
  refine keeps_ite2 ?_ ?_
  refine keeps_pair ?_
  apply logUnit_keeps
  apply countMsd_keeps
  apply putLine_keeps
  assumption
  split
  refine keeps_pair ?_
  refine readLine_pair (by assumption) ?_
  assumption
  split
  refine keeps_pair ?_
  refine readLine_pair (by assumption) ?_
  refine readLine_pair (by assumption) ?_
  assumption
  refine keeps_pair ?_
  apply countMsd_keeps
  apply putLine_keeps
  apply applyDelta_keeps
  refine readLine_pair (by assumption) ?_
  refine readLine_pair (by assumption) ?_
  assumption
theorem writeLine_pair {st o : Nat} {new : List Byte} {s : State} {s₀ : State} {a₀} {t₀ : State} (e₀ : writeLine st o new s = (a₀, t₀)) (h₀ : Keeps s₀ s) : Keeps s₀ t₀ := by
  have k := @writeLine_keeps st o new s s₀ h₀
  rw [e₀] at k; exact k

theorem finishWrite_keeps {w : LineWrite} {s : State} {s₀ : State} (h₀ : Keeps s₀ s) : Keeps s₀ (finishWrite w s) := by
  unfold finishWrite
  dsimp only
  apply send_keeps
  apply countMsd_keeps
  apply putLine_keeps
  refine keeps_ite ?_ ?_
  assumption
  apply applyDelta_keeps
  assumption

theorem drainLine_keeps {a : Nat} {s : State} {s₀ : State} (h₀ : Keeps s₀ s) : Keeps s₀ (drainLine a s) := by
  unfold drainLine
  dsimp only
  refine keeps_foldl ?_ ?_
  intro _
  intro _
  intro _
  apply finishWrite_keeps
  assumption
  refine keeps_mk ?_
  assumption

theorem closeReads_keeps {a : Nat} {old : List Byte} {s : State} {s₀ : State} (h₀ : Keeps s₀ s) : Keeps s₀ (closeReads a old s) := by
  unfold closeReads
  refine keeps_mk ?_
  assumption

theorem hbmWriteLine_keeps {a : Nat} {l : List Byte} {s : State} {s₀ : State} (h₀ : Keeps s₀ s) : Keeps s₀ (hbmWriteLine a l s).2 := by
  unfold hbmWriteLine
  dsimp only
  refine keeps_ite2 ?_ ?_
  apply writeLine_keeps
  apply closeReads_keeps
  apply drainLine_keeps
  assumption
  split
  refine keeps_pair ?_
  refine readLine_pair (by assumption) ?_
  apply closeReads_keeps
  apply drainLine_keeps
  assumption
  apply writeLine_keeps
  refine readLine_pair (by assumption) ?_
  apply closeReads_keeps
  apply drainLine_keeps
  assumption
theorem hbmWriteLine_pair {a : Nat} {l : List Byte} {s : State} {s₀ : State} {a₀} {t₀ : State} (e₀ : hbmWriteLine a l s = (a₀, t₀)) (h₀ : Keeps s₀ s) : Keeps s₀ t₀ := by
  have k := @hbmWriteLine_keeps a l s s₀ h₀
  rw [e₀] at k; exact k

theorem hbmRead_keeps {a n : Nat} {s s₀ : State} (h₀ : Keeps s₀ s) : Keeps s₀ (hbmRead a n s).2 := by
  unfold hbmRead
  refine keeps_foldl2 ?_ ?_
  · intro q x hq
    have h2 := @readLine_keeps (stackOf x.1) (stackOff (x.1 / 64 * 64)) _ s₀ (drainLine_keeps (a := x.1) hq)
    dsimp only
    split
    · rename_i e
      rw [e] at h2
      exact h2
    · rename_i e
      rw [e] at h2
      exact h2
  · exact h₀
theorem hbmRead_pair {a n : Nat} {s s₀ : State} {a₀} {t₀ : State} (e₀ : hbmRead a n s = (a₀, t₀)) (h₀ : Keeps s₀ s) : Keeps s₀ t₀ := by
  have k := @hbmRead_keeps a n s s₀ h₀
  rw [e₀] at k; exact k

theorem hbmWrite_keeps {a : Nat} {l : List Byte} {s : State} {s₀ : State} (h₀ : Keeps s₀ s) : Keeps s₀ (hbmWrite a l s).2 := by
  unfold hbmWrite
  refine keeps_foldl2 ?_ ?_
  intro _
  intro _
  intro _
  refine keeps_ite2 ?_ ?_
  assumption
  apply hbmWriteLine_keeps
  assumption
  refine keeps_pair ?_
  assumption
theorem hbmWrite_pair {a : Nat} {l : List Byte} {s : State} {s₀ : State} {a₀} {t₀ : State} (e₀ : hbmWrite a l s = (a₀, t₀)) (h₀ : Keeps s₀ s) : Keeps s₀ t₀ := by
  have k := @hbmWrite_keeps a l s s₀ h₀
  rw [e₀] at k; exact k

theorem bufStore_keeps {n o : Nat} {l : List Byte} {s s₀ : State} (h₀ : Keeps s₀ s) : Keeps s₀ (bufStore n o l s) := by
  induction l generalizing o s with
  | nil => exact h₀
  | cons b t ih =>
    unfold bufStore
    refine ih ?_
    split
    · split
      · exact h₀
      · exact keeps_buf h₀ (memWrite_wf _ _ _)
    · exact h₀

theorem setWinGen_keeps {p w g : Nat} {s : State} {s₀ : State} (h₀ : Keeps s₀ s) : Keeps s₀ (setWinGen p w g s) := by
  unfold setWinGen
  dsimp only
  refine keeps_ite ?_ ?_
  apply setFld_keeps
  assumption
  split
  apply hbmWrite_keeps
  apply setFld_keeps
  apply setFld_keeps
  assumption
  apply setFld_keeps
  apply setFld_keeps
  assumption

end Sys2Proof.Machine
end

