-- ==== Sys2Proof/Laws/KeepFabCore.lean ====
section
/-! SUPPORT. One lemma for each definition of Machine/FabCore.lean that answers a state: it keeps the queue and the canonical form. -/
namespace Sys2Proof.Machine

theorem setFabStatus_keeps {f : Field} {x : Nat} {s : State} {s₀ : State} (h₀ : Keeps s₀ s) : Keeps s₀ (setFabStatus f x s) := by
  unfold setFabStatus
  apply setFld_keeps
  apply setFld_keeps
  assumption

theorem transmit_keeps {h : FabHead} {data : List Byte} {s : State} {s₀ : State} (h₀ : Keeps s₀ s) : Keeps s₀ (transmit h data s) := by
  unfold transmit
  split
  assumption
  dsimp only
  apply send_keeps
  refine keeps_ite ?_ ?_
  apply traceRec_keeps
  apply countBlk_keeps
  assumption
  apply countBlk_keeps
  assumption

theorem fabSend_keeps {h : FabHead} {issuer : FabIssuer} {data : List Byte} {s : State} {s₀ : State} (h₀ : Keeps s₀ s) : Keeps s₀ (fabSend h issuer data s) := by
  unfold fabSend
  dsimp only
  apply transmit_keeps
  refine keeps_mk ?_
  assumption

theorem ctrlSend_keeps {dst code : Nat} {data : List Byte} {s : State} {s₀ : State} (h₀ : Keeps s₀ s) : Keeps s₀ (ctrlSend dst code data s) := by
  unfold ctrlSend
  apply fabSend_keeps
  assumption

end Sys2Proof.Machine
end

