-- ==== Sys2Proof/Laws/KeepStream.lean ====
section
/-! SUPPORT. One lemma for each definition of Machine/Stream.lean that answers a state: it keeps the queue and the canonical form. -/
namespace Sys2Proof.Machine

theorem modStream_keeps {p st : Nat} {f : Stream → Stream} {s : State} {s₀ : State} (h₀ : Keeps s₀ s) : Keeps s₀ (modStream p st f s) := by
  unfold modStream
  dsimp only
  apply modCluster_keeps
  assumption

theorem setStreamState_keeps {p st x : Nat} {s : State} {s₀ : State} (h₀ : Keeps s₀ s) : Keeps s₀ (setStreamState p st x s) := by
  unfold setStreamState
  apply setFlds_keeps
  assumption

theorem setPc_keeps {p st x : Nat} {s : State} {s₀ : State} (h₀ : Keeps s₀ s) : Keeps s₀ (setPc p st x s) := by
  unfold setPc
  apply setFld_keeps
  assumption

theorem setWait_keeps {p st kind obj val : Nat} {s : State} {s₀ : State} (h₀ : Keeps s₀ s) : Keeps s₀ (setWait p st kind obj val s) := by
  unfold setWait
  dsimp only
  refine keeps_ite ?_ ?_
  assumption
  apply wr_keeps
  apply setFlds_keeps
  assumption

theorem leaveHead_keeps {p st : Nat} {h : Head} {s : State} {s₀ : State} (h₀ : Keeps s₀ s) : Keeps s₀ (leaveHead p st h s) := by
  unfold leaveHead
  dsimp only
  refine keeps_ite ?_ ?_
  apply setStreamState_keeps
  refine keeps_ite ?_ ?_
  apply modStream_keeps
  assumption
  assumption
  apply setStreamState_keeps
  apply setPc_keeps
  refine keeps_ite ?_ ?_
  apply modStream_keeps
  assumption
  assumption

theorem semSet_keeps {p i v : Nat} {s : State} {s₀ : State} (h₀ : Keeps s₀ s) : Keeps s₀ (semSet p i v s) := by
  unfold semSet
  apply setFld_keeps
  assumption

theorem semAdd_keeps {p i n : Nat} {s : State} {s₀ : State} (h₀ : Keeps s₀ s) : Keeps s₀ (semAdd p i n s) := by
  unfold semAdd
  apply semSet_keeps
  assumption

theorem complete_keeps {p : Nat} {l : Launched} {s : State} {s₀ : State} (h₀ : Keeps s₀ s) : Keeps s₀ (complete p l s) := by
  unfold complete
  dsimp only
  refine keeps_ite ?_ ?_
  apply traceRec_keeps
  apply takeFree_keeps
  apply countDone_keeps
  refine keeps_ite ?_ ?_
  assumption
  apply semAdd_keeps
  assumption
  apply countDone_keeps
  refine keeps_ite ?_ ?_
  assumption
  apply semAdd_keeps
  assumption

theorem cmdFail_keeps {p : Nat} {l : Launched} {unit cause : Nat} {s : State} {s₀ : State} (h₀ : Keeps s₀ s) : Keeps s₀ (cmdFail p l unit cause s) := by
  unfold cmdFail
  dsimp only
  refine keeps_ite ?_ ?_
  refine keeps_ite ?_ ?_
  apply addRecord_keeps
  apply traceRec_keeps
  apply countCl_keeps
  apply raise_keeps
  apply setFlds_keeps
  assumption
  apply semAdd_keeps
  apply addRecord_keeps
  apply traceRec_keeps
  apply countCl_keeps
  apply raise_keeps
  apply setFlds_keeps
  assumption
  apply setStreamState_keeps
  apply addRecord_keeps
  apply traceRec_keeps
  apply countCl_keeps
  apply raise_keeps
  apply setFlds_keeps
  assumption

theorem lateLaunch_keeps {p : Nat} {l : Launched} {by_ : Nat} {s : State} {s₀ : State} (h₀ : Keeps s₀ s) : Keeps s₀ (lateLaunch p l by_ s) := by
  unfold lateLaunch
  dsimp only
  refine keeps_mk ?_
  apply traceRec_keeps
  apply countCl_keeps
  refine keeps_ite ?_ ?_
  apply wr_keeps
  apply wr_keeps
  apply raise_keeps
  apply setFlds_keeps
  assumption
  apply wr_keeps
  apply raise_keeps
  apply setFlds_keeps
  assumption

theorem addPeriod_keeps {p : Nat} {h : Head} {s : State} {s₀ : State} (h₀ : Keeps s₀ s) : Keeps s₀ (addPeriod p h s) := by
  unfold addPeriod
  dsimp only
  refine keeps_ite ?_ ?_
  assumption
  apply setCluster_keeps
  assumption

theorem launch_keeps {p st : Nat} {op : Nat → Bool} {room : State → Cmd → Option (Nat × Nat)} {act : Launched → State → State} {s s₀ : State}
    (hf : ∀ l s, Keeps s₀ s → Keeps s₀ (act l s)) (h₀ : Keeps s₀ s) : Keeps s₀ (launch p st op room act s) := by
  unfold launch
  split
  assumption
  dsimp only
  refine keeps_ite ?_ ?_
  assumption
  refine keeps_ite ?_ ?_
  apply setWait_keeps
  assumption
  refine keeps_ite ?_ ?_
  apply cmdFail_keeps
  apply leaveHead_keeps
  assumption
  refine keeps_ite ?_ ?_
  apply setWait_keeps
  assumption
  refine keeps_ite ?_ ?_
  apply setWait_keeps
  assumption
  split
  apply setWait_keeps
  assumption
  apply hf
  refine keeps_ite ?_ ?_
  apply lateLaunch_keeps
  refine keeps_ite ?_ ?_
  apply traceRec_keeps
  refine keeps_ite ?_ ?_
  apply countLaunch_keeps
  apply countCl_keeps
  apply addPeriod_keeps
  apply leaveHead_keeps
  apply modCluster_keeps
  assumption
  refine keeps_ite ?_ ?_
  apply countLaunch_keeps
  apply countCl_keeps
  apply addPeriod_keeps
  apply leaveHead_keeps
  apply modCluster_keeps
  assumption
  apply countCl_keeps
  apply addPeriod_keeps
  apply leaveHead_keeps
  apply modCluster_keeps
  assumption
  refine keeps_ite ?_ ?_
  apply countLaunch_keeps
  apply countCl_keeps
  apply addPeriod_keeps
  apply leaveHead_keeps
  apply modCluster_keeps
  assumption
  refine keeps_ite ?_ ?_
  apply countLaunch_keeps
  apply countCl_keeps
  apply addPeriod_keeps
  apply leaveHead_keeps
  apply modCluster_keeps
  assumption
  apply countCl_keeps
  apply addPeriod_keeps
  apply leaveHead_keeps
  apply modCluster_keeps
  assumption
  refine keeps_ite ?_ ?_
  apply traceRec_keeps
  refine keeps_ite ?_ ?_
  apply countLaunch_keeps
  apply countCl_keeps
  apply addPeriod_keeps
  apply leaveHead_keeps
  apply modCluster_keeps
  assumption
  refine keeps_ite ?_ ?_
  apply countLaunch_keeps
  apply countCl_keeps
  apply addPeriod_keeps
  apply leaveHead_keeps
  apply modCluster_keeps
  assumption
  apply countCl_keeps
  apply addPeriod_keeps
  apply leaveHead_keeps
  apply modCluster_keeps
  assumption
  refine keeps_ite ?_ ?_
  apply countLaunch_keeps
  apply countCl_keeps
  apply addPeriod_keeps
  apply leaveHead_keeps
  apply modCluster_keeps
  assumption
  refine keeps_ite ?_ ?_
  apply countLaunch_keeps
  apply countCl_keeps
  apply addPeriod_keeps
  apply leaveHead_keeps
  apply modCluster_keeps
  assumption
  apply countCl_keeps
  apply addPeriod_keeps
  apply leaveHead_keeps
  apply modCluster_keeps
  assumption

theorem launchCtl_keeps {p st b o : Nat} {act : Launched → State → State} {s s₀ : State}
    (hf : ∀ l s, Keeps s₀ s → Keeps s₀ (act l s)) (h₀ : Keeps s₀ s) : Keeps s₀ (launchCtl p st b o act s) := by
  unfold launchCtl
  apply launch_keeps
  intro _
  intro _
  intro _
  apply hf
  assumption
  apply advanceTo_keeps
  assumption

theorem execCtlNop_keeps {p st b : Nat} {s : State} {s₀ : State} (h₀ : Keeps s₀ s) : KeepsO s₀ (execCtlNop p st b s) := by
  unfold execCtlNop
  refine keepsO_onUnits ?_ ?_
  intro _
  intro _
  apply launchCtl_keeps
  intro _
  intro _
  intro _
  apply complete_keeps
  assumption
  assumption
  assumption

theorem execCtlMark_keeps {p st b : Nat} {s : State} {s₀ : State} (h₀ : Keeps s₀ s) : KeepsO s₀ (execCtlMark p st b s) := by
  unfold execCtlMark
  refine keepsO_onUnits ?_ ?_
  intro _
  intro _
  apply launchCtl_keeps
  intro _
  intro _
  intro _
  apply complete_keeps
  apply traceRec_keeps
  assumption
  assumption
  assumption

theorem jumpTo_keeps {p st i : Nat} {s : State} {s₀ : State} (h₀ : Keeps s₀ s) : Keeps s₀ (jumpTo p st i s) := by
  unfold jumpTo
  apply setStreamState_keeps
  apply setPc_keeps
  assumption

theorem execCtlJump_keeps {p st b : Nat} {s : State} {s₀ : State} (h₀ : Keeps s₀ s) : KeepsO s₀ (execCtlJump p st b s) := by
  unfold execCtlJump
  refine keepsO_onUnits ?_ ?_
  intro _
  intro _
  apply launchCtl_keeps
  intro _
  intro _
  intro _
  apply complete_keeps
  apply jumpTo_keeps
  assumption
  assumption
  assumption

theorem execCtlLoopSet_keeps {p st b : Nat} {s : State} {s₀ : State} (h₀ : Keeps s₀ s) : KeepsO s₀ (execCtlLoopSet p st b s) := by
  unfold execCtlLoopSet
  refine keepsO_onUnits ?_ ?_
  intro _
  intro _
  apply launchCtl_keeps
  intro _
  intro _
  intro _
  apply complete_keeps
  apply modStream_keeps
  assumption
  assumption
  assumption

theorem execCtlLoop_keeps {p st b : Nat} {s : State} {s₀ : State} (h₀ : Keeps s₀ s) : KeepsO s₀ (execCtlLoop p st b s) := by
  unfold execCtlLoop
  refine keepsO_onUnits ?_ ?_
  intro _
  intro _
  apply launchCtl_keeps
  intro _
  intro _
  intro _
  dsimp only
  apply complete_keeps
  refine keeps_ite ?_ ?_
  apply modStream_keeps
  assumption
  apply jumpTo_keeps
  apply modStream_keeps
  assumption
  assumption
  assumption

theorem execCtlExec_keeps {p st b : Nat} {s : State} {s₀ : State} (h₀ : Keeps s₀ s) : KeepsO s₀ (execCtlExec p st b s) := by
  unfold execCtlExec
  refine keepsO_onUnits ?_ ?_
  intro _
  intro _
  apply launchCtl_keeps
  intro _
  intro _
  intro _
  dsimp only
  refine keeps_ite ?_ ?_
  apply cmdFail_keeps
  assumption
  refine keeps_ite ?_ ?_
  apply cmdFail_keeps
  assumption
  refine keeps_ite ?_ ?_
  apply cmdFail_keeps
  assumption
  apply complete_keeps
  apply jumpTo_keeps
  apply modStream_keeps
  assumption
  assumption
  assumption

theorem execCtlHalt_keeps {p st b : Nat} {s : State} {s₀ : State} (h₀ : Keeps s₀ s) : KeepsO s₀ (execCtlHalt p st b s) := by
  unfold execCtlHalt
  refine keepsO_onUnits ?_ ?_
  intro _
  intro _
  apply launchCtl_keeps
  intro _
  intro _
  intro _
  apply complete_keeps
  apply setStreamState_keeps
  assumption
  assumption
  assumption

theorem execSemSet_keeps {p st b : Nat} {s : State} {s₀ : State} (h₀ : Keeps s₀ s) : KeepsO s₀ (execSemSet p st b s) := by
  unfold execSemSet
  refine keepsO_onUnits ?_ ?_
  intro _
  intro _
  apply launchCtl_keeps
  intro _
  intro _
  intro _
  apply complete_keeps
  apply semSet_keeps
  assumption
  assumption
  assumption

theorem execSemAdd_keeps {p st b : Nat} {s : State} {s₀ : State} (h₀ : Keeps s₀ s) : KeepsO s₀ (execSemAdd p st b s) := by
  unfold execSemAdd
  refine keepsO_onUnits ?_ ?_
  intro _
  intro _
  apply launchCtl_keeps
  intro _
  intro _
  intro _
  apply complete_keeps
  apply semAdd_keeps
  assumption
  assumption
  assumption

theorem execSemSignal_keeps {p st b : Nat} {s : State} {s₀ : State} (h₀ : Keeps s₀ s) : KeepsO s₀ (execSemSignal p st b s) := by
  unfold execSemSignal
  refine keepsO_onUnits ?_ ?_
  intro _
  intro _
  apply launchCtl_keeps
  intro _
  intro _
  intro _
  dsimp only
  refine keeps_ite ?_ ?_
  apply cmdFail_keeps
  assumption
  refine keeps_ite ?_ ?_
  apply cmdFail_keeps
  assumption
  refine keeps_ite ?_ ?_
  apply fabSend_keeps
  apply modCluster_keeps
  assumption
  apply send_keeps
  apply modCluster_keeps
  assumption
  assumption
  assumption

theorem signalApply_keeps {t sem n : Nat} {s : State} {s₀ : State} (h₀ : Keeps s₀ s) : Keeps s₀ (signalApply t sem n s).2 := by
  unfold signalApply
  refine keeps_ite2 ?_ ?_
  refine keeps_pair ?_
  assumption
  dsimp only
  refine keeps_ite2 ?_ ?_
  refine keeps_pair ?_
  apply semAdd_keeps
  assumption
  refine keeps_pair ?_
  assumption
theorem signalApply_pair {t sem n : Nat} {s : State} {s₀ : State} {a₀} {t₀ : State} (e₀ : signalApply t sem n s = (a₀, t₀)) (h₀ : Keeps s₀ s) : Keeps s₀ t₀ := by
  have k := @signalApply_keeps t sem n s s₀ h₀
  rw [e₀] at k; exact k

theorem execSemSignalArrive_keeps {t sem n dev src tag : Nat} {s : State} {s₀ : State} (h₀ : Keeps s₀ s) : KeepsO s₀ (execSemSignalArrive t sem n dev src tag s) := by
  unfold execSemSignalArrive
  refine keepsO_onUnits ?_ ?_
  intro _
  intro _
  split
  apply answerWith_keeps
  apply send_keeps
  refine signalApply_pair (by assumption) ?_
  assumption
  assumption

theorem signalDone_keeps {p tag status : Nat} {s : State} {s₀ : State} (h₀ : Keeps s₀ s) : Keeps s₀ (signalDone p tag status s) := by
  unfold signalDone
  split
  assumption
  dsimp only
  refine keeps_ite ?_ ?_
  apply complete_keeps
  apply modCluster_keeps
  assumption
  apply cmdFail_keeps
  apply modCluster_keeps
  assumption

theorem execSignalAck_keeps {p tag status : Nat} {s : State} {s₀ : State} (h₀ : Keeps s₀ s) : KeepsO s₀ (execSignalAck p tag status s) := by
  unfold execSignalAck
  refine keepsO_onUnit ?_ ?_
  intro _
  intro _
  apply signalDone_keeps
  assumption
  assumption

theorem execFenceRel_keeps {p st b : Nat} {s : State} {s₀ : State} (h₀ : Keeps s₀ s) : KeepsO s₀ (execFenceRel p st b s) := by
  unfold execFenceRel
  refine keepsO_onUnits ?_ ?_
  intro _
  intro _
  apply launchCtl_keeps
  intro _
  intro _
  intro _
  apply modStream_keeps
  assumption
  assumption
  assumption

theorem execFenceRelComplete_keeps {p st : Nat} {s : State} {s₀ : State} (h₀ : Keeps s₀ s) : KeepsO s₀ (execFenceRelComplete p st s) := by
  unfold execFenceRelComplete
  refine keepsO_onUnits ?_ ?_
  intro _
  intro _
  split
  assumption
  refine keeps_ite ?_ ?_
  assumption
  dsimp only
  apply complete_keeps
  refine keeps_ite ?_ ?_
  apply setStreamState_keeps
  apply modStream_keeps
  assumption
  apply modStream_keeps
  assumption
  assumption

theorem execFenceAcq_keeps {p st b : Nat} {s : State} {s₀ : State} (h₀ : Keeps s₀ s) : KeepsO s₀ (execFenceAcq p st b s) := by
  unfold execFenceAcq
  refine keepsO_onUnits ?_ ?_
  intro _
  intro _
  apply launchCtl_keeps
  intro _
  intro _
  intro _
  apply complete_keeps
  assumption
  assumption
  assumption

theorem execBadOpcodeCommand_keeps {p st b : Nat} {s : State} {s₀ : State} (h₀ : Keeps s₀ s) : KeepsO s₀ (execBadOpcodeCommand p st b s) := by
  unfold execBadOpcodeCommand
  refine keepsO_onUnits ?_ ?_
  intro _
  intro _
  apply launch_keeps
  intro _
  intro _
  intro _
  assumption
  apply advanceTo_keeps
  assumption
  assumption

theorem streamResume_keeps {p st pc : Nat} {s : State} {s₀ : State} (h₀ : Keeps s₀ s) : Keeps s₀ (streamResume p st pc s).2 := by
  unfold streamResume
  dsimp only
  refine keeps_ite2 ?_ ?_
  refine keeps_pair ?_
  assumption
  refine keeps_ite2 ?_ ?_
  refine keeps_pair ?_
  assumption
  refine keeps_pair ?_
  apply jumpTo_keeps
  apply modStream_keeps
  assumption
theorem streamResume_pair {p st pc : Nat} {s : State} {s₀ : State} {a₀} {t₀ : State} (e₀ : streamResume p st pc s = (a₀, t₀)) (h₀ : Keeps s₀ s) : Keeps s₀ t₀ := by
  have k := @streamResume_keeps p st pc s s₀ h₀
  rw [e₀] at k; exact k

theorem streamStop_keeps {p st : Nat} {s : State} {s₀ : State} (h₀ : Keeps s₀ s) : Keeps s₀ (streamStop p st s) := by
  unfold streamStop
  refine keeps_ite ?_ ?_
  assumption
  apply setStreamState_keeps
  assumption

theorem streamCtlWrite_keeps {p st v : Nat} {s : State} {s₀ : State} (h₀ : Keeps s₀ s) : Keeps s₀ (streamCtlWrite p st v s).2 := by
  unfold streamCtlWrite
  refine keeps_ite2 ?_ ?_
  refine keeps_pair ?_
  assumption
  refine keeps_ite2 ?_ ?_
  apply streamResume_keeps
  assumption
  refine keeps_ite2 ?_ ?_
  refine keeps_pair ?_
  apply streamStop_keeps
  assumption
  refine keeps_pair ?_
  assumption
theorem streamCtlWrite_pair {p st v : Nat} {s : State} {s₀ : State} {a₀} {t₀ : State} (e₀ : streamCtlWrite p st v s = (a₀, t₀)) (h₀ : Keeps s₀ s) : Keeps s₀ t₀ := by
  have k := @streamCtlWrite_keeps p st v s s₀ h₀
  rw [e₀] at k; exact k

theorem semWrite_keeps {p i v : Nat} {s : State} {s₀ : State} (h₀ : Keeps s₀ s) : Keeps s₀ (semWrite p i v s).2 := by
  unfold semWrite
  refine keeps_ite2 ?_ ?_
  refine keeps_pair ?_
  assumption
  refine keeps_pair ?_
  apply semSet_keeps
  assumption
theorem semWrite_pair {p i v : Nat} {s : State} {s₀ : State} {a₀} {t₀ : State} (e₀ : semWrite p i v s = (a₀, t₀)) (h₀ : Keeps s₀ s) : Keeps s₀ t₀ := by
  have k := @semWrite_keeps p i v s s₀ h₀
  rw [e₀] at k; exact k

end Sys2Proof.Machine
end

