-- ==== Sys2Proof/Laws/KeepUnits.lean ====
section
/-! SUPPORT. One lemma for each definition of Machine/Units.lean that answers a state: it keeps the queue and the canonical form. -/
namespace Sys2Proof.Machine

theorem updStatus_keeps {s : State} {s₀ : State} (h₀ : Keeps s₀ s) : Keeps s₀ (updStatus s) := by
  unfold updStatus
  apply setFlds_keeps
  assumption

theorem closeWindows_keeps {p : Nat} {s : State} {s₀ : State} (h₀ : Keeps s₀ s) : Keeps s₀ (closeWindows p s) := by
  unfold closeWindows
  dsimp only
  apply modCluster_keeps
  refine keeps_foldl ?_ ?_
  intro _
  intro _
  intro _
  apply setFld_keeps
  refine keeps_ite ?_ ?_
  apply setWinGen_keeps
  assumption
  assumption
  assumption

theorem dropScratchpad_keeps {p : Nat} {s : State} {s₀ : State} (h₀ : Keeps s₀ s) : Keeps s₀ (dropScratchpad p s) := by
  unfold dropScratchpad
  dsimp only
  apply modCluster_keeps
  apply wr_keeps
  refine keeps_spm ?_ (memZero_wf _ _ _)
  assumption

theorem dropEngines_keeps {p : Nat} {s : State} {s₀ : State} (h₀ : Keeps s₀ s) : Keeps s₀ (dropEngines p s) := by
  unfold dropEngines
  dsimp only
  refine keeps_foldl ?_ ?_
  intro _
  intro _
  intro _
  apply wr_keeps
  assumption
  refine keeps_foldl ?_ ?_
  intro _
  intro _
  intro _
  apply wr_keeps
  assumption
  refine keeps_foldl ?_ ?_
  intro _
  intro _
  intro _
  apply wr_keeps
  assumption
  apply setFlds_keeps
  apply modCluster_keeps
  assumption

theorem stopCluster_keeps {p : Nat} {s : State} {s₀ : State} (h₀ : Keeps s₀ s) : Keeps s₀ (stopCluster p s) := by
  unfold stopCluster
  dsimp only
  apply setFld_keeps
  apply dropScratchpad_keeps
  apply closeWindows_keeps
  apply dropEngines_keeps
  assumption

theorem clearWatch_keeps {p : Nat} {s : State} {s₀ : State} (h₀ : Keeps s₀ s) : Keeps s₀ (clearWatch p s) := by
  unfold clearWatch
  dsimp only
  apply setFlds_keeps
  apply setTrace_keeps
  refine keeps_foldl ?_ ?_
  intro _
  intro _
  intro _
  apply wr_keeps
  apply wr_keeps
  assumption
  assumption

theorem setClState_keeps {p x : Nat} {s : State} {s₀ : State} (h₀ : Keeps s₀ s) : Keeps s₀ (setClState p x s) := by
  unfold setClState
  dsimp only
  refine keeps_ite ?_ ?_
  apply setFld_keeps
  refine keeps_ite ?_ ?_
  apply clearWatch_keeps
  apply setFld_keeps
  assumption
  apply setFld_keeps
  assumption
  refine keeps_ite ?_ ?_
  apply clearWatch_keeps
  apply setFld_keeps
  assumption
  apply setFld_keeps
  assumption

theorem fenceCluster_keeps {p : Nat} {s : State} {s₀ : State} (h₀ : Keeps s₀ s) : Keeps s₀ (fenceCluster p s) := by
  unfold fenceCluster
  dsimp only
  apply traceRec_keeps
  apply setClState_keeps
  apply stopCluster_keeps
  assumption

theorem assign_keeps {l p : Nat} {s : State} {s₀ : State} (h₀ : Keeps s₀ s) : Keeps s₀ (assign l p s) := by
  unfold assign
  dsimp only
  apply setFld_keeps
  refine keeps_mk ?_
  assumption

theorem unassign_keeps {p : Nat} {s : State} {s₀ : State} (h₀ : Keeps s₀ s) : Keeps s₀ (unassign p s) := by
  unfold unassign
  dsimp only
  apply setFld_keeps
  refine keeps_mk ?_
  assumption

theorem setGal_keeps {g st cause : Nat} {s : State} {s₀ : State} (h₀ : Keeps s₀ s) : Keeps s₀ (setGal g st cause s) := by
  unfold setGal
  dsimp only
  apply updStatus_keeps
  apply setFlds_keeps
  assumption

theorem failGallery_keeps {g : Nat} {s : State} {s₀ : State} (h₀ : Keeps s₀ s) : Keeps s₀ (failGallery g s) := by
  unfold failGallery
  refine keeps_foldl ?_ ?_
  intro _
  intro _
  intro _
  refine keeps_ite ?_ ?_
  assumption
  refine keeps_ite ?_ ?_
  apply setClState_keeps
  apply stopCluster_keeps
  assumption
  apply fenceCluster_keeps
  assumption
  assumption

theorem darken_keeps {g cause : Nat} {s : State} {s₀ : State} (h₀ : Keeps s₀ s) : Keeps s₀ (darken g cause s) := by
  unfold darken
  dsimp only
  apply addRecord_keeps
  apply setFlds_keeps
  apply raise_keeps
  apply setFld_keeps
  apply failGallery_keeps
  apply setGal_keeps
  assumption

end Sys2Proof.Machine
end

