-- ==== Sys2Proof/Laws/KeepSpm.lean ====
section
/-! SUPPORT. One lemma for each definition of Machine/Spm.lean that answers a state: it keeps the queue and the canonical form. -/
namespace Sys2Proof.Machine

theorem stall_keeps {p q n : Nat} {s : State} {s₀ : State} (h₀ : Keeps s₀ s) : Keeps s₀ (stall p q n s) := by
  unfold stall
  apply setFld_keeps
  assumption

theorem eccFound_keeps {p word sev : Nat} {s : State} {s₀ : State} (h₀ : Keeps s₀ s) : Keeps s₀ (eccFound p word sev s) := by
  unfold eccFound
  refine keeps_ite ?_ ?_
  assumption
  dsimp only
  apply modCluster_keeps
  apply eccNote_keeps
  assumption

theorem spmDo_keeps {p q o n : Nat} {write : Bool} {data : List Byte} {s : State} {s₀ : State} (h₀ : Keeps s₀ s) : Keeps s₀ (spmDo p q o n write data s).2.2 := by
  unfold spmDo
  refine keeps_ite3 ?_ ?_
  refine keeps_triple ?_
  assumption
  refine keeps_ite3 ?_ ?_
  refine keeps_triple ?_
  assumption
  refine keeps_ite3 ?_ ?_
  refine keeps_ite3 ?_ ?_
  refine keeps_triple ?_
  assumption
  refine keeps_triple ?_
  apply spmStore_keeps
  assumption
  refine keeps_ite3 ?_ ?_
  refine keeps_triple ?_
  apply eccRead_keeps
  assumption
  refine keeps_triple ?_
  assumption
theorem spmDo_pair {p q o n : Nat} {write : Bool} {data : List Byte} {s : State} {s₀ : State} {a₀ b₀} {t₀ : State} (e₀ : spmDo p q o n write data s = (a₀, b₀, t₀)) (h₀ : Keeps s₀ s) : Keeps s₀ t₀ := by
  have k := @spmDo_keeps p q o n write data s s₀ h₀
  rw [e₀] at k; exact k

theorem execSpmAccess_keeps {p : Nat} {reqs : List SpmReq} {ecc ew : Nat} {s : State} {s₀ : State} (h₀ : Keeps s₀ s) : KeepsO s₀ (execSpmAccess p reqs ecc ew s) := by
  unfold execSpmAccess
  refine keepsO_onUnit ?_ ?_
  intro _
  intro _
  split
  assumption
  dsimp only
  split
  assumption
  split
  refine keeps_ite ?_ ?_
  apply answerWith_keeps
  apply send_keeps
  apply spmDo_keeps
  apply modCluster_keeps
  refine keeps_ite ?_ ?_
  refine keeps_ite ?_ ?_
  apply countCl_keeps
  refine keeps_foldl ?_ ?_
  intro _
  intro _
  intro _
  apply stall_keeps
  assumption
  apply modCluster_keeps
  assumption
  apply countCl_keeps
  apply countCl_keeps
  refine keeps_foldl ?_ ?_
  intro _
  intro _
  intro _
  apply stall_keeps
  assumption
  apply modCluster_keeps
  assumption
  apply eccFound_keeps
  refine keeps_ite ?_ ?_
  apply countCl_keeps
  refine keeps_foldl ?_ ?_
  intro _
  intro _
  intro _
  apply stall_keeps
  assumption
  apply modCluster_keeps
  assumption
  apply countCl_keeps
  apply countCl_keeps
  refine keeps_foldl ?_ ?_
  intro _
  intro _
  intro _
  apply stall_keeps
  assumption
  apply modCluster_keeps
  assumption
  apply answerWith_keeps
  apply spmDo_keeps
  refine keeps_ite ?_ ?_
  refine keeps_ite ?_ ?_
  apply countCl_keeps
  refine keeps_foldl ?_ ?_
  intro _
  intro _
  intro _
  apply stall_keeps
  assumption
  apply modCluster_keeps
  assumption
  apply countCl_keeps
  apply countCl_keeps
  refine keeps_foldl ?_ ?_
  intro _
  intro _
  intro _
  apply stall_keeps
  assumption
  apply modCluster_keeps
  assumption
  apply eccFound_keeps
  refine keeps_ite ?_ ?_
  apply countCl_keeps
  refine keeps_foldl ?_ ?_
  intro _
  intro _
  intro _
  apply stall_keeps
  assumption
  apply modCluster_keeps
  assumption
  apply countCl_keeps
  apply countCl_keeps
  refine keeps_foldl ?_ ?_
  intro _
  intro _
  intro _
  apply stall_keeps
  assumption
  apply modCluster_keeps
  assumption
  refine keeps_ite ?_ ?_
  refine keeps_ite ?_ ?_
  refine keeps_ite ?_ ?_
  apply countCl_keeps
  refine keeps_foldl ?_ ?_
  intro _
  intro _
  intro _
  apply stall_keeps
  assumption
  apply modCluster_keeps
  assumption
  apply countCl_keeps
  apply countCl_keeps
  refine keeps_foldl ?_ ?_
  intro _
  intro _
  intro _
  apply stall_keeps
  assumption
  apply modCluster_keeps
  assumption
  apply eccFound_keeps
  refine keeps_ite ?_ ?_
  apply countCl_keeps
  refine keeps_foldl ?_ ?_
  intro _
  intro _
  intro _
  apply stall_keeps
  assumption
  apply modCluster_keeps
  assumption
  apply countCl_keeps
  apply countCl_keeps
  refine keeps_foldl ?_ ?_
  intro _
  intro _
  intro _
  apply stall_keeps
  assumption
  apply modCluster_keeps
  assumption
  apply answerWith_keeps
  apply spmDo_keeps
  refine keeps_ite ?_ ?_
  refine keeps_ite ?_ ?_
  apply countCl_keeps
  refine keeps_foldl ?_ ?_
  intro _
  intro _
  intro _
  apply stall_keeps
  assumption
  apply modCluster_keeps
  assumption
  apply countCl_keeps
  apply countCl_keeps
  refine keeps_foldl ?_ ?_
  intro _
  intro _
  intro _
  apply stall_keeps
  assumption
  apply modCluster_keeps
  assumption
  apply eccFound_keeps
  refine keeps_ite ?_ ?_
  apply countCl_keeps
  refine keeps_foldl ?_ ?_
  intro _
  intro _
  intro _
  apply stall_keeps
  assumption
  apply modCluster_keeps
  assumption
  apply countCl_keeps
  apply countCl_keeps
  refine keeps_foldl ?_ ?_
  intro _
  intro _
  intro _
  apply stall_keeps
  assumption
  apply modCluster_keeps
  assumption
  assumption

theorem execEccWriteback_keeps {p word : Nat} {s : State} {s₀ : State} (h₀ : Keeps s₀ s) : KeepsO s₀ (execEccWriteback p word s) := by
  unfold execEccWriteback
  refine keepsO_onUnit ?_ ?_
  intro _
  intro _
  apply modCluster_keeps
  assumption
  assumption

theorem execScrubRead_keeps {p bank ecc ew : Nat} {displaced : List Nat} {s : State} {s₀ : State} (h₀ : Keeps s₀ s) : KeepsO s₀ (execScrubRead p bank ecc ew displaced s) := by
  unfold execScrubRead
  refine keepsO_onUnits ?_ ?_
  intro _
  intro _
  split
  assumption
  dsimp only
  refine keeps_ite ?_ ?_
  apply addRecord_keeps
  apply eccFound_keeps
  refine keeps_foldl ?_ ?_
  intro _
  intro _
  intro _
  apply stall_keeps
  assumption
  apply modCluster_keeps
  assumption
  apply eccFound_keeps
  refine keeps_foldl ?_ ?_
  intro _
  intro _
  intro _
  apply stall_keeps
  assumption
  apply modCluster_keeps
  assumption
  assumption

theorem rangeMove_keeps {p op k : Nat} {s : State} {s₀ : State} (h₀ : Keeps s₀ s) : Keeps s₀ (rangeMove p op k s) := by
  unfold rangeMove
  dsimp only
  split
  apply setRange_keeps
  assumption
  apply setRange_keeps
  assumption
  refine keeps_ite ?_ ?_
  apply setRange_keeps
  assumption
  assumption
  refine keeps_ite ?_ ?_
  apply modCluster_keeps
  apply setRange_keeps
  assumption
  assumption

theorem rangeCtl_keeps {p op mask : Nat} {s : State} {s₀ : State} (h₀ : Keeps s₀ s) : Keeps s₀ (rangeCtl p op mask s).2 := by
  unfold rangeCtl
  refine keeps_ite2 ?_ ?_
  refine keeps_pair ?_
  assumption
  dsimp only
  split
  refine keeps_pair ?_
  assumption
  refine keeps_pair ?_
  refine keeps_foldl ?_ ?_
  intro _
  intro _
  intro _
  apply rangeMove_keeps
  assumption
  assumption
theorem rangeCtl_pair {p op mask : Nat} {s : State} {s₀ : State} {a₀} {t₀ : State} (e₀ : rangeCtl p op mask s = (a₀, t₀)) (h₀ : Keeps s₀ s) : Keeps s₀ t₀ := by
  have k := @rangeCtl_keeps p op mask s s₀ h₀
  rw [e₀] at k; exact k

theorem zeroRange_keeps {p k : Nat} {s : State} {s₀ : State} (h₀ : Keeps s₀ s) : Keeps s₀ (zeroRange p k s) := by
  unfold zeroRange
  dsimp only
  apply modCluster_keeps
  refine keeps_spm ?_ (memZero_wf _ _ _)
  assumption

theorem execRangePowerDown_keeps {p k : Nat} {s : State} {s₀ : State} (h₀ : Keeps s₀ s) : KeepsO s₀ (execRangePowerDown p k s) := by
  unfold execRangePowerDown
  refine keepsO_onUnits ?_ ?_
  intro _
  intro _
  refine keeps_whenS ?_ ?_
  intro _
  intro _
  apply zeroRange_keeps
  apply setRange_keeps
  assumption
  assumption
  assumption

theorem execRangeOnComplete_keeps {p k : Nat} {s : State} {s₀ : State} (h₀ : Keeps s₀ s) : KeepsO s₀ (execRangeOnComplete p k s) := by
  unfold execRangeOnComplete
  refine keepsO_onUnits ?_ ?_
  intro _
  intro _
  refine keeps_whenS ?_ ?_
  intro _
  intro _
  apply zeroRange_keeps
  apply setRange_keeps
  assumption
  assumption
  assumption

theorem winNack_keeps {p : Nat} {src : Source} {w gen cause : Nat} {byAddr : Bool} {s : State} {s₀ : State} (h₀ : Keeps s₀ s) : Keeps s₀ (winNack p src w gen cause byAddr s) := by
  unfold winNack
  dsimp only
  apply countCl_keeps
  apply raise_keeps
  apply setFlds_keeps
  assumption

theorem drainIngress_keeps {p : Nat} {s : State} {s₀ : State} (h₀ : Keeps s₀ s) : Keeps s₀ (drainIngress p s) := by
  unfold drainIngress
  dsimp only
  refine keeps_foldl ?_ ?_
  intro _
  intro _
  intro _
  apply send_keeps
  apply spmDo_keeps
  assumption
  apply modCluster_keeps
  assumption

theorem windowDo_keeps {src : Source} {l w gen off size : Nat} {write : Bool} {data : List Byte} {s : State} {s₀ : State} (h₀ : Keeps s₀ s) : Keeps s₀ (windowDo src l w gen off size write data s).2.2 := by
  unfold windowDo
  refine keeps_ite3 ?_ ?_
  refine keeps_triple ?_
  assumption
  dsimp only
  refine keeps_ite3 ?_ ?_
  refine keeps_triple ?_
  apply winNack_keeps
  assumption
  refine keeps_triple ?_
  apply spmDo_keeps
  apply drainIngress_keeps
  assumption
theorem windowDo_pair {src : Source} {l w gen off size : Nat} {write : Bool} {data : List Byte} {s : State} {s₀ : State} {a₀ b₀} {t₀ : State} (e₀ : windowDo src l w gen off size write data s = (a₀, b₀, t₀)) (h₀ : Keeps s₀ s) : Keeps s₀ t₀ := by
  have k := @windowDo_keeps src l w gen off size write data s s₀ h₀
  rw [e₀] at k; exact k

theorem execWindowAccess_keeps {src : Source} {tag l w gen off size : Nat} {write : Bool} {data : List Byte} {s : State} {s₀ : State} (h₀ : Keeps s₀ s) : KeepsO s₀ (execWindowAccess src tag l w gen off size write data s) := by
  unfold execWindowAccess
  refine keepsO_onUnits ?_ ?_
  intro _
  intro _
  refine keeps_ite ?_ ?_
  apply answerWith_keeps
  apply send_keeps
  assumption
  dsimp only
  refine keeps_ite ?_ ?_
  apply answerWith_keeps
  apply send_keeps
  apply winNack_keeps
  assumption
  refine keeps_ite ?_ ?_
  assumption
  apply answerWith_keeps
  apply modCluster_keeps
  assumption
  assumption

theorem execSpmAddrAccess_keeps {src : Source} {tag l off size : Nat} {write : Bool} {data : List Byte} {s : State} {s₀ : State} (h₀ : Keeps s₀ s) : KeepsO s₀ (execSpmAddrAccess src tag l off size write data s) := by
  unfold execSpmAddrAccess
  refine keepsO_onUnit ?_ ?_
  intro _
  intro _
  refine keeps_ite ?_ ?_
  assumption
  dsimp only
  split
  apply answerWith_keeps
  apply send_keeps
  refine keeps_ite ?_ ?_
  assumption
  apply winNack_keeps
  assumption
  refine keeps_ite ?_ ?_
  assumption
  apply answerWith_keeps
  apply modCluster_keeps
  assumption
  assumption

theorem addrDo_keeps {src : Source} {l o size : Nat} {write : Bool} {data : List Byte} {s : State} {s₀ : State} (h₀ : Keeps s₀ s) : Keeps s₀ (addrDo src l o size write data s).2.2 := by
  unfold addrDo
  split
  refine keeps_triple ?_
  refine keeps_ite ?_ ?_
  assumption
  apply winNack_keeps
  assumption
  dsimp only
  apply spmDo_keeps
  apply drainIngress_keeps
  assumption
theorem addrDo_pair {src : Source} {l o size : Nat} {write : Bool} {data : List Byte} {s : State} {s₀ : State} {a₀ b₀} {t₀ : State} (e₀ : addrDo src l o size write data s = (a₀, b₀, t₀)) (h₀ : Keeps s₀ s) : Keeps s₀ t₀ := by
  have k := @addrDo_keeps src l o size write data s s₀ h₀
  rw [e₀] at k; exact k

theorem winOpenWrite_keeps {p mask : Nat} {s : State} {s₀ : State} (h₀ : Keeps s₀ s) : Keeps s₀ (winOpenWrite p mask s).2 := by
  unfold winOpenWrite
  dsimp only
  split
  refine keeps_pair ?_
  assumption
  refine keeps_pair ?_
  refine keeps_foldl ?_ ?_
  intro _
  intro _
  intro _
  apply setFld_keeps
  assumption
  assumption
theorem winOpenWrite_pair {p mask : Nat} {s : State} {s₀ : State} {a₀} {t₀ : State} (e₀ : winOpenWrite p mask s = (a₀, t₀)) (h₀ : Keeps s₀ s) : Keeps s₀ t₀ := by
  have k := @winOpenWrite_keeps p mask s s₀ h₀
  rw [e₀] at k; exact k

theorem closeWindow_keeps {p w : Nat} {s : State} {s₀ : State} (h₀ : Keeps s₀ s) : Keeps s₀ (closeWindow p w s) := by
  unfold closeWindow
  refine keeps_ite ?_ ?_
  assumption
  dsimp only
  apply setFld_keeps
  apply setWinGen_keeps
  assumption

theorem winCloseWrite_keeps {p mask : Nat} {s : State} {s₀ : State} (h₀ : Keeps s₀ s) : Keeps s₀ (winCloseWrite p mask s).2 := by
  unfold winCloseWrite
  refine keeps_pair ?_
  refine keeps_foldl ?_ ?_
  intro _
  intro _
  intro _
  apply closeWindow_keeps
  assumption
  assumption
theorem winCloseWrite_pair {p mask : Nat} {s : State} {s₀ : State} {a₀} {t₀ : State} (e₀ : winCloseWrite p mask s = (a₀, t₀)) (h₀ : Keeps s₀ s) : Keeps s₀ t₀ := by
  have k := @winCloseWrite_keeps p mask s s₀ h₀
  rw [e₀] at k; exact k

theorem execWindowDrained_keeps {p w : Nat} {s : State} {s₀ : State} (h₀ : Keeps s₀ s) : KeepsO s₀ (execWindowDrained p w s) := by
  unfold execWindowDrained
  refine keepsO_onUnits ?_ ?_
  intro _
  intro _
  refine keeps_whenS ?_ ?_
  intro _
  intro _
  apply setFld_keeps
  assumption
  assumption
  assumption

theorem winOpenService_keeps {p w a1 a2 : Nat} {s : State} {s₀ : State} (h₀ : Keeps s₀ s) : Keeps s₀ (winOpenService p w a1 a2 s).2 := by
  unfold winOpenService
  refine keeps_ite2 ?_ ?_
  refine keeps_pair ?_
  assumption
  dsimp only
  refine keeps_ite2 ?_ ?_
  refine keeps_pair ?_
  assumption
  refine keeps_ite2 ?_ ?_
  refine keeps_pair ?_
  assumption
  refine keeps_pair ?_
  apply wr_keeps
  apply wr_keeps
  assumption
theorem winOpenService_pair {p w a1 a2 : Nat} {s : State} {s₀ : State} {a₀} {t₀ : State} (e₀ : winOpenService p w a1 a2 s = (a₀, t₀)) (h₀ : Keeps s₀ s) : Keeps s₀ t₀ := by
  have k := @winOpenService_keeps p w a1 a2 s s₀ h₀
  rw [e₀] at k; exact k

theorem execWinOpen_keeps {rid l a0 a1 a2 : Nat} {s : State} {s₀ : State} (h₀ : Keeps s₀ s) : KeepsO s₀ (execWinOpen rid l a0 a1 a2 s) := by
  unfold execWinOpen
  refine keepsO_onUnit ?_ ?_
  intro _
  intro _
  apply service_keeps
  intro _
  intro _
  apply winOpenService_keeps
  assumption
  assumption
  assumption

theorem execWinClose_keeps {rid l a0 : Nat} {s : State} {s₀ : State} (h₀ : Keeps s₀ s) : KeepsO s₀ (execWinClose rid l a0 s) := by
  unfold execWinClose
  refine keepsO_onUnit ?_ ?_
  intro _
  intro _
  dsimp only
  apply service_keeps
  intro _
  intro _
  refine keeps_ite2 ?_ ?_
  refine keeps_pair ?_
  assumption
  split
  refine keeps_pair ?_
  apply closeWindow_keeps
  assumption
  refine keeps_pair ?_
  apply closeWindow_keeps
  assumption
  assumption
  assumption

theorem execWinStatus_keeps {rid l a0 : Nat} {s : State} {s₀ : State} (h₀ : Keeps s₀ s) : KeepsO s₀ (execWinStatus rid l a0 s) := by
  unfold execWinStatus
  refine keepsO_onUnit ?_ ?_
  intro _
  intro _
  dsimp only
  apply service_keeps
  intro _
  intro _
  refine keeps_ite2 ?_ ?_
  refine keeps_pair ?_
  assumption
  refine keeps_pair ?_
  assumption
  assumption
  assumption

theorem execRangeSet_keeps {rid l a0 a1 : Nat} {s : State} {s₀ : State} (h₀ : Keeps s₀ s) : KeepsO s₀ (execRangeSet rid l a0 a1 s) := by
  unfold execRangeSet
  refine keepsO_onUnit ?_ ?_
  intro _
  intro _
  dsimp only
  apply service_keeps
  intro _
  intro _
  refine keeps_ite2 ?_ ?_
  refine keeps_pair ?_
  assumption
  refine keeps_ite2 ?_ ?_
  refine keeps_pair ?_
  apply rangeCtl_keeps
  assumption
  split
  refine keeps_pair ?_
  apply rangeCtl_keeps
  assumption
  refine keeps_pair ?_
  apply rangeCtl_keeps
  assumption
  assumption
  assumption

theorem execEccRead_keeps {rid l : Nat} {s : State} {s₀ : State} (h₀ : Keeps s₀ s) : KeepsO s₀ (execEccRead rid l s) := by
  unfold execEccRead
  refine keepsO_onUnit ?_ ?_
  intro _
  intro _
  dsimp only
  apply serviceRead_keeps
  assumption
  assumption

end Sys2Proof.Machine
end

