-- ==== Sys2Proof/Laws/KeepMesh.lean ====
section
/-! SUPPORT. One lemma for each definition of Machine/Mesh.lean that answers a state: it keeps the queue and the canonical form. -/
namespace Sys2Proof.Machine

theorem execMeshPacketInject_keeps {p dst vc flits tag : Nat} {s : State} {s₀ : State} (h₀ : Keeps s₀ s) : KeepsO s₀ (execMeshPacketInject p dst vc flits tag s) := by
  unfold execMeshPacketInject
  refine keepsO_onUnits ?_ ?_
  intro _
  intro _
  refine keeps_ite ?_ ?_
  apply answerWith_keeps
  assumption
  dsimp only
  apply answerWith_keeps
  refine keeps_ite ?_ ?_
  refine keeps_mk ?_
  refine keeps_ite ?_ ?_
  apply countCl_keeps
  refine keeps_foldl ?_ ?_
  intro _
  intro _
  intro _
  apply countCl_keeps
  assumption
  assumption
  refine keeps_foldl ?_ ?_
  intro _
  intro _
  intro _
  apply countCl_keeps
  assumption
  assumption
  refine keeps_ite ?_ ?_
  refine keeps_mk ?_
  refine keeps_ite ?_ ?_
  apply countCl_keeps
  refine keeps_foldl ?_ ?_
  intro _
  intro _
  intro _
  apply countCl_keeps
  assumption
  assumption
  refine keeps_foldl ?_ ?_
  intro _
  intro _
  intro _
  apply countCl_keeps
  assumption
  assumption
  refine keeps_ite ?_ ?_
  apply countCl_keeps
  refine keeps_foldl ?_ ?_
  intro _
  intro _
  intro _
  apply countCl_keeps
  assumption
  assumption
  refine keeps_foldl ?_ ?_
  intro _
  intro _
  intro _
  apply countCl_keeps
  assumption
  assumption
  assumption

theorem requestLost_keeps {p tag : Nat} {s : State} {s₀ : State} (h₀ : Keeps s₀ s) : Keeps s₀ (requestLost p tag s) := by
  unfold requestLost
  dsimp only
  split
  apply answerWith_keeps
  refine keeps_mk ?_
  assumption
  apply cmdFail_keeps
  apply modCluster_keeps
  apply answerWith_keeps
  refine keeps_mk ?_
  assumption

theorem execMeshRequestTimeout_keeps {p tag : Nat} {s : State} {s₀ : State} (h₀ : Keeps s₀ s) : KeepsO s₀ (execMeshRequestTimeout p tag s) := by
  unfold execMeshRequestTimeout
  refine keepsO_onUnit ?_ ?_
  intro _
  intro _
  refine keeps_whenS ?_ ?_
  intro _
  intro _
  apply requestLost_keeps
  assumption
  assumption
  assumption

theorem execResponderRefuse_keeps {p kind tag : Nat} {s : State} {s₀ : State} (h₀ : Keeps s₀ s) : KeepsO s₀ (execResponderRefuse p kind tag s) := by
  unfold execResponderRefuse
  refine keepsO_onUnit ?_ ?_
  intro _
  intro _
  refine keeps_whenS ?_ ?_
  intro _
  intro _
  dsimp only
  apply answerWith_keeps
  apply send_keeps
  assumption
  assumption
  assumption

theorem rtrErr_keeps {p port b : Nat} {s : State} {s₀ : State} (h₀ : Keeps s₀ s) : Keeps s₀ (rtrErr p port b s) := by
  unfold rtrErr
  apply raise_keeps
  apply setFld_keeps
  assumption

theorem portDown_keeps {p port : Nat} {s : State} {s₀ : State} (h₀ : Keeps s₀ s) : Keeps s₀ (portDown p port s) := by
  unfold portDown
  dsimp only
  apply setFld_keeps
  apply setFld_keeps
  assumption

theorem stairReport_keeps {kind unit cause : Nat} {s : State} {s₀ : State} (h₀ : Keeps s₀ s) : Keeps s₀ (stairReport kind unit cause s) := by
  unfold stairReport
  apply send_keeps
  assumption

theorem linkFail_keeps {p port : Nat} {s : State} {s₀ : State} (h₀ : Keeps s₀ s) : Keeps s₀ (linkFail p port s) := by
  unfold linkFail
  dsimp only
  apply stairReport_keeps
  refine keeps_ite ?_ ?_
  apply portDown_keeps
  apply rtrErr_keeps
  apply portDown_keeps
  assumption
  apply rtrErr_keeps
  apply portDown_keeps
  assumption

theorem execMeshFlitRetry_keeps {p port : Nat} {again : Bool} {s : State} {s₀ : State} (h₀ : Keeps s₀ s) : KeepsO s₀ (execMeshFlitRetry p port again s) := by
  unfold execMeshFlitRetry
  refine keepsO_onUnits ?_ ?_
  intro _
  intro _
  dsimp only
  refine keeps_ite ?_ ?_
  apply modCluster_keeps
  apply setFld_keeps
  apply rtrErr_keeps
  assumption
  apply linkFail_keeps
  apply modCluster_keeps
  apply setFld_keeps
  apply rtrErr_keeps
  assumption
  assumption

theorem execLandingHandshakeEnter_keeps {p port offset : Nat} {s : State} {s₀ : State} (h₀ : Keeps s₀ s) : KeepsO s₀ (execLandingHandshakeEnter p port offset s) := by
  unfold execLandingHandshakeEnter
  refine keepsO_onUnits ?_ ?_
  intro _
  intro _
  dsimp only
  refine keeps_whenS ?_ ?_
  intro _
  intro _
  apply rtrErr_keeps
  apply setFlds_keeps
  assumption
  assumption
  assumption

theorem execLandingRecentre_keeps {p port offset : Nat} {s : State} {s₀ : State} (h₀ : Keeps s₀ s) : KeepsO s₀ (execLandingRecentre p port offset s) := by
  unfold execLandingRecentre
  refine keepsO_onUnits ?_ ?_
  intro _
  intro _
  dsimp only
  refine keeps_whenS ?_ ?_
  intro _
  intro _
  apply setFlds_keeps
  assumption
  assumption
  assumption

theorem detourWrite_keeps {p e v : Nat} {s : State} {s₀ : State} (h₀ : Keeps s₀ s) : Keeps s₀ (detourWrite p e v s).2 := by
  unfold detourWrite
  dsimp only
  refine keeps_ite2 ?_ ?_
  refine keeps_pair ?_
  assumption
  refine keeps_pair ?_
  apply wr_keeps
  assumption
theorem detourWrite_pair {p e v : Nat} {s : State} {s₀ : State} {a₀} {t₀ : State} (e₀ : detourWrite p e v s = (a₀, t₀)) (h₀ : Keeps s₀ s) : Keeps s₀ t₀ := by
  have k := @detourWrite_keeps p e v s s₀ h₀
  rw [e₀] at k; exact k

theorem commitWrite_keeps {p v : Nat} {s : State} {s₀ : State} (h₀ : Keeps s₀ s) : Keeps s₀ (commitWrite p v s).2 := by
  unfold commitWrite
  refine keeps_pair ?_
  apply wr_keeps
  assumption
theorem commitWrite_pair {p v : Nat} {s : State} {s₀ : State} {a₀} {t₀ : State} (e₀ : commitWrite p v s = (a₀, t₀)) (h₀ : Keeps s₀ s) : Keeps s₀ t₀ := by
  have k := @commitWrite_keeps p v s s₀ h₀
  rw [e₀] at k; exact k

theorem commitDetour_keeps {p : Nat} {s : State} {s₀ : State} (h₀ : Keeps s₀ s) : Keeps s₀ (commitDetour p s) := by
  unfold commitDetour
  dsimp only
  apply setFld_keeps
  apply setFld_keeps
  apply modCluster_keeps
  assumption

theorem execRtrCommit_keeps {p b : Nat} {s : State} {s₀ : State} (h₀ : Keeps s₀ s) : KeepsO s₀ (execRtrCommit p b s) := by
  unfold execRtrCommit
  refine keepsO_onUnit ?_ ?_
  intro _
  intro _
  dsimp only
  refine keeps_whenS ?_ ?_
  intro _
  intro _
  apply commitDetour_keeps
  assumption
  apply advanceTo_keeps
  assumption
  assumption

theorem applyMapChange_keeps {m : MapChange} {s : State} {s₀ : State} (h₀ : Keeps s₀ s) : Keeps s₀ (applyMapChange m s) := by
  unfold applyMapChange
  dsimp only
  apply updStatus_keeps
  refine keeps_ite ?_ ?_
  apply setClState_keeps
  apply assign_keeps
  refine keeps_ite ?_ ?_
  apply unassign_keeps
  assumption
  assumption
  refine keeps_ite ?_ ?_
  apply unassign_keeps
  assumption
  assumption

theorem execMapChange_keeps {b : Nat} {s : State} {s₀ : State} (h₀ : Keeps s₀ s) : KeepsO s₀ (execMapChange b s) := by
  unfold execMapChange
  refine keepsO_next ?_
  dsimp only
  refine keeps_foldl ?_ ?_
  intro _
  intro _
  intro _
  apply applyMapChange_keeps
  assumption
  refine keeps_mk ?_
  apply advanceTo_keeps
  assumption

theorem publishDist_keeps {s : State} {s₀ : State} (h₀ : Keeps s₀ s) : Keeps s₀ (publishDist s) := by
  unfold publishDist
  dsimp only
  apply setFlds_keeps
  apply bufStore_keeps
  assumption

theorem execDistPublish_keeps {s : State} {s₀ : State} (h₀ : Keeps s₀ s) : KeepsO s₀ (execDistPublish s) := by
  unfold execDistPublish
  refine keepsO_next ?_
  apply publishDist_keeps
  assumption

end Sys2Proof.Machine
end

