-- ==== Sys2Proof/Laws/KeepHome.lean ====
section
/-! SUPPORT. One lemma for each definition of Machine/Home.lean that answers a state: it keeps the queue and the canonical form. -/
namespace Sys2Proof.Machine

theorem serErr_keeps {p b : Nat} {s : State} {s₀ : State} (h₀ : Keeps s₀ s) : Keeps s₀ (serErr p b s) := by
  unfold serErr
  apply raise_keeps
  assumption

theorem serSend_keeps {port cls op tag aux state line : Nat} {data : List Byte} {s : State} {s₀ : State} (h₀ : Keeps s₀ s) : Keeps s₀ (serSend port cls op tag aux state line data s) := by
  unfold serSend
  refine keeps_ite ?_ ?_
  apply send_keeps
  assumption
  assumption

theorem serErrAnswer_keeps {port tag status : Nat} {s : State} {s₀ : State} (h₀ : Keeps s₀ s) : Keeps s₀ (serErrAnswer port tag status s) := by
  unfold serErrAnswer
  apply answerWith_keeps
  apply serSend_keeps
  assumption

theorem updFilterHeld_keeps {s : State} {s₀ : State} (h₀ : Keeps s₀ s) : Keeps s₀ (updFilterHeld s) := by
  unfold updFilterHeld
  refine keeps_foldl ?_ ?_
  intro _
  intro _
  intro _
  apply setFld_keeps
  assumption
  assumption

theorem setFilter_keeps {line : Nat} {excl : Bool} {holders : List Nat} {s : State} {s₀ : State} (h₀ : Keeps s₀ s) : Keeps s₀ (setFilter line excl holders s) := by
  unfold setFilter
  dsimp only
  apply updFilterHeld_keeps
  refine keeps_mk ?_
  assumption

theorem homeRead_keeps {l : Nat} {s s₀ : State} (h₀ : Keeps s₀ s) : Keeps s₀ (homeRead l s).2 := by
  unfold homeRead
  apply hbmRead_keeps
  assumption
theorem homeRead_pair {l : Nat} {s s₀ : State} {a₀} {t₀ : State} (e₀ : homeRead l s = (a₀, t₀)) (h₀ : Keeps s₀ s) : Keeps s₀ t₀ := by
  have k := @homeRead_keeps l s s₀ h₀
  rw [e₀] at k; exact k

theorem hbmMask_keeps {line mask : Nat} {data : List Byte} {s : State} {s₀ : State} (h₀ : Keeps s₀ s) : Keeps s₀ (hbmMask line mask data s).2 := by
  unfold hbmMask
  refine keeps_ite2 ?_ ?_
  apply hbmWrite_keeps
  assumption
  refine keeps_ite2 ?_ ?_
  refine keeps_pair ?_
  assumption
  split
  refine keeps_pair ?_
  refine hbmRead_pair (by assumption) ?_
  assumption
  apply hbmWrite_keeps
  refine hbmRead_pair (by assumption) ?_
  assumption
theorem hbmMask_pair {line mask : Nat} {data : List Byte} {s : State} {s₀ : State} {a₀} {t₀ : State} (e₀ : hbmMask line mask data s = (a₀, t₀)) (h₀ : Keeps s₀ s) : Keeps s₀ t₀ := by
  have k := @hbmMask_keeps line mask data s s₀ h₀
  rw [e₀] at k; exact k

theorem homeStart_keeps {t : HomeTx} {s : State} {s₀ : State} (h₀ : Keeps s₀ s) : Keeps s₀ (homeStart t s) := by
  unfold homeStart
  split
  dsimp only
  refine keeps_foldl ?_ ?_
  intro _
  intro _
  intro _
  apply serSend_keeps
  assumption
  refine keeps_mk ?_
  assumption

theorem answerData_keeps {t : HomeTx} {state : Nat} {s : State} {s₀ : State} (h₀ : Keeps s₀ s) : Keeps s₀ (answerData t state s) := by
  unfold answerData
  split
  apply serSend_keeps
  refine homeRead_pair (by assumption) ?_
  assumption
  apply serErrAnswer_keeps
  refine homeRead_pair (by assumption) ?_
  assumption

theorem answerCmp_keeps {t : HomeTx} {state : Nat} {s : State} {s₀ : State} (h₀ : Keeps s₀ s) : Keeps s₀ (answerCmp t state s) := by
  unfold answerCmp
  apply serSend_keeps
  assumption

theorem homeFinish_keeps {t : HomeTx} {s : State} {s₀ : State} (h₀ : Keeps s₀ s) : Keeps s₀ (homeFinish t s) := by
  unfold homeFinish
  dsimp only
  refine keeps_ite ?_ ?_
  split
  refine keeps_ite ?_ ?_
  apply answerData_keeps
  apply setFilter_keeps
  refine keeps_mk ?_
  assumption
  apply answerData_keeps
  apply setFilter_keeps
  refine keeps_mk ?_
  assumption
  refine keeps_ite ?_ ?_
  apply answerData_keeps
  apply setFilter_keeps
  refine keeps_mk ?_
  assumption
  apply answerData_keeps
  apply setFilter_keeps
  refine keeps_mk ?_
  assumption
  refine keeps_ite ?_ ?_
  apply answerData_keeps
  apply setFilter_keeps
  refine keeps_mk ?_
  assumption
  refine keeps_ite ?_ ?_
  refine keeps_ite ?_ ?_
  apply answerCmp_keeps
  apply setFilter_keeps
  refine keeps_mk ?_
  assumption
  apply answerData_keeps
  apply setFilter_keeps
  refine keeps_mk ?_
  assumption
  refine keeps_ite ?_ ?_
  apply answerCmp_keeps
  refine keeps_ite ?_ ?_
  apply setFilter_keeps
  refine keeps_ite ?_ ?_
  apply hbmWrite_keeps
  refine keeps_mk ?_
  assumption
  refine keeps_mk ?_
  assumption
  refine keeps_mk ?_
  assumption
  refine keeps_ite ?_ ?_
  refine keeps_ite ?_ ?_
  split
  apply serSend_keeps
  refine homeRead_pair (by assumption) ?_
  refine keeps_mk ?_
  assumption
  apply serErrAnswer_keeps
  refine homeRead_pair (by assumption) ?_
  refine keeps_mk ?_
  assumption
  refine keeps_ite ?_ ?_
  split
  apply send_keeps
  refine homeRead_pair (by assumption) ?_
  refine keeps_mk ?_
  assumption
  apply send_keeps
  refine homeRead_pair (by assumption) ?_
  refine keeps_mk ?_
  assumption
  refine keeps_mk ?_
  assumption
  refine keeps_ite ?_ ?_
  refine keeps_ite ?_ ?_
  refine keeps_mk ?_
  assumption
  refine keeps_ite ?_ ?_
  refine keeps_ite ?_ ?_
  apply answerCmp_keeps
  apply hbmWrite_keeps
  refine keeps_mk ?_
  assumption
  apply serErrAnswer_keeps
  apply hbmWrite_keeps
  refine keeps_mk ?_
  assumption
  refine keeps_ite ?_ ?_
  apply send_keeps
  apply hbmWrite_keeps
  refine keeps_mk ?_
  assumption
  apply hbmWrite_keeps
  refine keeps_mk ?_
  assumption
  refine keeps_ite ?_ ?_
  refine keeps_mk ?_
  assumption
  refine keeps_ite ?_ ?_
  refine keeps_ite ?_ ?_
  apply answerCmp_keeps
  apply hbmMask_keeps
  refine keeps_mk ?_
  assumption
  apply serErrAnswer_keeps
  apply hbmMask_keeps
  refine keeps_mk ?_
  assumption
  apply setFilter_keeps
  refine keeps_mk ?_
  assumption

theorem homeStep_some {s t s₀ : State} (e : homeStep s = some t) (h₀ : Keeps s₀ s) : Keeps s₀ t := by
  unfold homeStep at e
  split at e
  · cases e; exact homeStart_keeps h₀
  · split at e
    · cases e
    · split at e
      · split at e
        · cases e
        · cases e; exact keeps_mk h₀
      · cases e; exact homeFinish_keeps h₀

theorem homePump_keeps {n : Nat} {s s₀ : State} (h₀ : Keeps s₀ s) : Keeps s₀ (homePump n s) := by
  induction n generalizing s with
  | zero => exact h₀
  | succ n ih =>
    unfold homePump
    split
    · rename_i e
      exact ih (homeStep_some e h₀)
    · exact h₀

theorem homeRun_keeps {s : State} {s₀ : State} (h₀ : Keeps s₀ s) : Keeps s₀ (homeRun s) := by
  unfold homeRun
  apply homePump_keeps
  assumption

theorem homePut_keeps {t : HomeTx} {s : State} {s₀ : State} (h₀ : Keeps s₀ s) : Keeps s₀ (homePut t s) := by
  unfold homePut
  apply homeRun_keeps
  refine keeps_mk ?_
  assumption

theorem snoopFor_keeps {lines : List Nat} {write : Bool} {s : State} {s₀ : State} (h₀ : Keeps s₀ s) : Keeps s₀ (snoopFor lines write s) := by
  unfold snoopFor
  refine keeps_foldl ?_ ?_
  intro _
  intro _
  intro _
  refine keeps_ite ?_ ?_
  assumption
  apply homePut_keeps
  assumption
  assumption

theorem updOutstanding_keeps {s : State} {s₀ : State} (h₀ : Keeps s₀ s) : Keeps s₀ (updOutstanding s) := by
  unfold updOutstanding
  refine keeps_foldl ?_ ?_
  intro _
  intro _
  intro _
  apply setFld_keeps
  assumption
  assumption

theorem serIssue_keeps {r : SerReq} {s : State} {s₀ : State} (h₀ : Keeps s₀ s) : Keeps s₀ (serIssue r s) := by
  unfold serIssue
  dsimp only
  apply serSend_keeps
  apply updOutstanding_keeps
  refine keeps_mk ?_
  assumption

theorem serRequestOn_keeps {port op line unit : Nat} {data : List Byte} {s : State} {s₀ : State} (h₀ : Keeps s₀ s) : Keeps s₀ (serRequestOn port op line unit data s) := by
  unfold serRequestOn
  dsimp only
  split
  refine keeps_mk ?_
  assumption
  refine keeps_ite ?_ ?_
  refine keeps_mk ?_
  assumption
  apply serIssue_keeps
  assumption

theorem serRequest_keeps {op line unit : Nat} {data : List Byte} {s : State} {s₀ : State} (h₀ : Keeps s₀ s) : Keeps s₀ (serRequest op line unit data s) := by
  unfold serRequest
  apply serRequestOn_keeps
  assumption

theorem serNext_keeps {port : Nat} {s : State} {s₀ : State} (h₀ : Keeps s₀ s) : Keeps s₀ (serNext port s) := by
  unfold serNext
  split
  apply serIssue_keeps
  refine keeps_mk ?_
  assumption
  assumption

theorem cacheLeave_keeps {v : CacheLine} {s : State} {s₀ : State} (h₀ : Keeps s₀ s) : Keeps s₀ (cacheLeave v s) := by
  unfold cacheLeave
  refine keeps_ite ?_ ?_
  apply serRequestOn_keeps
  assumption
  refine keeps_ite ?_ ?_
  apply serRequestOn_keeps
  assumption
  assumption

theorem cachePut_keeps {c : CacheLine} {s : State} {s₀ : State} (h₀ : Keeps s₀ s) : Keeps s₀ (cachePut c s) := by
  unfold cachePut
  dsimp only
  refine keeps_ite ?_ ?_
  refine keeps_mk ?_
  assumption
  split
  refine keeps_mk ?_
  assumption
  apply cacheLeave_keeps
  refine keeps_mk ?_
  assumption

theorem fetchLines_keeps {ls : List Nat} {own : Bool} {unit : Nat} {s : State} {s₀ : State} (h₀ : Keeps s₀ s) : Keeps s₀ (fetchLines ls own unit s) := by
  unfold fetchLines
  refine keeps_foldl ?_ ?_
  intro _
  intro _
  intro _
  refine keeps_ite ?_ ?_
  assumption
  apply serRequest_keeps
  assumption
  assumption

theorem companionRead_keeps {a n : Nat} {s : State} {s₀ : State} (h₀ : Keeps s₀ s) : Keeps s₀ (companionRead a n s).2 := by
  unfold companionRead
  dsimp only
  refine keeps_mk ?_
  assumption
theorem companionRead_pair {a n : Nat} {s : State} {s₀ : State} {a₀} {t₀ : State} (e₀ : companionRead a n s = (a₀, t₀)) (h₀ : Keeps s₀ s) : Keeps s₀ t₀ := by
  have k := @companionRead_keeps a n s s₀ h₀
  rw [e₀] at k; exact k

theorem companionWrite_keeps {a : Nat} {l : List Byte} {unit : Nat} {s : State} {s₀ : State} (h₀ : Keeps s₀ s) : Keeps s₀ (companionWrite a l unit s) := by
  unfold companionWrite
  refine keeps_foldl ?_ ?_
  intro _
  intro _
  intro _
  dsimp only
  refine keeps_ite ?_ ?_
  apply serRequest_keeps
  refine keeps_mk ?_
  assumption
  split
  apply cachePut_keeps
  assumption
  apply serRequest_keeps
  assumption
  assumption

end Sys2Proof.Machine
end

