-- ==== Sys2Proof/Laws/KeepDev.lean ====
section
/-! SUPPORT. One lemma for each definition of Machine/Dev.lean that answers a state: it keeps the queue and the canonical form. -/
namespace Sys2Proof.Machine

theorem doorbell_keeps {n q : Nat} {s : State} {s₀ : State} (h₀ : Keeps s₀ s) : Keeps s₀ (doorbell n q s) := by
  unfold doorbell
  dsimp only
  refine keeps_ite ?_ ?_
  apply setFld_keeps
  assumption
  refine keeps_ite ?_ ?_
  apply setFlds_keeps
  assumption
  apply setFlds_keeps
  assumption

theorem bufWrite_keeps {n o : Nat} {l : List Byte} {s : State} {s₀ : State} (h₀ : Keeps s₀ s) : Keeps s₀ (bufWrite n o l s) := by
  unfold bufWrite
  dsimp only
  refine keeps_ite ?_ ?_
  apply doorbell_keeps
  apply bufStore_keeps
  assumption
  apply bufStore_keeps
  assumption

theorem devRead_keeps {src : Source} {unit a n : Nat} {s : State} {s₀ : State} (h₀ : Keeps s₀ s) : Keeps s₀ (devRead src unit a n s).2 := by
  unfold devRead
  split
  dsimp only
  refine keeps_ite2 ?_ ?_
  refine keeps_pair ?_
  apply snoopFor_keeps
  assumption
  split
  refine keeps_pair ?_
  refine hbmRead_pair (by assumption) ?_
  assumption
  refine keeps_pair ?_
  refine hbmRead_pair (by assumption) ?_
  assumption
  split
  refine keeps_pair ?_
  assumption
  refine keeps_pair ?_
  assumption
  dsimp only
  refine keeps_ite2 ?_ ?_
  refine keeps_pair ?_
  refine keeps_foldl3 ?_ ?_
  intro _
  intro _
  intro _
  refine keeps_ite3 ?_ ?_
  assumption
  refine keeps_triple ?_
  apply addrDo_keeps
  assumption
  refine keeps_triple ?_
  assumption
  refine keeps_pair ?_
  refine keeps_foldl3 ?_ ?_
  intro _
  intro _
  intro _
  refine keeps_ite3 ?_ ?_
  assumption
  refine keeps_triple ?_
  apply addrDo_keeps
  assumption
  refine keeps_triple ?_
  assumption
  refine keeps_ite2 ?_ ?_
  refine keeps_pair ?_
  assumption
  refine keeps_ite2 ?_ ?_
  refine keeps_pair ?_
  refine keeps_mk ?_
  assumption
  dsimp only
  refine keeps_ite2 ?_ ?_
  refine keeps_pair ?_
  apply companionRead_keeps
  assumption
  refine keeps_pair ?_
  apply fetchLines_keeps
  assumption
  refine keeps_pair ?_
  assumption
  refine keeps_pair ?_
  assumption
theorem devRead_pair {src : Source} {unit a n : Nat} {s : State} {s₀ : State} {a₀} {t₀ : State} (e₀ : devRead src unit a n s = (a₀, t₀)) (h₀ : Keeps s₀ s) : Keeps s₀ t₀ := by
  have k := @devRead_keeps src unit a n s s₀ h₀
  rw [e₀] at k; exact k

theorem devWrite_keeps {src : Source} {unit a : Nat} {l : List Byte} {s : State} {s₀ : State} (h₀ : Keeps s₀ s) : Keeps s₀ (devWrite src unit a l s).2 := by
  unfold devWrite
  split
  refine keeps_ite2 ?_ ?_
  refine keeps_pair ?_
  assumption
  dsimp only
  refine keeps_ite2 ?_ ?_
  refine keeps_pair ?_
  apply snoopFor_keeps
  assumption
  split
  refine keeps_pair ?_
  refine hbmWrite_pair (by assumption) ?_
  assumption
  refine keeps_pair ?_
  refine hbmWrite_pair (by assumption) ?_
  assumption
  split
  refine keeps_pair ?_
  assumption
  dsimp only
  refine keeps_ite2 ?_ ?_
  refine keeps_pair ?_
  assumption
  refine keeps_pair ?_
  apply bufWrite_keeps
  assumption
  dsimp only
  refine keeps_ite2 ?_ ?_
  refine keeps_pair ?_
  refine keeps_foldl2 ?_ ?_
  intro _
  intro _
  intro _
  refine keeps_ite2 ?_ ?_
  assumption
  refine keeps_pair ?_
  apply addrDo_keeps
  assumption
  refine keeps_pair ?_
  assumption
  refine keeps_pair ?_
  refine keeps_foldl2 ?_ ?_
  intro _
  intro _
  intro _
  refine keeps_ite2 ?_ ?_
  assumption
  refine keeps_pair ?_
  apply addrDo_keeps
  assumption
  refine keeps_pair ?_
  assumption
  refine keeps_ite2 ?_ ?_
  refine keeps_pair ?_
  assumption
  refine keeps_ite2 ?_ ?_
  refine keeps_pair ?_
  refine keeps_mk ?_
  assumption
  dsimp only
  refine keeps_ite2 ?_ ?_
  refine keeps_pair ?_
  apply companionWrite_keeps
  assumption
  refine keeps_pair ?_
  apply fetchLines_keeps
  assumption
  refine keeps_pair ?_
  assumption
  refine keeps_pair ?_
  assumption
theorem devWrite_pair {src : Source} {unit a : Nat} {l : List Byte} {s : State} {s₀ : State} {a₀} {t₀ : State} (e₀ : devWrite src unit a l s = (a₀, t₀)) (h₀ : Keeps s₀ s) : Keeps s₀ t₀ := by
  have k := @devWrite_keeps src unit a l s s₀ h₀
  rw [e₀] at k; exact k

theorem fwWrite_keeps {a : Nat} {l : List Byte} {s : State} {s₀ : State} (h₀ : Keeps s₀ s) : Keeps s₀ (fwWrite a l s) := by
  unfold fwWrite
  apply devWrite_keeps
  assumption

end Sys2Proof.Machine
end

