-- ==== Sys2Proof/Laws/KeepDma.lean ====
section
/-! SUPPORT. One lemma for each definition of Machine/Dma.lean that answers a state: it keeps the queue and the canonical form. -/
namespace Sys2Proof.Machine

theorem setQueue_keeps {p c : Nat} {q : List DmaDesc} {s : State} {s₀ : State} (h₀ : Keeps s₀ s) : Keeps s₀ (setQueue p c q s) := by
  unfold setQueue
  dsimp only
  apply setFlds_keeps
  apply modCluster_keeps
  assumption

theorem modDesc_keeps {p c num : Nat} {f : DmaDesc → DmaDesc} {s : State} {s₀ : State} (h₀ : Keeps s₀ s) : Keeps s₀ (modDesc p c num f s) := by
  unfold modDesc
  apply setQueue_keeps
  assumption

theorem ctxClear_keeps {p c : Nat} {s : State} {s₀ : State} (h₀ : Keeps s₀ s) : Keeps s₀ (ctxClear p c s) := by
  unfold ctxClear
  refine keeps_ite ?_ ?_
  apply setFld_keeps
  assumption
  assumption

theorem endSubmits_keeps {p : Nat} {s : State} {s₀ : State} (h₀ : Keeps s₀ s) : Keeps s₀ (endSubmits p s) := by
  unfold endSubmits
  dsimp only
  refine keeps_foldl ?_ ?_
  intro _
  intro _
  intro _
  refine keeps_ite ?_ ?_
  apply cmdFail_keeps
  assumption
  refine keeps_ite ?_ ?_
  apply cmdFail_keeps
  assumption
  apply complete_keeps
  assumption
  apply modCluster_keeps
  assumption

theorem subDone_keeps {p ord cause : Nat} {discarded : Bool} {s : State} {s₀ : State} (h₀ : Keeps s₀ s) : Keeps s₀ (subDone p ord cause discarded s) := by
  unfold subDone
  apply modCluster_keeps
  assumption

theorem execDmaSubmit_keeps {p st b : Nat} {s : State} {s₀ : State} (h₀ : Keeps s₀ s) : KeepsO s₀ (execDmaSubmit p st b s) := by
  unfold execDmaSubmit
  refine keepsO_onUnits ?_ ?_
  intro _
  intro _
  apply launch_keeps
  intro _
  intro _
  intro _
  dsimp only
  refine keeps_ite ?_ ?_
  apply cmdFail_keeps
  assumption
  refine keeps_ite ?_ ?_
  apply cmdFail_keeps
  assumption
  refine keeps_ite ?_ ?_
  apply cmdFail_keeps
  assumption
  refine keeps_ite ?_ ?_
  apply cmdFail_keeps
  apply eccRead_keeps
  assumption
  apply setQueue_keeps
  apply modCluster_keeps
  assumption
  apply advanceTo_keeps
  assumption
  assumption

theorem xRead_keeps {p unit a n : Nat} {s : State} {s₀ : State} (h₀ : Keeps s₀ s) : Keeps s₀ (xRead p unit a n s).2 := by
  unfold xRead
  split
  refine keeps_ite2 ?_ ?_
  refine keeps_pair ?_
  assumption
  refine keeps_ite2 ?_ ?_
  refine keeps_pair ?_
  assumption
  refine keeps_ite2 ?_ ?_
  refine keeps_pair ?_
  apply eccRead_keeps
  assumption
  refine keeps_pair ?_
  assumption
  apply devRead_keeps
  assumption
theorem xRead_pair {p unit a n : Nat} {s : State} {s₀ : State} {a₀} {t₀ : State} (e₀ : xRead p unit a n s = (a₀, t₀)) (h₀ : Keeps s₀ s) : Keeps s₀ t₀ := by
  have k := @xRead_keeps p unit a n s s₀ h₀
  rw [e₀] at k; exact k

theorem xWrite_keeps {p unit a : Nat} {l : List Byte} {s : State} {s₀ : State} (h₀ : Keeps s₀ s) : Keeps s₀ (xWrite p unit a l s).2 := by
  unfold xWrite
  split
  refine keeps_ite2 ?_ ?_
  refine keeps_pair ?_
  assumption
  refine keeps_ite2 ?_ ?_
  refine keeps_pair ?_
  assumption
  refine keeps_ite2 ?_ ?_
  refine keeps_pair ?_
  assumption
  refine keeps_pair ?_
  apply spmStore_keeps
  assumption
  apply devWrite_keeps
  assumption
theorem xWrite_pair {p unit a : Nat} {l : List Byte} {s : State} {s₀ : State} {a₀} {t₀ : State} (e₀ : xWrite p unit a l s = (a₀, t₀)) (h₀ : Keeps s₀ s) : Keeps s₀ t₀ := by
  have k := @xWrite_keeps p unit a l s s₀ h₀
  rw [e₀] at k; exact k

theorem xWindow_keeps {p c : Nat} {d : DmaDesc} {w : Nat} {l : List Byte} {s : State} {s₀ : State} (h₀ : Keeps s₀ s) : Keeps s₀ (xWindow p c d w l s).2.2 := by
  unfold xWindow
  dsimp only
  refine keeps_ite3 ?_ ?_
  refine keeps_ite3 ?_ ?_
  refine keeps_triple ?_
  assumption
  refine keeps_ite3 ?_ ?_
  refine keeps_triple ?_
  assumption
  refine keeps_triple ?_
  apply fabSend_keeps
  assumption
  refine keeps_triple ?_
  apply windowDo_keeps
  assumption
theorem xWindow_pair {p c : Nat} {d : DmaDesc} {w : Nat} {l : List Byte} {s : State} {s₀ : State} {a₀ b₀} {t₀ : State} (e₀ : xWindow p c d w l s = (a₀, b₀, t₀)) (h₀ : Keeps s₀ s) : Keeps s₀ t₀ := by
  have k := @xWindow_keeps p c d w l s s₀ h₀
  rw [e₀] at k; exact k

theorem xOne_keeps {p c : Nat} {d : DmaDesc} {e : Nat × Nat × Nat} {s : State} {s₀ : State} (h₀ : Keeps s₀ s) : Keeps s₀ (xOne p c d e s).2.2 := by
  unfold xOne
  dsimp only
  split
  refine keeps_triple ?_
  refine xRead_pair (by assumption) ?_
  assumption
  refine keeps_triple ?_
  refine xRead_pair (by assumption) ?_
  assumption
  split
  refine keeps_triple ?_
  apply countCl_keeps
  refine keeps_ite3 ?_ ?_
  apply xWindow_keeps
  apply countCl_keeps
  refine xRead_pair (by assumption) ?_
  assumption
  refine keeps_triple ?_
  apply xWrite_keeps
  apply countCl_keeps
  refine xRead_pair (by assumption) ?_
  assumption
  refine keeps_triple ?_
  refine keeps_ite3 ?_ ?_
  apply xWindow_keeps
  apply countCl_keeps
  refine xRead_pair (by assumption) ?_
  assumption
  refine keeps_triple ?_
  apply xWrite_keeps
  apply countCl_keeps
  refine xRead_pair (by assumption) ?_
  assumption
  refine keeps_triple ?_
  apply countCl_keeps
  refine keeps_ite3 ?_ ?_
  apply xWindow_keeps
  apply countCl_keeps
  refine xRead_pair (by assumption) ?_
  assumption
  refine keeps_triple ?_
  apply xWrite_keeps
  apply countCl_keeps
  refine xRead_pair (by assumption) ?_
  assumption
theorem xOne_pair {p c : Nat} {d : DmaDesc} {e : Nat × Nat × Nat} {s : State} {s₀ : State} {a₀ b₀} {t₀ : State} (e₀ : xOne p c d e s = (a₀, b₀, t₀)) (h₀ : Keeps s₀ s) : Keeps s₀ t₀ := by
  have k := @xOne_keeps p c d e s s₀ h₀
  rw [e₀] at k; exact k

theorem xMove_keeps {p c : Nat} {l : List (Nat × Nat × Nat)} {d : DmaDesc} {s s₀ : State} (h₀ : Keeps s₀ s) : Keeps s₀ (xMove p c l d s).2 := by
  induction l generalizing d s with
  | nil => exact h₀
  | cons a t ih =>
    have h2 := @xOne_keeps p c d a s s₀ h₀
    unfold xMove
    split
    · rename_i e
      rw [e] at h2
      exact ih h2
    · rename_i e
      rw [e] at h2
      exact h2
    · rename_i e
      rw [e] at h2
      exact h2
theorem xMove_pair {p c : Nat} {l : List (Nat × Nat × Nat)} {d : DmaDesc} {s s₀ : State} {a₀} {t₀ : State} (e₀ : xMove p c l d s = (a₀, t₀)) (h₀ : Keeps s₀ s) : Keeps s₀ t₀ := by
  have k := @xMove_keeps p c l d s s₀ h₀
  rw [e₀] at k; exact k

theorem xRunOn_keeps {p c : Nat} {d : DmaDesc} {s : State} {s₀ : State} (h₀ : Keeps s₀ s) : Keeps s₀ (xRunOn p c d s) := by
  unfold xRunOn
  split
  apply modDesc_keeps
  refine xMove_pair (by assumption) ?_
  assumption

theorem execDmaDescStart_keeps {p c i : Nat} {s : State} {s₀ : State} (h₀ : Keeps s₀ s) : KeepsO s₀ (execDmaDescStart p c i s) := by
  unfold execDmaDescStart
  refine keepsO_onUnits ?_ ?_
  intro _
  intro _
  dsimp only
  split
  assumption
  refine keeps_ite ?_ ?_
  assumption
  refine keeps_ite ?_ ?_
  apply xRunOn_keeps
  assumption
  refine keeps_ite ?_ ?_
  assumption
  refine keeps_ite ?_ ?_
  apply modDesc_keeps
  assumption
  apply xRunOn_keeps
  apply modDesc_keeps
  refine keeps_ite ?_ ?_
  apply eccRead_keeps
  assumption
  assumption
  assumption

theorem dropDesc_keeps {p c num : Nat} {s : State} {s₀ : State} (h₀ : Keeps s₀ s) : Keeps s₀ (dropDesc p c num s) := by
  unfold dropDesc
  apply setQueue_keeps
  assumption

theorem execDmaDescComplete_keeps {p c i : Nat} {s : State} {s₀ : State} (h₀ : Keeps s₀ s) : KeepsO s₀ (execDmaDescComplete p c i s) := by
  unfold execDmaDescComplete
  refine keepsO_onUnits ?_ ?_
  intro _
  intro _
  split
  assumption
  dsimp only
  refine keeps_ite ?_ ?_
  assumption
  refine keeps_ite ?_ ?_
  apply modDesc_keeps
  refine keeps_mk ?_
  assumption
  apply endSubmits_keeps
  apply subDone_keeps
  apply dropDesc_keeps
  assumption
  assumption

theorem execDmaDescFail_keeps {p c i : Nat} {s : State} {s₀ : State} (h₀ : Keeps s₀ s) : KeepsO s₀ (execDmaDescFail p c i s) := by
  unfold execDmaDescFail
  refine keepsO_onUnits ?_ ?_
  intro _
  intro _
  split
  assumption
  refine keeps_ite ?_ ?_
  assumption
  dsimp only
  apply endSubmits_keeps
  refine keeps_ite ?_ ?_
  apply setFlds_keeps
  refine keeps_foldl ?_ ?_
  intro _
  intro _
  intro _
  apply subDone_keeps
  apply dropDesc_keeps
  assumption
  apply subDone_keeps
  apply dropDesc_keeps
  assumption
  refine keeps_foldl ?_ ?_
  intro _
  intro _
  intro _
  apply subDone_keeps
  apply dropDesc_keeps
  assumption
  apply subDone_keeps
  apply dropDesc_keeps
  assumption
  assumption

theorem dmaAcked_keeps {p c num n status : Nat} {s : State} {s₀ : State} (h₀ : Keeps s₀ s) : Keeps s₀ (dmaAcked p c num n status s) := by
  unfold dmaAcked
  apply modDesc_keeps
  assumption

theorem ctxClrWrite_keeps {p v : Nat} {s : State} {s₀ : State} (h₀ : Keeps s₀ s) : Keeps s₀ (ctxClrWrite p v s).2 := by
  unfold ctxClrWrite
  refine keeps_ite2 ?_ ?_
  refine keeps_pair ?_
  assumption
  refine keeps_pair ?_
  refine keeps_foldl ?_ ?_
  intro _
  intro _
  intro _
  apply ctxClear_keeps
  assumption
  assumption
theorem ctxClrWrite_pair {p v : Nat} {s : State} {s₀ : State} {a₀} {t₀ : State} (e₀ : ctxClrWrite p v s = (a₀, t₀)) (h₀ : Keeps s₀ s) : Keeps s₀ t₀ := by
  have k := @ctxClrWrite_keeps p v s s₀ h₀
  rw [e₀] at k; exact k

theorem execStreamStatus_keeps {rid l a0 : Nat} {s : State} {s₀ : State} (h₀ : Keeps s₀ s) : KeepsO s₀ (execStreamStatus rid l a0 s) := by
  unfold execStreamStatus
  refine keepsO_onUnit ?_ ?_
  intro _
  intro _
  dsimp only
  apply service_keeps
  intro _
  intro _
  refine keeps_ite2 ?_ ?_
  refine keeps_pair ?_
  assumption
  refine keeps_pair ?_
  assumption
  assumption
  assumption

theorem execStreamResume_keeps {rid l a0 a1 : Nat} {s : State} {s₀ : State} (h₀ : Keeps s₀ s) : KeepsO s₀ (execStreamResume rid l a0 a1 s) := by
  unfold execStreamResume
  refine keepsO_onUnit ?_ ?_
  intro _
  intro _
  dsimp only
  apply service_keeps
  intro _
  intro _
  refine keeps_ite2 ?_ ?_
  refine keeps_pair ?_
  assumption
  refine keeps_pair ?_
  apply streamResume_keeps
  assumption
  assumption
  assumption

theorem execStreamStop_keeps {rid l a0 : Nat} {s : State} {s₀ : State} (h₀ : Keeps s₀ s) : KeepsO s₀ (execStreamStop rid l a0 s) := by
  unfold execStreamStop
  refine keepsO_onUnit ?_ ?_
  intro _
  intro _
  dsimp only
  apply service_keeps
  intro _
  intro _
  refine keeps_ite2 ?_ ?_
  refine keeps_pair ?_
  assumption
  refine keeps_pair ?_
  apply streamStop_keeps
  assumption
  assumption
  assumption

theorem execCtxClear_keeps {rid l a0 : Nat} {s : State} {s₀ : State} (h₀ : Keeps s₀ s) : KeepsO s₀ (execCtxClear rid l a0 s) := by
  unfold execCtxClear
  refine keepsO_onUnit ?_ ?_
  intro _
  intro _
  dsimp only
  apply service_keeps
  intro _
  intro _
  refine keeps_ite2 ?_ ?_
  refine keeps_pair ?_
  assumption
  refine keeps_pair ?_
  apply ctxClear_keeps
  assumption
  assumption
  assumption

theorem execMbxSemSet_keeps {rid l a0 a1 : Nat} {s : State} {s₀ : State} (h₀ : Keeps s₀ s) : KeepsO s₀ (execMbxSemSet rid l a0 a1 s) := by
  unfold execMbxSemSet
  refine keepsO_onUnit ?_ ?_
  intro _
  intro _
  dsimp only
  apply service_keeps
  intro _
  intro _
  refine keeps_ite2 ?_ ?_
  refine keeps_pair ?_
  assumption
  refine keeps_pair ?_
  apply semSet_keeps
  assumption
  assumption
  assumption

theorem execClErrRead_keeps {rid l : Nat} {s : State} {s₀ : State} (h₀ : Keeps s₀ s) : KeepsO s₀ (execClErrRead rid l s) := by
  unfold execClErrRead
  refine keepsO_onUnit ?_ ?_
  intro _
  intro _
  dsimp only
  apply serviceRead_keeps
  assumption
  assumption

end Sys2Proof.Machine
end

