-- ==== Sys2Proof/Laws/KeepThrottle.lean ====
section
/-! SUPPORT. One lemma for each definition of Machine/Throttle.lean that answers a state: it keeps the queue and the canonical form. -/
namespace Sys2Proof.Machine

theorem updThrottle_keeps {s : State} {s₀ : State} (h₀ : Keeps s₀ s) : Keeps s₀ (updThrottle s) := by
  unfold updThrottle
  dsimp only
  refine keeps_mk ?_
  apply setFlds_keeps
  refine keeps_foldl ?_ ?_
  intro _
  intro _
  intro _
  apply setFlds_keeps
  assumption
  assumption

end Sys2Proof.Machine
end

