-- ==== Sys2Proof/Laws/KeepStack.lean ====
section
/-! SUPPORT. One lemma for each definition of Machine/Stack.lean that answers a state: it keeps the queue and the canonical form. -/
namespace Sys2Proof.Machine

theorem sendRead_keeps {r : LineRead} {status : Nat} {line : List Byte} {s : State} {s₀ : State} (h₀ : Keeps s₀ s) : Keeps s₀ (sendRead r status line s) := by
  unfold sendRead
  refine keeps_foldl ?_ ?_
  intro _
  intro _
  intro _
  apply send_keeps
  assumption
  assumption

theorem finishRead_keeps {r : LineRead} {status : Nat} {line : List Byte} {s : State} {s₀ : State} (h₀ : Keeps s₀ s) : Keeps s₀ (finishRead r status line s) := by
  unfold finishRead
  dsimp only
  refine keeps_mk ?_
  apply sendRead_keeps
  assumption

theorem execHbmRead_keeps {req a size : Nat} {s : State} {s₀ : State} (h₀ : Keeps s₀ s) : KeepsO s₀ (execHbmRead req a size s) := by
  unfold execHbmRead
  refine keepsO_next ?_
  dsimp only
  refine keeps_ite ?_ ?_
  apply answerWith_keeps
  apply send_keeps
  assumption
  split
  refine keeps_ite ?_ ?_
  apply send_keeps
  apply countMsd_keeps
  assumption
  refine keeps_mk ?_
  apply countMsd_keeps
  assumption
  refine keeps_mk ?_
  assumption

theorem execHbmReadData_keeps {a sev : Nat} {s : State} {s₀ : State} (h₀ : Keeps s₀ s) : KeepsO s₀ (execHbmReadData a sev s) := by
  unfold execHbmReadData
  refine keepsO_next ?_
  dsimp only
  split
  assumption
  split
  apply finishRead_keeps
  apply countMsd_keeps
  assumption
  refine keeps_ite ?_ ?_
  assumption
  refine keeps_ite ?_ ?_
  apply finishRead_keeps
  refine keeps_ite ?_ ?_
  refine keeps_mk ?_
  apply countMsd_keeps
  assumption
  apply countMsd_keeps
  assumption
  refine keeps_ite ?_ ?_
  refine keeps_mk ?_
  refine keeps_ite ?_ ?_
  refine keeps_mk ?_
  apply countMsd_keeps
  assumption
  apply countMsd_keeps
  assumption
  apply finishRead_keeps
  apply loseLine_keeps
  refine keeps_ite ?_ ?_
  refine keeps_mk ?_
  apply countMsd_keeps
  assumption
  apply countMsd_keeps
  assumption

theorem execCombineExpire_keeps {a : Nat} {s : State} {s₀ : State} (h₀ : Keeps s₀ s) : KeepsO s₀ (execCombineExpire a s) := by
  unfold execCombineExpire
  refine keepsO_next ?_
  refine keeps_mk ?_
  assumption

theorem execLineReconstruct_keeps {a : Nat} {s : State} {s₀ : State} (h₀ : Keeps s₀ s) : KeepsO s₀ (execLineReconstruct a s) := by
  unfold execLineReconstruct
  refine keepsO_next ?_
  dsimp only
  split
  assumption
  split
  apply finishRead_keeps
  assumption
  refine keeps_ite ?_ ?_
  assumption
  split
  apply finishRead_keeps
  refine readLine_pair (by assumption) ?_
  assumption
  apply finishRead_keeps
  refine readLine_pair (by assumption) ?_
  assumption

theorem execHbmWrite_keeps {req a : Nat} {data : List Byte} {s : State} {s₀ : State} (h₀ : Keeps s₀ s) : KeepsO s₀ (execHbmWrite req a data s) := by
  unfold execHbmWrite
  refine keepsO_next ?_
  dsimp only
  refine keeps_ite ?_ ?_
  apply answerWith_keeps
  apply send_keeps
  assumption
  refine keeps_ite ?_ ?_
  apply answerWith_keeps
  apply send_keeps
  apply hbmWriteLine_keeps
  assumption
  refine keeps_mk ?_
  apply closeReads_keeps
  apply countMsd_keeps
  assumption

theorem execParityDelta_keeps {a : Nat} {s : State} {s₀ : State} (h₀ : Keeps s₀ s) : KeepsO s₀ (execParityDelta a s) := by
  unfold execParityDelta
  refine keepsO_next ?_
  split
  assumption
  dsimp only
  apply applyDelta_keeps
  refine keeps_mk ?_
  assumption

theorem execParityAck_keeps {a : Nat} {s : State} {s₀ : State} (h₀ : Keeps s₀ s) : KeepsO s₀ (execParityAck a s) := by
  unfold execParityAck
  refine keepsO_next ?_
  split
  assumption
  refine keeps_ite ?_ ?_
  apply finishWrite_keeps
  refine keeps_mk ?_
  assumption
  assumption

theorem execRefresh_keeps {n pc : Nat} {s : State} {s₀ : State} (h₀ : Keeps s₀ s) : KeepsO s₀ (execRefresh n pc s) := by
  unfold execRefresh
  refine keepsO_onUnits ?_ ?_
  intro _
  intro _
  refine keeps_whenS ?_ ?_
  intro _
  intro _
  dsimp only
  apply countMsd_keeps
  refine keeps_mk ?_
  assumption
  assumption
  assumption

theorem execDramTempRead_keeps {n t : Nat} {s : State} {s₀ : State} (h₀ : Keeps s₀ s) : KeepsO s₀ (execDramTempRead n t s) := by
  unfold execDramTempRead
  refine keepsO_onUnit ?_ ?_
  intro _
  intro _
  dsimp only
  apply updThrottle_keeps
  refine keeps_mk ?_
  refine keeps_ite ?_ ?_
  apply setFld_keeps
  apply setFld_keeps
  assumption
  refine keeps_ite ?_ ?_
  apply setFld_keeps
  apply setFld_keeps
  assumption
  apply setFld_keeps
  assumption
  assumption

theorem abandonMsd_keeps {n : Nat} {s : State} {s₀ : State} (h₀ : Keeps s₀ s) : Keeps s₀ (abandonMsd n s) := by
  unfold abandonMsd
  dsimp only
  refine keeps_mk ?_
  refine keeps_foldl ?_ ?_
  intro _
  intro _
  intro _
  apply sendRead_keeps
  assumption
  refine keeps_foldl ?_ ?_
  intro _
  intro _
  intro _
  apply send_keeps
  refine keeps_ite ?_ ?_
  apply applyDelta_keeps
  assumption
  assumption
  refine keeps_mk ?_
  assumption

theorem failMsd_keeps {n : Nat} {s : State} {s₀ : State} (h₀ : Keeps s₀ s) : Keeps s₀ (failMsd n s) := by
  unfold failMsd
  refine keeps_ite ?_ ?_
  assumption
  dsimp only
  refine keeps_ite ?_ ?_
  apply addRecord_keeps
  apply setFld_keeps
  apply addRecord_keeps
  apply updStatus_keeps
  apply setFld_keeps
  apply abandonMsd_keeps
  assumption
  apply addRecord_keeps
  apply updStatus_keeps
  apply setFld_keeps
  apply abandonMsd_keeps
  assumption

theorem execMsdFail_keeps {n why : Nat} {s : State} {s₀ : State} (h₀ : Keeps s₀ s) : KeepsO s₀ (execMsdFail n why s) := by
  unfold execMsdFail
  refine keepsO_onUnit ?_ ?_
  intro _
  intro _
  refine keeps_whenS ?_ ?_
  intro _
  intro _
  apply failMsd_keeps
  assumption
  assumption
  assumption

theorem installProxy_keeps {n : Nat} {s : State} {s₀ : State} (h₀ : Keeps s₀ s) : Keeps s₀ (installProxy n s) := by
  unfold installProxy
  dsimp only
  apply setFlds_keeps
  refine keeps_buf ?_ (memZero_wf _ _ _)
  assumption

theorem leaveProxy_keeps {n : Nat} {s : State} {s₀ : State} (h₀ : Keeps s₀ s) : Keeps s₀ (leaveProxy n s) := by
  unfold leaveProxy
  apply setFlds_keeps
  refine keeps_mk ?_
  assumption

theorem execProxyInstall_keeps {n b : Nat} {s : State} {s₀ : State} (h₀ : Keeps s₀ s) : KeepsO s₀ (execProxyInstall n b s) := by
  unfold execProxyInstall
  refine keepsO_onUnit ?_ ?_
  intro _
  intro _
  dsimp only
  refine keeps_whenS ?_ ?_
  intro _
  intro _
  apply installProxy_keeps
  refine keeps_ite ?_ ?_
  apply updStatus_keeps
  apply setFld_keeps
  apply abandonMsd_keeps
  assumption
  assumption
  apply advanceTo_keeps
  assumption
  assumption

theorem rebuildUnit_keeps {n u : Nat} {s : State} {s₀ : State} (h₀ : Keeps s₀ s) : Keeps s₀ (rebuildUnit n u s) := by
  unfold rebuildUnit
  refine keeps_foldl ?_ ?_
  intro _
  intro _
  intro _
  dsimp only
  split
  apply putLine_keeps
  assumption
  assumption
  assumption

theorem execRebuildComplete_keeps {n b : Nat} {s : State} {s₀ : State} (h₀ : Keeps s₀ s) : KeepsO s₀ (execRebuildComplete n b s) := by
  unfold execRebuildComplete
  refine keepsO_onUnit ?_ ?_
  intro _
  intro _
  dsimp only
  refine keeps_whenS ?_ ?_
  intro _
  intro _
  apply updStatus_keeps
  apply leaveProxy_keeps
  apply setFlds_keeps
  refine keeps_foldl ?_ ?_
  intro _
  intro _
  intro _
  apply rebuildUnit_keeps
  assumption
  assumption
  apply advanceTo_keeps
  assumption
  assumption

theorem execPatrolScrub_keeps {n o sev : Nat} {s : State} {s₀ : State} (h₀ : Keeps s₀ s) : KeepsO s₀ (execPatrolScrub n o sev s) := by
  unfold execPatrolScrub
  refine keepsO_onUnit ?_ ?_
  intro _
  intro _
  refine keeps_whenS ?_ ?_
  intro _
  intro _
  dsimp only
  split
  refine keeps_ite ?_ ?_
  apply readLine_keeps
  refine keeps_ite ?_ ?_
  refine keeps_mk ?_
  assumption
  assumption
  apply countMsd_keeps
  refine keeps_ite ?_ ?_
  refine keeps_mk ?_
  assumption
  assumption
  refine keeps_ite ?_ ?_
  refine keeps_ite ?_ ?_
  apply readLine_keeps
  refine keeps_ite ?_ ?_
  refine keeps_mk ?_
  assumption
  assumption
  apply countMsd_keeps
  refine keeps_ite ?_ ?_
  refine keeps_mk ?_
  assumption
  assumption
  apply addRecord_keeps
  apply putLine_keeps
  refine keeps_ite ?_ ?_
  apply readLine_keeps
  refine keeps_ite ?_ ?_
  refine keeps_mk ?_
  assumption
  assumption
  apply countMsd_keeps
  refine keeps_ite ?_ ?_
  refine keeps_mk ?_
  assumption
  assumption
  assumption
  assumption

theorem execMsdBufferAccess_keeps {src : Source} {req n o size : Nat} {write : Bool} {data : List Byte} {s : State} {s₀ : State} (h₀ : Keeps s₀ s) : KeepsO s₀ (execMsdBufferAccess src req n o size write data s) := by
  unfold execMsdBufferAccess
  refine keepsO_onUnit ?_ ?_
  intro _
  intro _
  dsimp only
  refine keeps_ite ?_ ?_
  apply answerWith_keeps
  apply send_keeps
  assumption
  refine keeps_ite ?_ ?_
  apply answerWith_keeps
  apply send_keeps
  assumption
  split
  apply answerWith_keeps
  apply send_keeps
  assumption
  refine keeps_ite ?_ ?_
  refine keeps_ite ?_ ?_
  apply answerWith_keeps
  apply send_keeps
  assumption
  apply answerWith_keeps
  apply send_keeps
  apply bufWrite_keeps
  assumption
  apply answerWith_keeps
  apply send_keeps
  assumption
  assumption

theorem execMsdStatus_keeps {rid n : Nat} {s : State} {s₀ : State} (h₀ : Keeps s₀ s) : KeepsO s₀ (execMsdStatus rid n s) := by
  unfold execMsdStatus
  refine keepsO_onUnit ?_ ?_
  intro _
  intro _
  apply serviceRead_keeps
  assumption
  assumption

theorem execOffline_keeps {rid n : Nat} {s : State} {s₀ : State} (h₀ : Keeps s₀ s) : KeepsO s₀ (execOffline rid n s) := by
  unfold execOffline
  refine keepsO_onUnit ?_ ?_
  intro _
  intro _
  apply service_keeps
  intro _
  intro _
  refine keeps_ite2 ?_ ?_
  refine keeps_pair ?_
  assumption
  refine keeps_ite2 ?_ ?_
  refine keeps_pair ?_
  assumption
  refine keeps_pair ?_
  assumption
  assumption
  assumption

theorem execOnline_keeps {rid n : Nat} {s : State} {s₀ : State} (h₀ : Keeps s₀ s) : KeepsO s₀ (execOnline rid n s) := by
  unfold execOnline
  refine keepsO_onUnit ?_ ?_
  intro _
  intro _
  apply service_keeps
  intro _
  intro _
  refine keeps_ite2 ?_ ?_
  refine keeps_pair ?_
  assumption
  refine keeps_pair ?_
  apply setFld_keeps
  assumption
  assumption
  assumption

theorem execQueueClear_keeps {rid n q : Nat} {s : State} {s₀ : State} (h₀ : Keeps s₀ s) : KeepsO s₀ (execQueueClear rid n q s) := by
  unfold execQueueClear
  refine keepsO_onUnit ?_ ?_
  intro _
  intro _
  apply service_keeps
  intro _
  intro _
  refine keeps_ite2 ?_ ?_
  refine keeps_pair ?_
  assumption
  dsimp only
  refine keeps_ite2 ?_ ?_
  refine keeps_pair ?_
  assumption
  refine keeps_pair ?_
  apply setFlds_keeps
  assumption
  assumption
  assumption

theorem execParityMode_keeps {rid n on : Nat} {s : State} {s₀ : State} (h₀ : Keeps s₀ s) : KeepsO s₀ (execParityMode rid n on s) := by
  unfold execParityMode
  refine keepsO_onUnit ?_ ?_
  intro _
  intro _
  apply service_keeps
  intro _
  intro _
  refine keeps_ite2 ?_ ?_
  refine keeps_pair ?_
  assumption
  refine keeps_ite2 ?_ ?_
  refine keeps_pair ?_
  assumption
  refine keeps_ite2 ?_ ?_
  refine keeps_pair ?_
  assumption
  refine keeps_pair ?_
  refine keeps_mk ?_
  assumption
  assumption
  assumption

theorem execMsdErrRead_keeps {rid n : Nat} {s : State} {s₀ : State} (h₀ : Keeps s₀ s) : KeepsO s₀ (execMsdErrRead rid n s) := by
  unfold execMsdErrRead
  refine keepsO_onUnit ?_ ?_
  intro _
  intro _
  apply serviceRead_keeps
  assumption
  assumption

theorem slotCtlWrite_keeps {n v : Nat} {s : State} {s₀ : State} (h₀ : Keeps s₀ s) : Keeps s₀ (slotCtlWrite n v s).2 := by
  unfold slotCtlWrite
  dsimp only
  apply setFlds_keeps
  assumption
theorem slotCtlWrite_pair {n v : Nat} {s : State} {s₀ : State} {a₀} {t₀ : State} (e₀ : slotCtlWrite n v s = (a₀, t₀)) (h₀ : Keeps s₀ s) : Keeps s₀ t₀ := by
  have k := @slotCtlWrite_keeps n v s s₀ h₀
  rw [e₀] at k; exact k

theorem execSlotTableSwitch_keeps {n : Nat} {s : State} {s₀ : State} (h₀ : Keeps s₀ s) : KeepsO s₀ (execSlotTableSwitch n s) := by
  unfold execSlotTableSwitch
  refine keepsO_onUnit ?_ ?_
  intro _
  intro _
  refine keeps_whenS ?_ ?_
  intro _
  intro _
  dsimp only
  apply setFld_keeps
  refine keeps_foldl ?_ ?_
  intro _
  intro _
  intro _
  refine keeps_mk ?_
  assumption
  assumption
  assumption
  assumption

end Sys2Proof.Machine
end

