-- ==== Sys2Proof/Laws/KeepEngine.lean ====
section
/-! SUPPORT. One lemma for each definition of Machine/Engine.lean that answers a state: it keeps the queue and the canonical form. -/
namespace Sys2Proof.Machine

theorem seRead_keeps {n q : Nat} {win : Bool} {a k : Nat} {s : State} {s₀ : State} (h₀ : Keeps s₀ s) : Keeps s₀ (seRead n q win a k s).2 := by
  unfold seRead
  refine keeps_ite2 ?_ ?_
  dsimp only
  refine keeps_ite2 ?_ ?_
  refine keeps_pair ?_
  refine keeps_foldl3 ?_ ?_
  intro _
  intro _
  intro _
  refine keeps_ite3 ?_ ?_
  assumption
  refine keeps_triple ?_
  apply windowDo_keeps
  assumption
  refine keeps_triple ?_
  assumption
  refine keeps_pair ?_
  refine keeps_foldl3 ?_ ?_
  intro _
  intro _
  intro _
  refine keeps_ite3 ?_ ?_
  assumption
  refine keeps_triple ?_
  apply windowDo_keeps
  assumption
  refine keeps_triple ?_
  assumption
  dsimp only
  split
  refine keeps_pair ?_
  refine devRead_pair (by assumption) ?_
  assumption
  apply devRead_keeps
  assumption
theorem seRead_pair {n q : Nat} {win : Bool} {a k : Nat} {s : State} {s₀ : State} {a₀} {t₀ : State} (e₀ : seRead n q win a k s = (a₀, t₀)) (h₀ : Keeps s₀ s) : Keeps s₀ t₀ := by
  have k := @seRead_keeps n q win a k s s₀ h₀
  rw [e₀] at k; exact k

theorem seWrite_keeps {n q : Nat} {win : Bool} {a off : Nat} {l : List Byte} {s : State} {s₀ : State} (h₀ : Keeps s₀ s) : Keeps s₀ (seWrite n q win a off l s).2 := by
  unfold seWrite
  refine keeps_ite2 ?_ ?_
  dsimp only
  refine keeps_ite2 ?_ ?_
  refine keeps_pair ?_
  refine keeps_foldl2 ?_ ?_
  intro _
  intro _
  intro _
  refine keeps_ite2 ?_ ?_
  assumption
  refine keeps_pair ?_
  apply windowDo_keeps
  assumption
  refine keeps_pair ?_
  assumption
  refine keeps_pair ?_
  refine keeps_foldl2 ?_ ?_
  intro _
  intro _
  intro _
  refine keeps_ite2 ?_ ?_
  assumption
  refine keeps_pair ?_
  apply windowDo_keeps
  assumption
  refine keeps_pair ?_
  assumption
  dsimp only
  split
  refine keeps_pair ?_
  refine devWrite_pair (by assumption) ?_
  assumption
  apply devWrite_keeps
  assumption
theorem seWrite_pair {n q : Nat} {win : Bool} {a off : Nat} {l : List Byte} {s : State} {s₀ : State} {a₀} {t₀ : State} (e₀ : seWrite n q win a off l s = (a₀, t₀)) (h₀ : Keeps s₀ s) : Keeps s₀ t₀ := by
  have k := @seWrite_keeps n q win a off l s s₀ h₀
  rw [e₀] at k; exact k

theorem devThen_keeps {r : DevOut × State} {f : List Byte → State → DevOut × State} {s₀ : State}
    (hf : ∀ l s, Keeps s₀ s → Keeps s₀ (f l s).2) (h₀ : Keeps s₀ r.2) : Keeps s₀ (devThen r f).2 := by
  unfold devThen
  split
  · exact hf _ _ h₀
  · exact h₀

theorem setEng_keeps {n q : Nat} {e : EngCmd} {s : State} {s₀ : State} (h₀ : Keeps s₀ s) : Keeps s₀ (setEng n q e s) := by
  unfold setEng
  refine keeps_mk ?_
  assumption

theorem engNext_keeps {n q : Nat} {s : State} {s₀ : State} (h₀ : Keeps s₀ s) : Keeps s₀ (engNext n q s) := by
  unfold engNext
  dsimp only
  apply doorbell_keeps
  apply setFld_keeps
  refine keeps_mk ?_
  assumption

theorem doneSignal_keeps {target add : Nat} {s : State} {s₀ : State} (h₀ : Keeps s₀ s) : Keeps s₀ (doneSignal target add s).2 := by
  unfold doneSignal
  dsimp only
  refine keeps_ite2 ?_ ?_
  refine keeps_pair ?_
  assumption
  refine keeps_ite2 ?_ ?_
  refine keeps_pair ?_
  apply send_keeps
  assumption
  apply signalApply_keeps
  assumption
theorem doneSignal_pair {target add : Nat} {s : State} {s₀ : State} {a₀} {t₀ : State} (e₀ : doneSignal target add s = (a₀, t₀)) (h₀ : Keeps s₀ s) : Keeps s₀ t₀ := by
  have k := @doneSignal_keeps target add s s₀ h₀
  rw [e₀] at k; exact k

theorem seFail_keeps {n q : Nat} {c : List Byte} {cause : Nat} {s : State} {s₀ : State} (h₀ : Keeps s₀ s) : Keeps s₀ (seFail n q c cause s) := by
  unfold seFail
  dsimp only
  refine keeps_ite ?_ ?_
  refine keeps_ite ?_ ?_
  apply engNext_keeps
  apply addRecord_keeps
  apply traceRec_keeps
  apply raiseMsd_keeps
  apply setFlds_keeps
  assumption
  apply doneSignal_keeps
  apply engNext_keeps
  apply addRecord_keeps
  apply traceRec_keeps
  apply raiseMsd_keeps
  apply setFlds_keeps
  assumption
  apply setFlds_keeps
  apply engNext_keeps
  apply addRecord_keeps
  apply traceRec_keeps
  apply raiseMsd_keeps
  apply setFlds_keeps
  assumption

theorem execEngineDoorbell_keeps {src : Source} {n q idx : Nat} {s : State} {s₀ : State} (h₀ : Keeps s₀ s) : KeepsO s₀ (execEngineDoorbell src n q idx s) := by
  unfold execEngineDoorbell
  refine keepsO_onUnits ?_ ?_
  intro _
  intro _
  dsimp only
  split
  apply answerWith_keeps
  assumption
  refine keeps_ite ?_ ?_
  apply answerWith_keeps
  assumption
  apply answerWith_keeps
  apply bufWrite_keeps
  assumption
  assumption

theorem execSeCommandStart_keeps {n q : Nat} {s : State} {s₀ : State} (h₀ : Keeps s₀ s) : KeepsO s₀ (execSeCommandStart n q s) := by
  unfold execSeCommandStart
  refine keepsO_onUnits ?_ ?_
  intro _
  intro _
  dsimp only
  refine keeps_whenS ?_ ?_
  intro _
  intro _
  refine keeps_ite ?_ ?_
  apply seFail_keeps
  apply setEng_keeps
  refine keeps_ite ?_ ?_
  apply traceRec_keeps
  assumption
  assumption
  apply setEng_keeps
  refine keeps_ite ?_ ?_
  apply traceRec_keeps
  assumption
  assumption
  assumption
  assumption

theorem seWork_keeps {n q op : Nat} {work : List Byte → State → DevOut × State} {s s₀ : State}
    (hf : ∀ l s, Keeps s₀ s → Keeps s₀ (work l s).2) (h₀ : Keeps s₀ s) : Keeps s₀ (seWork n q op work s) := by
  unfold seWork
  split
  · exact h₀
  · rename_i x _
    have h2 := hf x.bytes s h₀
    split
    · exact h₀
    · split
      · rename_i e
        rw [e] at h2
        exact setEng_keeps h2
      · rename_i e
        rw [e] at h2
        exact h2
      · rename_i e
        rw [e] at h2
        exact seFail_keeps h2

theorem execSeNop_keeps {n q : Nat} {s : State} {s₀ : State} (h₀ : Keeps s₀ s) : KeepsO s₀ (execSeNop n q s) := by
  unfold execSeNop
  refine keepsO_onUnits ?_ ?_
  intro _
  intro _
  apply seWork_keeps
  intro _
  intro _
  intro _
  refine keeps_pair ?_
  assumption
  assumption
  assumption

theorem execSeFence_keeps {n q : Nat} {s : State} {s₀ : State} (h₀ : Keeps s₀ s) : KeepsO s₀ (execSeFence n q s) := by
  unfold execSeFence
  refine keepsO_onUnits ?_ ?_
  intro _
  intro _
  apply seWork_keeps
  intro _
  intro _
  intro _
  refine keeps_pair ?_
  assumption
  assumption
  assumption

theorem execSeCommandComplete_keeps {n q : Nat} {s : State} {s₀ : State} (h₀ : Keeps s₀ s) : KeepsO s₀ (execSeCommandComplete n q s) := by
  unfold execSeCommandComplete
  refine keepsO_onUnits ?_ ?_
  intro _
  intro _
  split
  assumption
  dsimp only
  refine keeps_ite ?_ ?_
  assumption
  refine keeps_ite ?_ ?_
  apply seFail_keeps
  refine keeps_mk ?_
  assumption
  refine keeps_ite ?_ ?_
  apply seFail_keeps
  apply doneSignal_keeps
  assumption
  apply engNext_keeps
  refine keeps_ite ?_ ?_
  apply traceRec_keeps
  apply takeFree_keeps
  apply doneSignal_keeps
  assumption
  apply doneSignal_keeps
  assumption
  assumption

theorem freeOrder_keeps {n : Nat} {l : List (Nat × Nat)} {s s₀ : State} (h₀ : Keeps s₀ s) : Keeps s₀ (freeOrder n l s).2 := by
  induction n generalizing l s with
  | zero => exact h₀
  | succ n ih =>
    unfold freeOrder
    split
    · exact h₀
    · exact ih (takeFree_keeps h₀)

theorem readPages_keeps {n q b : Nat} {l : List (Nat × Nat)} {s s₀ : State} (h₀ : Keeps s₀ s) :
    (∀ r t, readPages n q b l s = .ok (r, t) → Keeps s₀ t) ∧ (∀ e, readPages n q b l s = .error e → Keeps s₀ e.2) := by
  induction l generalizing s with
  | nil => exact ⟨fun _ _ e => by cases e; exact h₀, fun _ e => by cases e⟩
  | cons a t ih =>
    have h2 := @seRead_keeps n q false a.2 b s s₀ h₀
    unfold readPages
    split
    · rename_i e
      rw [e] at h2
      have h3 := ih h2
      split
      · rename_i e3
        exact ⟨fun _ _ e => by cases e; exact h3.1 _ _ e3, fun _ e => by cases e⟩
      · rename_i e3
        exact ⟨fun _ _ e => (by cases e), fun _ e => (by cases e; exact h3.2 _ e3)⟩
    · exact ⟨fun _ _ e => (by cases e), fun _ e => (by injection e with e; rw [← e]; exact h2)⟩

theorem attnWork_keeps {n q : Nat} {c : List Byte} {s s₀ : State} (h₀ : Keeps s₀ s) : Keeps s₀ (attnWork n q c s).2 := by
  unfold attnWork
  refine devThen_keeps (fun _ _ h => ?_) (seRead_keeps h₀)
  refine devThen_keeps (fun _ _ h => ?_) (seRead_keeps h)
  split
  · exact h
  · dsimp only
    split
    · rename_i pages _ e3
      refine (readPages_keeps (s₀ := s₀) ?_).2 _ e3
      split
      · exact h
      · exact freeOrder_keeps h
    · rename_i pages _ _ e3
      refine seWrite_keeps (countMsd_keeps ((readPages_keeps (s₀ := s₀) ?_).1 _ _ e3))
      split
      · exact h
      · exact freeOrder_keeps h

theorem execSeAttn_keeps {n q : Nat} {s : State} {s₀ : State} (h₀ : Keeps s₀ s) : KeepsO s₀ (execSeAttn n q s) := by
  unfold execSeAttn
  refine keepsO_onUnits ?_ ?_
  intro _
  intro _
  apply seWork_keeps
  intro _
  intro _
  intro _
  apply attnWork_keeps
  assumption
  assumption
  assumption

theorem gatherRows_keeps {n q : Nat} {c : List Byte} {l : List (Nat × Nat)} {s s₀ : State} (h₀ : Keeps s₀ s) : Keeps s₀ (gatherRows n q c l s).2 := by
  induction l generalizing s with
  | nil => exact h₀
  | cons a t ih =>
    unfold gatherRows
    dsimp only
    split
    · exact h₀
    · refine devThen_keeps (fun _ _ h => ?_) (seRead_keeps h₀)
      exact devThen_keeps (fun _ _ h => ih h) (seWrite_keeps h)
theorem gatherRows_pair {n q : Nat} {c : List Byte} {l : List (Nat × Nat)} {s s₀ : State} {a₀} {t₀ : State} (e₀ : gatherRows n q c l s = (a₀, t₀)) (h₀ : Keeps s₀ s) : Keeps s₀ t₀ := by
  have k := @gatherRows_keeps n q c l s s₀ h₀
  rw [e₀] at k; exact k

theorem execSeGather_keeps {n q : Nat} {s : State} {s₀ : State} (h₀ : Keeps s₀ s) : KeepsO s₀ (execSeGather n q s) := by
  unfold execSeGather
  refine keepsO_onUnits ?_ ?_
  intro _
  intro _
  apply seWork_keeps
  intro _
  intro _
  intro _
  dsimp only
  apply devThen_keeps
  intro _
  intro _
  intro _
  apply gatherRows_keeps
  assumption
  apply seRead_keeps
  assumption
  assumption
  assumption

theorem topkScan_keeps {n q : Nat} {c qv : List Byte} {l : List Nat} {best : List (Nat × Nat)} {s s₀ : State} (h₀ : Keeps s₀ s) :
    (∀ r t, topkScan n q c qv l best s = .ok (r, t) → Keeps s₀ t) ∧ (∀ e, topkScan n q c qv l best s = .error e → Keeps s₀ e.2) := by
  induction l generalizing best s with
  | nil => exact ⟨fun _ _ e => by cases e; exact h₀, fun _ e => by cases e⟩
  | cons a t ih =>
    have h2 := @seRead_keeps n q false (leAt 0x18 8 c + a * tkStride c) (tkBytes c) s s₀ h₀
    unfold topkScan
    dsimp only
    split
    · exact ih h₀
    · split
      · rename_i e
        rw [e] at h2
        exact ih (countMsd_keeps h2)
      · exact ⟨fun _ _ e => (by cases e), fun _ e => (by injection e with e; rw [← e]; exact h2)⟩

theorem execSeTopk_keeps {n q : Nat} {s s₀ : State} (h₀ : Keeps s₀ s) : KeepsO s₀ (execSeTopk n q s) := by
  unfold execSeTopk
  refine keepsO_onUnits (fun _ h => ?_) h₀
  refine seWork_keeps (fun _ _ h => ?_) h
  refine devThen_keeps (fun _ _ h => ?_) (seRead_keeps h)
  split
  · rename_i e
    exact (topkScan_keeps h).2 _ e
  · rename_i e
    exact seWrite_keeps ((topkScan_keeps h).1 _ _ e)

theorem execSeDigest_keeps {n q : Nat} {s : State} {s₀ : State} (h₀ : Keeps s₀ s) : KeepsO s₀ (execSeDigest n q s) := by
  unfold execSeDigest
  refine keepsO_onUnits ?_ ?_
  intro _
  intro _
  apply seWork_keeps
  intro _
  intro _
  intro _
  dsimp only
  apply devThen_keeps
  intro _
  intro _
  intro _
  apply seWrite_keeps
  apply countMsd_keeps
  assumption
  apply seRead_keeps
  assumption
  assumption
  assumption

end Sys2Proof.Machine
end

