-- ==== Sys2Proof/Laws/KeepSerica.lean ====
section
/-! SUPPORT. One lemma for each definition of Machine/Serica.lean that answers a state: it keeps the queue and the canonical form. -/
namespace Sys2Proof.Machine

theorem coherentReq_keeps {port op tag line : Nat} {data : List Byte} {s : State} {s₀ : State} (h₀ : Keeps s₀ s) : Keeps s₀ (coherentReq port op tag line data s) := by
  unfold coherentReq
  refine keeps_ite ?_ ?_
  assumption
  refine keeps_ite ?_ ?_
  apply serErrAnswer_keeps
  assumption
  refine keeps_ite ?_ ?_
  apply serErrAnswer_keeps
  assumption
  refine keeps_ite ?_ ?_
  apply serErrAnswer_keeps
  assumption
  apply homePut_keeps
  assumption

theorem execRdShared_keeps {port tag line : Nat} {s : State} {s₀ : State} (h₀ : Keeps s₀ s) : KeepsO s₀ (execRdShared port tag line s) := by
  unfold execRdShared
  refine keepsO_onUnit ?_ ?_
  intro _
  intro _
  apply coherentReq_keeps
  assumption
  assumption

theorem execRdOwn_keeps {port tag line : Nat} {s : State} {s₀ : State} (h₀ : Keeps s₀ s) : KeepsO s₀ (execRdOwn port tag line s) := by
  unfold execRdOwn
  refine keepsO_onUnit ?_ ?_
  intro _
  intro _
  apply coherentReq_keeps
  assumption
  assumption

theorem execUpgrade_keeps {port tag line : Nat} {s : State} {s₀ : State} (h₀ : Keeps s₀ s) : KeepsO s₀ (execUpgrade port tag line s) := by
  unfold execUpgrade
  refine keepsO_onUnit ?_ ?_
  intro _
  intro _
  apply coherentReq_keeps
  assumption
  assumption

theorem homeSet_keeps {t t' : HomeTx} {s : State} {s₀ : State} (h₀ : Keeps s₀ s) : Keeps s₀ (homeSet t t' s) := by
  unfold homeSet
  refine keeps_mk ?_
  assumption

theorem takeEviction_keeps {t : HomeTx} {agent : Nat} {data : Option (List Byte)} {s : State} {s₀ : State} (h₀ : Keeps s₀ s) : Keeps s₀ (takeEviction t agent data s) := by
  unfold takeEviction
  dsimp only
  apply homeSet_keeps
  apply setFilter_keeps
  split
  apply hbmWrite_keeps
  assumption
  assumption

theorem evictReq_keeps {port op tag line : Nat} {data : List Byte} {s : State} {s₀ : State} (h₀ : Keeps s₀ s) : Keeps s₀ (evictReq port op tag line data s) := by
  unfold evictReq
  dsimp only
  split
  refine keeps_ite ?_ ?_
  apply serErrAnswer_keeps
  assumption
  apply homeRun_keeps
  apply serSend_keeps
  apply takeEviction_keeps
  assumption
  apply coherentReq_keeps
  assumption

theorem execEvictDirty_keeps {port tag line : Nat} {data : List Byte} {s : State} {s₀ : State} (h₀ : Keeps s₀ s) : KeepsO s₀ (execEvictDirty port tag line data s) := by
  unfold execEvictDirty
  refine keepsO_onUnit ?_ ?_
  intro _
  intro _
  refine keeps_whenS ?_ ?_
  intro _
  intro _
  apply evictReq_keeps
  assumption
  assumption
  assumption

theorem execEvictClean_keeps {port tag line : Nat} {s : State} {s₀ : State} (h₀ : Keeps s₀ s) : KeepsO s₀ (execEvictClean port tag line s) := by
  unfold execEvictClean
  refine keepsO_onUnit ?_ ?_
  intro _
  intro _
  refine keeps_whenS ?_ ?_
  intro _
  intro _
  apply evictReq_keeps
  assumption
  assumption
  assumption

theorem snoopLeft_keeps {t : HomeTx} {x state : Nat} {s : State} {s₀ : State} (h₀ : Keeps s₀ s) : Keeps s₀ (snoopLeft t x state s) := by
  unfold snoopLeft
  dsimp only
  apply homeSet_keeps
  apply setFilter_keeps
  assumption

theorem execSnpAck_keeps {port tag line state : Nat} {s : State} {s₀ : State} (h₀ : Keeps s₀ s) : KeepsO s₀ (execSnpAck port tag line state s) := by
  unfold execSnpAck
  refine keepsO_onUnit ?_ ?_
  intro _
  intro _
  dsimp only
  split
  assumption
  refine keeps_ite ?_ ?_
  split
  apply homeRun_keeps
  apply serSend_keeps
  apply takeEviction_keeps
  refine keeps_mk ?_
  apply homeSet_keeps
  assumption
  apply homeSet_keeps
  assumption
  apply homeRun_keeps
  apply snoopLeft_keeps
  assumption
  assumption

theorem execSnpData_keeps {port tag line state : Nat} {data : List Byte} {s : State} {s₀ : State} (h₀ : Keeps s₀ s) : KeepsO s₀ (execSnpData port tag line state data s) := by
  unfold execSnpData
  refine keepsO_onUnit ?_ ?_
  intro _
  intro _
  dsimp only
  split
  assumption
  apply homeRun_keeps
  apply snoopLeft_keeps
  apply hbmWrite_keeps
  assumption
  assumption

theorem execSnoopEvictTimeout_keeps {line : Nat} {s : State} {s₀ : State} (h₀ : Keeps s₀ s) : KeepsO s₀ (execSnoopEvictTimeout line s) := by
  unfold execSnoopEvictTimeout
  refine keepsO_next ?_
  split
  assumption
  dsimp only
  apply homeRun_keeps
  apply homeSet_keeps
  apply setFilter_keeps
  refine keeps_foldl ?_ ?_
  intro _
  intro _
  intro _
  apply serErr_keeps
  assumption
  assumption

theorem execHomeAgentAccess_keeps {src : Source} {tag a size : Nat} {write : Bool} {data : List Byte} {s : State} {s₀ : State} (h₀ : Keeps s₀ s) : KeepsO s₀ (execHomeAgentAccess src tag a size write data s) := by
  unfold execHomeAgentAccess
  refine keepsO_next ?_
  dsimp only
  refine keeps_ite ?_ ?_
  assumption
  refine keeps_ite ?_ ?_
  apply answerWith_keeps
  apply send_keeps
  assumption
  apply homePut_keeps
  assumption

theorem takeReq_keeps {port tag : Nat} {f : SerReq → State → State} {s s₀ : State}
    (hf : ∀ r s, Keeps s₀ s → Keeps s₀ (f r s)) (h₀ : Keeps s₀ s) : Keeps s₀ (takeReq port tag f s) := by
  unfold takeReq
  split
  assumption
  apply serNext_keeps
  apply hf
  apply updOutstanding_keeps
  refine keeps_mk ?_
  assumption

theorem execCmp_keeps {port tag : Nat} {s : State} {s₀ : State} (h₀ : Keeps s₀ s) : KeepsO s₀ (execCmp port tag s) := by
  unfold execCmp
  refine keepsO_onUnit ?_ ?_
  intro _
  intro _
  refine keeps_whenS ?_ ?_
  intro _
  intro _
  apply takeReq_keeps
  intro _
  intro _
  intro _
  assumption
  assumption
  assumption
  assumption

theorem execCmpData_keeps {port tag state : Nat} {data : List Byte} {s : State} {s₀ : State} (h₀ : Keeps s₀ s) : KeepsO s₀ (execCmpData port tag state data s) := by
  unfold execCmpData
  refine keepsO_onUnit ?_ ?_
  intro _
  intro _
  refine keeps_whenS ?_ ?_
  intro _
  intro _
  apply takeReq_keeps
  intro _
  intro _
  intro _
  dsimp only
  refine keeps_ite ?_ ?_
  refine keeps_mk ?_
  assumption
  apply cachePut_keeps
  assumption
  assumption
  assumption
  assumption

theorem reqFailed_keeps {r : SerReq} {s : State} {s₀ : State} (h₀ : Keeps s₀ s) : Keeps s₀ (reqFailed r s) := by
  unfold reqFailed
  refine keeps_mk ?_
  assumption

theorem execErrResponse_keeps {port tag status : Nat} {s : State} {s₀ : State} (h₀ : Keeps s₀ s) : KeepsO s₀ (execErrResponse port tag status s) := by
  unfold execErrResponse
  refine keepsO_onUnit ?_ ?_
  intro _
  intro _
  refine keeps_whenS ?_ ?_
  intro _
  intro _
  apply takeReq_keeps
  intro _
  intro _
  intro _
  apply answerWith_keeps
  apply reqFailed_keeps
  assumption
  assumption
  assumption
  assumption

theorem execSerRequestTimeout_keeps {port tag : Nat} {s : State} {s₀ : State} (h₀ : Keeps s₀ s) : KeepsO s₀ (execSerRequestTimeout port tag s) := by
  unfold execSerRequestTimeout
  refine keepsO_onUnit ?_ ?_
  intro _
  intro _
  apply takeReq_keeps
  intro _
  intro _
  intro _
  apply serErr_keeps
  apply answerWith_keeps
  apply reqFailed_keeps
  assumption
  assumption
  assumption

theorem execSnpInv_keeps {port tag line : Nat} {s : State} {s₀ : State} (h₀ : Keeps s₀ s) : KeepsO s₀ (execSnpInv port tag line s) := by
  unfold execSnpInv
  refine keepsO_onUnit ?_ ?_
  intro _
  intro _
  refine keeps_whenS ?_ ?_
  intro _
  intro _
  split
  apply serSend_keeps
  assumption
  dsimp only
  refine keeps_ite ?_ ?_
  apply serSend_keeps
  refine keeps_mk ?_
  assumption
  apply serSend_keeps
  refine keeps_ite ?_ ?_
  apply serRequest_keeps
  refine keeps_mk ?_
  assumption
  refine keeps_mk ?_
  assumption
  assumption
  assumption

theorem execSnpShare_keeps {port tag line : Nat} {s : State} {s₀ : State} (h₀ : Keeps s₀ s) : KeepsO s₀ (execSnpShare port tag line s) := by
  unfold execSnpShare
  refine keepsO_onUnit ?_ ?_
  intro _
  intro _
  refine keeps_whenS ?_ ?_
  intro _
  intro _
  split
  apply serSend_keeps
  assumption
  dsimp only
  refine keeps_ite ?_ ?_
  apply serSend_keeps
  refine keeps_mk ?_
  assumption
  apply serSend_keeps
  refine keeps_mk ?_
  assumption
  assumption
  assumption

theorem execSerFlitReplay_keeps {port : Nat} {s : State} {s₀ : State} (h₀ : Keeps s₀ s) : KeepsO s₀ (execSerFlitReplay port s) := by
  unfold execSerFlitReplay
  refine keepsO_onUnit ?_ ?_
  intro _
  intro _
  refine keeps_whenS ?_ ?_
  intro _
  intro _
  apply serErr_keeps
  assumption
  assumption
  assumption

theorem setOwner_keeps {st rid cand offer : Nat} {s : State} {s₀ : State} (h₀ : Keeps s₀ s) : Keeps s₀ (setOwner st rid cand offer s) := by
  unfold setOwner
  dsimp only
  refine keeps_ite ?_ ?_
  apply faultEvt_keeps
  apply setFld_keeps
  apply setFlds_keeps
  assumption
  apply setFlds_keeps
  assumption

theorem openElection_keeps {at_ : Nat} {s : State} {s₀ : State} (h₀ : Keeps s₀ s) : Keeps s₀ (openElection at_ s) := by
  unfold openElection
  apply setOwner_keeps
  apply wr_keeps
  assumption

theorem endLease_keeps {at_ : Nat} {s : State} {s₀ : State} (h₀ : Keeps s₀ s) : Keeps s₀ (endLease at_ s) := by
  unfold endLease
  dsimp only
  apply openElection_keeps
  refine keeps_foldl ?_ ?_
  intro _
  intro _
  intro _
  apply wr_keeps
  assumption
  apply wr_keeps
  assumption

theorem ownCmd_keeps {rid v : Nat} {s : State} {s₀ : State} (h₀ : Keeps s₀ s) : Keeps s₀ (ownCmd rid v s).2 := by
  unfold ownCmd
  dsimp only
  split
  refine keeps_pair ?_
  assumption
  split
  refine keeps_ite2 ?_ ?_
  refine keeps_pair ?_
  assumption
  refine keeps_pair ?_
  refine keeps_ite ?_ ?_
  apply openElection_keeps
  apply wr_keeps
  assumption
  apply wr_keeps
  assumption
  refine keeps_pair ?_
  refine keeps_ite ?_ ?_
  apply setFlds_keeps
  apply wr_keeps
  assumption
  apply wr_keeps
  assumption
  refine keeps_ite2 ?_ ?_
  refine keeps_pair ?_
  apply wr_keeps
  assumption
  refine keeps_pair ?_
  assumption
  refine keeps_ite2 ?_ ?_
  refine keeps_pair ?_
  apply endLease_keeps
  assumption
  refine keeps_pair ?_
  assumption
  refine keeps_ite2 ?_ ?_
  refine keeps_pair ?_
  assumption
  refine keeps_ite2 ?_ ?_
  refine keeps_pair ?_
  assumption
  refine keeps_ite2 ?_ ?_
  refine keeps_pair ?_
  assumption
  refine keeps_pair ?_
  refine keeps_mk ?_
  apply setFlds_keeps
  assumption
  refine keeps_ite2 ?_ ?_
  refine keeps_pair ?_
  apply setOwner_keeps
  apply wr_keeps
  assumption
  refine keeps_pair ?_
  assumption
  refine keeps_pair ?_
  assumption
theorem ownCmd_pair {rid v : Nat} {s : State} {s₀ : State} {a₀} {t₀ : State} (e₀ : ownCmd rid v s = (a₀, t₀)) (h₀ : Keeps s₀ s) : Keeps s₀ t₀ := by
  have k := @ownCmd_keeps rid v s s₀ h₀
  rw [e₀] at k; exact k

theorem ownDo_keeps {rid cmd arg b : Nat} {s : State} {s₀ : State} (h₀ : Keeps s₀ s) : Keeps s₀ (ownDo rid cmd arg b s) := by
  unfold ownDo
  split
  apply answerWith_keeps
  refine ownCmd_pair (by assumption) ?_
  apply advanceTo_keeps
  assumption

theorem execOwnStand_keeps {rid prio b : Nat} {s : State} {s₀ : State} (h₀ : Keeps s₀ s) : KeepsO s₀ (execOwnStand rid prio b s) := by
  unfold execOwnStand
  refine keepsO_next ?_
  apply ownDo_keeps
  assumption

theorem execOwnWithdraw_keeps {rid b : Nat} {s : State} {s₀ : State} (h₀ : Keeps s₀ s) : KeepsO s₀ (execOwnWithdraw rid b s) := by
  unfold execOwnWithdraw
  refine keepsO_next ?_
  apply ownDo_keeps
  assumption

theorem execOwnRenew_keeps {rid b : Nat} {s : State} {s₀ : State} (h₀ : Keeps s₀ s) : KeepsO s₀ (execOwnRenew rid b s) := by
  unfold execOwnRenew
  refine keepsO_next ?_
  apply ownDo_keeps
  assumption

theorem execOwnResign_keeps {rid b : Nat} {s : State} {s₀ : State} (h₀ : Keeps s₀ s) : KeepsO s₀ (execOwnResign rid b s) := by
  unfold execOwnResign
  refine keepsO_next ?_
  apply ownDo_keeps
  assumption

theorem execOwnOffer_keeps {rid cand b : Nat} {s : State} {s₀ : State} (h₀ : Keeps s₀ s) : KeepsO s₀ (execOwnOffer rid cand b s) := by
  unfold execOwnOffer
  refine keepsO_next ?_
  apply ownDo_keeps
  assumption

theorem execOwnAccept_keeps {rid b : Nat} {s : State} {s₀ : State} (h₀ : Keeps s₀ s) : KeepsO s₀ (execOwnAccept rid b s) := by
  unfold execOwnAccept
  refine keepsO_next ?_
  apply ownDo_keeps
  assumption

theorem execElectionClose_keeps {b : Nat} {s : State} {s₀ : State} (h₀ : Keeps s₀ s) : KeepsO s₀ (execElectionClose b s) := by
  unfold execElectionClose
  refine keepsO_next ?_
  dsimp only
  refine keeps_whenS ?_ ?_
  intro _
  intro _
  split
  apply setOwner_keeps
  apply wr_keeps
  assumption
  apply setOwner_keeps
  apply wr_keeps
  assumption
  apply advanceTo_keeps
  assumption

theorem execLeaseEnd_keeps {b : Nat} {s : State} {s₀ : State} (h₀ : Keeps s₀ s) : KeepsO s₀ (execLeaseEnd b s) := by
  unfold execLeaseEnd
  refine keepsO_next ?_
  dsimp only
  refine keeps_whenS ?_ ?_
  intro _
  intro _
  apply endLease_keeps
  assumption
  apply advanceTo_keeps
  assumption

theorem execOfferExpire_keeps {b : Nat} {s : State} {s₀ : State} (h₀ : Keeps s₀ s) : KeepsO s₀ (execOfferExpire b s) := by
  unfold execOfferExpire
  refine keepsO_next ?_
  dsimp only
  refine keeps_whenS ?_ ?_
  intro _
  intro _
  apply setFlds_keeps
  assumption
  apply advanceTo_keeps
  assumption

theorem grantWrite_keeps {rid g v : Nat} {s : State} {s₀ : State} (h₀ : Keeps s₀ s) : Keeps s₀ (grantWrite rid g v s).2 := by
  unfold grantWrite
  refine keeps_ite2 ?_ ?_
  refine keeps_pair ?_
  apply wr_keeps
  assumption
  refine keeps_pair ?_
  assumption
theorem grantWrite_pair {rid g v : Nat} {s : State} {s₀ : State} {a₀} {t₀ : State} (e₀ : grantWrite rid g v s = (a₀, t₀)) (h₀ : Keeps s₀ s) : Keeps s₀ t₀ := by
  have k := @grantWrite_keeps rid g v s s₀ h₀
  rw [e₀] at k; exact k

theorem cohWrite_keeps {v : Nat} {s : State} {s₀ : State} (h₀ : Keeps s₀ s) : Keeps s₀ (cohWrite v s).2 := by
  unfold cohWrite
  dsimp only
  refine keeps_ite2 ?_ ?_
  refine keeps_pair ?_
  assumption
  refine keeps_ite2 ?_ ?_
  refine keeps_pair ?_
  assumption
  refine keeps_pair ?_
  apply wr_keeps
  assumption
theorem cohWrite_pair {v : Nat} {s : State} {s₀ : State} {a₀} {t₀ : State} (e₀ : cohWrite v s = (a₀, t₀)) (h₀ : Keeps s₀ s) : Keeps s₀ t₀ := by
  have k := @cohWrite_keeps v s s₀ h₀
  rw [e₀] at k; exact k

theorem execPortStatus_keeps {rid p : Nat} {s : State} {s₀ : State} (h₀ : Keeps s₀ s) : KeepsO s₀ (execPortStatus rid p s) := by
  unfold execPortStatus
  refine keepsO_next ?_
  apply service_keeps
  intro _
  intro _
  refine keeps_ite2 ?_ ?_
  refine keeps_pair ?_
  assumption
  refine keeps_pair ?_
  assumption
  assumption

theorem execOwnerStatus_keeps {rid : Nat} {s : State} {s₀ : State} (h₀ : Keeps s₀ s) : KeepsO s₀ (execOwnerStatus rid s) := by
  unfold execOwnerStatus
  refine keepsO_next ?_
  apply serviceRead_keeps
  assumption

theorem execFilterStatus_keeps {rid : Nat} {s : State} {s₀ : State} (h₀ : Keeps s₀ s) : KeepsO s₀ (execFilterStatus rid s) := by
  unfold execFilterStatus
  refine keepsO_next ?_
  apply service_keeps
  intro _
  intro _
  refine keeps_pair ?_
  refine keeps_mk ?_
  assumption
  assumption

end Sys2Proof.Machine
end

