-- ==== Sys2Proof/Laws/KeepFabric.lean ====
section
/-! SUPPORT. One lemma for each definition of Machine/Fabric.lean that answers a state: it keeps the queue and the canonical form. -/
namespace Sys2Proof.Machine

theorem fabErr_keeps {d b lg dev : Nat} {s : State} {s₀ : State} (h₀ : Keeps s₀ s) : Keeps s₀ (fabErr d b lg dev s) := by
  unfold fabErr
  apply raise_keeps
  apply setFlds_keeps
  assumption

theorem forward_keeps {h : FabHead} {data : List Byte} {s : State} {s₀ : State} (h₀ : Keeps s₀ s) : Keeps s₀ (forward h data s) := by
  unfold forward
  split
  assumption
  apply send_keeps
  assumption

theorem ackSend_keeps {type dst ch num status : Nat} {s : State} {s₀ : State} (h₀ : Keeps s₀ s) : Keeps s₀ (ackSend type dst ch num status s) := by
  unfold ackSend
  apply transmit_keeps
  assumption

theorem fabRecv_keeps {h : FabHead} {data : List Byte} {deliver : State → Option Nat × State} {s s₀ : State}
    (hf : ∀ s, Keeps s₀ s → Keeps s₀ (deliver s).2) (h₀ : Keeps s₀ s) : Keeps s₀ (fabRecv h data deliver s) := by
  have h2 := hf s h₀
  unfold fabRecv
  dsimp only
  split
  · exact forward_keeps h₀
  · split
    · split
      · rename_i e
        rw [e] at h2
        exact h2
      · rename_i e
        rw [e] at h2
        split
        · refine keeps_mk (keeps_mk ?_)
          refine keeps_ite (traceRec_keeps (countBlk_keeps h2)) (countBlk_keeps h2)
        · refine ackSend_keeps (keeps_mk ?_)
          refine keeps_ite (traceRec_keeps (countBlk_keeps h2)) (countBlk_keeps h2)
    · refine keeps_ite ?_ ?_
      apply ackSend_keeps
      apply countBlk_keeps
      assumption
      apply ackSend_keeps
      apply countBlk_keeps
      assumption

theorem issuerDone_keeps {pkt : FabPkt} {status : Nat} {s : State} {s₀ : State} (h₀ : Keeps s₀ s) : Keeps s₀ (issuerDone pkt status s) := by
  unfold issuerDone
  split
  assumption
  apply signalDone_keeps
  assumption
  apply dmaAcked_keeps
  assumption
  assumption

theorem acked_keeps {dev ch last status : Nat} {s : State} {s₀ : State} (h₀ : Keeps s₀ s) : Keeps s₀ (acked dev ch last status s) := by
  unfold acked
  dsimp only
  refine keeps_foldl ?_ ?_
  intro _
  intro _
  intro _
  apply issuerDone_keeps
  assumption
  refine keeps_mk ?_
  assumption

theorem resend_keeps {dev ch : Nat} {s s₀ : State} (h₀ : Keeps s₀ s) : Keeps s₀ (resend dev ch s) := by
  unfold resend
  refine keeps_foldl (fun s x h => ?_) h₀
  refine transmit_keeps ?_
  split
  · exact countBlk_keeps h
  · exact h

theorem dropTo_keeps {dev : Nat} {s : State} {s₀ : State} (h₀ : Keeps s₀ s) : Keeps s₀ (dropTo dev s) := by
  unfold dropTo
  dsimp only
  refine keeps_foldl ?_ ?_
  intro _
  intro _
  intro _
  apply issuerDone_keeps
  assumption
  refine keeps_mk ?_
  assumption

theorem execFabAck_keeps {h : FabHead} {s : State} {s₀ : State} (h₀ : Keeps s₀ s) : KeepsO s₀ (execFabAck h s) := by
  unfold execFabAck
  refine keepsO_next ?_
  refine keeps_ite ?_ ?_
  apply forward_keeps
  assumption
  apply acked_keeps
  assumption

theorem execFabNak_keeps {h : FabHead} {s : State} {s₀ : State} (h₀ : Keeps s₀ s) : KeepsO s₀ (execFabNak h s) := by
  unfold execFabNak
  refine keepsO_next ?_
  refine keeps_ite ?_ ?_
  apply forward_keeps
  assumption
  apply resend_keeps
  apply acked_keeps
  assumption

theorem execFabAckTick_keeps {s : State} {s₀ : State} (h₀ : Keeps s₀ s) : KeepsO s₀ (execFabAckTick s) := by
  unfold execFabAckTick
  refine keepsO_next ?_
  refine keeps_foldl ?_ ?_
  intro _
  intro _
  intro _
  apply ackSend_keeps
  assumption
  refine keeps_mk ?_
  assumption

theorem execE2eRetryTimeout_keeps {dev ch : Nat} {s : State} {s₀ : State} (h₀ : Keeps s₀ s) : KeepsO s₀ (execE2eRetryTimeout dev ch s) := by
  unfold execE2eRetryTimeout
  refine keepsO_onUnits ?_ ?_
  intro _
  intro _
  apply resend_keeps
  assumption
  assumption

theorem execFabReservedPacket_keeps {h : FabHead} {s : State} {s₀ : State} (h₀ : Keeps s₀ s) : KeepsO s₀ (execFabReservedPacket h s) := by
  unfold execFabReservedPacket
  refine keepsO_next ?_
  apply fabErr_keeps
  assumption

theorem execFabWrite_keeps {h : FabHead} {cl : Nat} {data : List Byte} {s : State} {s₀ : State} (h₀ : Keeps s₀ s) : KeepsO s₀ (execFabWrite h cl data s) := by
  unfold execFabWrite
  refine keepsO_next ?_
  apply fabRecv_keeps
  intro _
  intro _
  dsimp only
  refine keeps_ite2 ?_ ?_
  split
  refine keeps_pair ?_
  refine devWrite_pair (by assumption) ?_
  assumption
  refine keeps_pair ?_
  refine devWrite_pair (by assumption) ?_
  assumption
  refine keeps_pair ?_
  refine devWrite_pair (by assumption) ?_
  assumption
  refine keeps_pair ?_
  apply windowDo_keeps
  assumption
  assumption

theorem execFabSignal_keeps {h : FabHead} {s : State} {s₀ : State} (h₀ : Keeps s₀ s) : KeepsO s₀ (execFabSignal h s) := by
  unfold execFabSignal
  refine keepsO_next ?_
  apply fabRecv_keeps
  intro _
  intro _
  split
  refine keeps_pair ?_
  refine signalApply_pair (by assumption) ?_
  assumption
  assumption

theorem updLg_keeps {k : Nat} {s : State} {s₀ : State} (h₀ : Keeps s₀ s) : Keeps s₀ (updLg k s) := by
  unfold updLg
  dsimp only
  split
  assumption
  apply setFlds_keeps
  assumption

theorem setLink_keeps {l l' : FabLink} {s : State} {s₀ : State} (h₀ : Keeps s₀ s) : Keeps s₀ (setLink l l' s) := by
  unfold setLink
  apply updLg_keeps
  refine keeps_mk ?_
  assumption

theorem updPresent_keeps {s : State} {s₀ : State} (h₀ : Keeps s₀ s) : Keeps s₀ (updPresent s) := by
  unfold updPresent
  apply setFabStatus_keeps
  assumption

theorem sendMembers_keeps {s : State} {s₀ : State} (h₀ : Keeps s₀ s) : Keeps s₀ (sendMembers s) := by
  unfold sendMembers
  dsimp only
  refine keeps_mk ?_
  refine keeps_foldl ?_ ?_
  intro _
  intro _
  intro _
  apply ctrlSend_keeps
  assumption
  assumption

theorem sendGroups_keeps {s : State} {s₀ : State} (h₀ : Keeps s₀ s) : Keeps s₀ (sendGroups s) := by
  unfold sendGroups
  dsimp only
  refine keeps_mk ?_
  refine keeps_foldl ?_ ?_
  intro _
  intro _
  intro _
  apply ctrlSend_keeps
  assumption
  assumption

theorem agreeAll_keeps {s : State} {s₀ : State} (h₀ : Keeps s₀ s) : Keeps s₀ (agreeAll s) := by
  unfold agreeAll
  dsimp only
  refine keeps_ite ?_ ?_
  apply sendGroups_keeps
  refine keeps_ite ?_ ?_
  apply sendMembers_keeps
  assumption
  assumption
  refine keeps_ite ?_ ?_
  apply sendMembers_keeps
  assumption
  assumption

theorem execFabHello_keeps {lg lane dev plg plane role n g : Nat} {s : State} {s₀ : State} (h₀ : Keeps s₀ s) : KeepsO s₀ (execFabHello lg lane dev plg plane role n g s) := by
  unfold execFabHello
  refine keepsO_onUnit ?_ ?_
  intro _
  intro _
  split
  assumption
  dsimp only
  refine keeps_ite ?_ ?_
  refine keeps_ite ?_ ?_
  apply setFabStatus_keeps
  assumption
  assumption
  refine keeps_ite ?_ ?_
  refine keeps_ite ?_ ?_
  refine keeps_ite ?_ ?_
  apply setFabStatus_keeps
  assumption
  assumption
  apply agreeAll_keeps
  apply updPresent_keeps
  apply setLink_keeps
  refine keeps_ite ?_ ?_
  apply setFabStatus_keeps
  assumption
  assumption
  refine keeps_ite ?_ ?_
  apply setLink_keeps
  refine keeps_ite ?_ ?_
  apply setFabStatus_keeps
  assumption
  assumption
  apply fabErr_keeps
  apply setLink_keeps
  refine keeps_ite ?_ ?_
  apply setFabStatus_keeps
  assumption
  assumption
  assumption

theorem execHelloSendTick_keeps {s : State} {s₀ : State} (h₀ : Keeps s₀ s) : KeepsO s₀ (execHelloSendTick s) := by
  unfold execHelloSendTick
  refine keepsO_next ?_
  refine keeps_foldl ?_ ?_
  intro _
  intro _
  intro _
  dsimp only
  apply send_keeps
  apply countBlk_keeps
  assumption
  assumption

theorem execLinkAbsentTimeout_keeps {s : State} {s₀ : State} (h₀ : Keeps s₀ s) : KeepsO s₀ (execLinkAbsentTimeout s) := by
  unfold execLinkAbsentTimeout
  refine keepsO_next ?_
  refine keeps_whenS ?_ ?_
  intro _
  intro _
  dsimp only
  refine keeps_ite ?_ ?_
  apply setFld_keeps
  apply setFabStatus_keeps
  refine keeps_foldl ?_ ?_
  intro _
  intro _
  intro _
  apply setLink_keeps
  assumption
  assumption
  refine keeps_foldl ?_ ?_
  intro _
  intro _
  intro _
  apply setLink_keeps
  assumption
  assumption
  assumption

theorem execMembersDeadline_keeps {s : State} {s₀ : State} (h₀ : Keeps s₀ s) : KeepsO s₀ (execMembersDeadline s) := by
  unfold execMembersDeadline
  refine keepsO_next ?_
  refine keeps_whenS ?_ ?_
  intro _
  intro _
  dsimp only
  refine keeps_ite ?_ ?_
  apply sendGroups_keeps
  refine keeps_ite ?_ ?_
  apply sendMembers_keeps
  assumption
  assumption
  refine keeps_ite ?_ ?_
  apply sendMembers_keeps
  assumption
  assumption
  assumption

theorem execCtrlMembers_keeps {h : FabHead} {mask : Nat} {s : State} {s₀ : State} (h₀ : Keeps s₀ s) : KeepsO s₀ (execCtrlMembers h mask s) := by
  unfold execCtrlMembers
  refine keepsO_next ?_
  apply fabRecv_keeps
  intro _
  intro _
  refine keeps_pair ?_
  refine keeps_ite ?_ ?_
  refine keeps_mk ?_
  assumption
  assumption
  assumption

theorem execCtrlGroups_keeps {h : FabHead} {mask : Nat} {s : State} {s₀ : State} (h₀ : Keeps s₀ s) : KeepsO s₀ (execCtrlGroups h mask s) := by
  unfold execCtrlGroups
  refine keepsO_next ?_
  apply fabRecv_keeps
  intro _
  intro _
  refine keeps_pair ?_
  refine keeps_ite ?_ ?_
  refine keeps_mk ?_
  assumption
  assumption
  assumption

theorem execHeartbeatTick_keeps {s : State} {s₀ : State} (h₀ : Keeps s₀ s) : KeepsO s₀ (execHeartbeatTick s) := by
  unfold execHeartbeatTick
  refine keepsO_next ?_
  dsimp only
  refine keeps_ite ?_ ?_
  apply ctrlSend_keeps
  assumption
  refine keeps_foldl ?_ ?_
  intro _
  intro _
  intro _
  apply ctrlSend_keeps
  assumption
  assumption

theorem heardFrom_keeps {t gen aligned : Nat} {s : State} {s₀ : State} (h₀ : Keeps s₀ s) : Keeps s₀ (heardFrom t gen aligned s) := by
  unfold heardFrom
  dsimp only
  refine keeps_ite ?_ ?_
  apply setFabStatus_keeps
  refine keeps_mk ?_
  assumption
  apply setFlds_keeps
  apply setFabStatus_keeps
  refine keeps_mk ?_
  assumption

theorem execCtrlHeartbeat_keeps {h : FabHead} {gen aligned : Nat} {s : State} {s₀ : State} (h₀ : Keeps s₀ s) : KeepsO s₀ (execCtrlHeartbeat h gen aligned s) := by
  unfold execCtrlHeartbeat
  refine keepsO_next ?_
  apply fabRecv_keeps
  intro _
  intro _
  refine keeps_pair ?_
  refine keeps_ite ?_ ?_
  apply heardFrom_keeps
  assumption
  assumption
  assumption

theorem lateColls_keeps {s : State} {s₀ : State} (h₀ : Keeps s₀ s) : Keeps s₀ (lateColls s) := by
  unfold lateColls
  refine keeps_mk ?_
  assumption

theorem failLink_keeps {l : FabLink} {s : State} {s₀ : State} (h₀ : Keeps s₀ s) : Keeps s₀ (failLink l s) := by
  unfold failLink
  refine keeps_ite ?_ ?_
  assumption
  dsimp only
  apply lateColls_keeps
  apply addRecord_keeps
  apply fabErr_keeps
  apply updPresent_keeps
  apply setLink_keeps
  assumption

theorem execLaneFail_keeps {lg lane : Nat} {s : State} {s₀ : State} (h₀ : Keeps s₀ s) : KeepsO s₀ (execLaneFail lg lane s) := by
  unfold execLaneFail
  refine keepsO_onUnits ?_ ?_
  intro _
  intro _
  split
  assumption
  refine keeps_ite ?_ ?_
  assumption
  dsimp only
  refine keeps_ite ?_ ?_
  apply setLink_keeps
  apply addRecord_keeps
  apply fabErr_keeps
  apply setLink_keeps
  assumption
  apply failLink_keeps
  apply addRecord_keeps
  apply fabErr_keeps
  apply setLink_keeps
  assumption
  assumption

theorem execFabFlitRetry_keeps {lg n : Nat} {again : Bool} {s : State} {s₀ : State} (h₀ : Keeps s₀ s) : KeepsO s₀ (execFabFlitRetry lg n again s) := by
  unfold execFabFlitRetry
  refine keepsO_onUnit ?_ ?_
  intro _
  intro _
  dsimp only
  refine keeps_ite ?_ ?_
  apply countBlk_keeps
  apply setFld_keeps
  refine keeps_mk ?_
  assumption
  refine keeps_foldl ?_ ?_
  intro _
  intro _
  intro _
  apply failLink_keeps
  assumption
  apply countBlk_keeps
  apply setFld_keeps
  refine keeps_mk ?_
  assumption
  assumption

theorem execRelayInstall_keeps {dev : Nat} {up : List Nat} {s : State} {s₀ : State} (h₀ : Keeps s₀ s) : KeepsO s₀ (execRelayInstall dev up s) := by
  unfold execRelayInstall
  refine keepsO_onUnit ?_ ?_
  intro _
  intro _
  refine keeps_whenS ?_ ?_
  intro _
  intro _
  split
  apply dropTo_keeps
  refine keeps_mk ?_
  assumption
  dsimp only
  refine keeps_foldl ?_ ?_
  intro _
  intro _
  intro _
  apply resend_keeps
  assumption
  refine keeps_mk ?_
  assumption
  assumption
  assumption

theorem fabService_keeps {rid d code : Nat} {args : List Nat} {body : State → Reply × State} {s s₀ : State}
    (hf : ∀ s, Keeps s₀ s → Keeps s₀ (body s).2) (h₀ : Keeps s₀ s) : Keeps s₀ (fabService rid d code args body s) := by
  unfold fabService
  apply service_keeps
  intro _
  intro _
  refine keeps_ite2 ?_ ?_
  refine keeps_pair ?_
  assumption
  apply hf
  assumption
  assumption

theorem execLgStatus_keeps {rid d a0 : Nat} {s : State} {s₀ : State} (h₀ : Keeps s₀ s) : KeepsO s₀ (execLgStatus rid d a0 s) := by
  unfold execLgStatus
  refine keepsO_onUnit ?_ ?_
  intro _
  intro _
  apply fabService_keeps
  intro _
  intro _
  refine keeps_ite2 ?_ ?_
  refine keeps_pair ?_
  assumption
  refine keeps_pair ?_
  assumption
  assumption
  assumption

theorem execFabErrRead_keeps {rid d : Nat} {s : State} {s₀ : State} (h₀ : Keeps s₀ s) : KeepsO s₀ (execFabErrRead rid d s) := by
  unfold execFabErrRead
  refine keepsO_onUnit ?_ ?_
  intro _
  intro _
  apply fabService_keeps
  intro _
  intro _
  refine keeps_pair ?_
  assumption
  assumption
  assumption

theorem execFabMembersStatus_keeps {rid d : Nat} {s : State} {s₀ : State} (h₀ : Keeps s₀ s) : KeepsO s₀ (execFabMembersStatus rid d s) := by
  unfold execFabMembersStatus
  refine keepsO_onUnit ?_ ?_
  intro _
  intro _
  apply fabService_keeps
  intro _
  intro _
  refine keeps_ite2 ?_ ?_
  refine keeps_pair ?_
  assumption
  refine keeps_pair ?_
  assumption
  assumption
  assumption

end Sys2Proof.Machine
end

