-- ==== Sys2Proof/Laws/KeepColl.lean ====
section
/-! SUPPORT. One lemma for each definition of Machine/Coll.lean that answers a state: it keeps the queue and the canonical form. -/
namespace Sys2Proof.Machine

theorem setColl_keeps {q : Nat} {c : Coll} {s : State} {s₀ : State} (h₀ : Keeps s₀ s) : Keeps s₀ (setColl q c s) := by
  unfold setColl
  refine keeps_mk ?_
  assumption

theorem collNext_keeps {q id : Nat} {s : State} {s₀ : State} (h₀ : Keeps s₀ s) : Keeps s₀ (collNext q id s) := by
  unfold collNext
  dsimp only
  refine keeps_mk ?_
  apply setFlds_keeps
  assumption

theorem collFlag_keeps {b dev : Nat} {s : State} {s₀ : State} (h₀ : Keeps s₀ s) : Keeps s₀ (collFlag b dev s) := by
  unfold collFlag
  apply raise_keeps
  apply setFld_keeps
  assumption

theorem collLast_keeps {id cause q : Nat} {s : State} {s₀ : State} (h₀ : Keeps s₀ s) : Keeps s₀ (collLast id cause q s) := by
  unfold collLast
  apply setFlds_keeps
  assumption

theorem collFail_keeps {q cause dev : Nat} {s : State} {s₀ : State} (h₀ : Keeps s₀ s) : Keeps s₀ (collFail q cause dev s) := by
  unfold collFail
  split
  assumption
  dsimp only
  refine keeps_ite ?_ ?_
  apply collNext_keeps
  apply addRecord_keeps
  apply collLast_keeps
  apply collFlag_keeps
  assumption
  apply setFlds_keeps
  apply collNext_keeps
  apply addRecord_keeps
  apply collLast_keeps
  apply collFlag_keeps
  assumption

theorem collFailAll_keeps {d : List Byte} {cause : Nat} {s : State} {s₀ : State} (h₀ : Keeps s₀ s) : Keeps s₀ (collFailAll d cause s) := by
  unfold collFailAll
  refine keeps_foldl ?_ ?_
  intro _
  intro _
  intro _
  apply ctrlSend_keeps
  assumption
  assumption

theorem execCollDoorbellPoll_keeps {s : State} {s₀ : State} (h₀ : Keeps s₀ s) : KeepsO s₀ (execCollDoorbellPoll s) := by
  unfold execCollDoorbellPoll
  refine keepsO_next ?_
  split
  assumption
  refine keeps_foldl ?_ ?_
  intro _
  intro _
  intro _
  dsimp only
  refine keeps_ite ?_ ?_
  apply setFld_keeps
  assumption
  refine keeps_ite ?_ ?_
  apply setFlds_keeps
  assumption
  apply setFlds_keeps
  assumption
  assumption

theorem collSend_keeps {q : Nat} {d : List Byte} {dst stage p : Nat} {data : List Byte} {s : State} {s₀ : State} (h₀ : Keeps s₀ s) : Keeps s₀ (collSend q d dst stage p data s) := by
  unfold collSend
  refine keeps_ite ?_ ?_
  refine keeps_mk ?_
  assumption
  dsimp only
  apply fabSend_keeps
  assumption

theorem dropParts_keeps {id p : Nat} {stages : List Nat} {s : State} {s₀ : State} (h₀ : Keeps s₀ s) : Keeps s₀ (dropParts id p stages s) := by
  unfold dropParts
  refine keeps_mk ?_
  assumption

theorem reducePacket_keeps {q p : Nat} {s : State} {s₀ : State} (h₀ : Keeps s₀ s) : Keeps s₀ (reducePacket q p s) := by
  unfold reducePacket
  split
  assumption
  dsimp only
  refine keeps_ite ?_ ?_
  assumption
  refine keeps_ite ?_ ?_
  refine keeps_foldl ?_ ?_
  intro _
  intro _
  intro _
  apply collSend_keeps
  assumption
  apply countBlk_keeps
  apply setColl_keeps
  apply dropParts_keeps
  assumption
  refine keeps_ite ?_ ?_
  apply collSend_keeps
  apply collSend_keeps
  apply countBlk_keeps
  apply setColl_keeps
  apply dropParts_keeps
  assumption
  apply collSend_keeps
  apply countBlk_keeps
  apply setColl_keeps
  apply dropParts_keeps
  assumption

theorem combinePacket_keeps {q p : Nat} {s : State} {s₀ : State} (h₀ : Keeps s₀ s) : Keeps s₀ (combinePacket q p s) := by
  unfold combinePacket
  split
  assumption
  dsimp only
  refine keeps_ite ?_ ?_
  assumption
  refine keeps_ite ?_ ?_
  refine keeps_foldl ?_ ?_
  intro _
  intro _
  intro _
  apply collSend_keeps
  assumption
  apply countBlk_keeps
  apply dropParts_keeps
  assumption
  apply collSend_keeps
  apply countBlk_keeps
  apply dropParts_keeps
  assumption

theorem passPackets_keeps {q : Nat} {s : State} {s₀ : State} (h₀ : Keeps s₀ s) : Keeps s₀ (passPackets q s) := by
  unfold passPackets
  split
  assumption
  dsimp only
  refine keeps_foldl ?_ ?_
  intro _
  intro _
  intro _
  refine keeps_foldl ?_ ?_
  intro _
  intro _
  intro _
  apply collSend_keeps
  assumption
  assumption
  refine keeps_mk ?_
  assumption

theorem collWriteOne_keeps {q : Nat} {x : CollPart} {s : State} {s₀ : State} (h₀ : Keeps s₀ s) : Keeps s₀ (collWriteOne q x s) := by
  unfold collWriteOne
  split
  assumption
  dsimp only
  split
  apply setColl_keeps
  refine keeps_mk ?_
  refine devWrite_pair (by assumption) ?_
  assumption
  refine devWrite_pair (by assumption) ?_
  assumption
  apply collFail_keeps
  refine devWrite_pair (by assumption) ?_
  assumption

theorem barrierRelease_keeps {q : Nat} {s : State} {s₀ : State} (h₀ : Keeps s₀ s) : Keeps s₀ (barrierRelease q s) := by
  unfold barrierRelease
  split
  assumption
  dsimp only
  refine keeps_ite ?_ ?_
  assumption
  apply setColl_keeps
  apply countBlk_keeps
  refine keeps_foldl ?_ ?_
  intro _
  intro _
  intro _
  apply fabSend_keeps
  assumption
  assumption

theorem collPump_keeps {q : Nat} {s : State} {s₀ : State} (h₀ : Keeps s₀ s) : Keeps s₀ (collPump q s) := by
  unfold collPump
  split
  assumption
  dsimp only
  apply barrierRelease_keeps
  refine keeps_foldl ?_ ?_
  intro _
  intro _
  intro _
  apply collWriteOne_keeps
  assumption
  apply passPackets_keeps
  refine keeps_foldl ?_ ?_
  intro _
  intro _
  intro _
  apply combinePacket_keeps
  assumption
  refine keeps_foldl ?_ ?_
  intro _
  intro _
  intro _
  apply reducePacket_keeps
  assumption
  assumption

theorem collContribute_keeps {q : Nat} {d src : List Byte} {s : State} {s₀ : State} (h₀ : Keeps s₀ s) : Keeps s₀ (collContribute q d src s) := by
  unfold collContribute
  dsimp only
  split
  refine keeps_foldl ?_ ?_
  intro _
  intro _
  intro _
  apply collSend_keeps
  assumption
  assumption
  refine keeps_foldl ?_ ?_
  intro _
  intro _
  intro _
  apply collSend_keeps
  assumption
  assumption
  refine keeps_foldl ?_ ?_
  intro _
  intro _
  intro _
  refine keeps_foldl ?_ ?_
  intro _
  intro _
  intro _
  apply collSend_keeps
  assumption
  assumption
  assumption
  refine keeps_ite ?_ ?_
  refine keeps_foldl ?_ ?_
  intro _
  intro _
  intro _
  refine keeps_foldl ?_ ?_
  intro _
  intro _
  intro _
  apply collSend_keeps
  assumption
  assumption
  assumption
  assumption
  refine keeps_ite ?_ ?_
  refine keeps_mk ?_
  assumption
  apply fabSend_keeps
  assumption

theorem collRead_some {n u a : Nat} {src : Source} {s s₀ : State} {c} {t : State} (e : (if n = 0 then (.ok [], s) else devRead src u a n s) = (c, t)) (h₀ : Keeps s₀ s) : Keeps s₀ t := by
  split at e
  · cases e; exact h₀
  · exact devRead_pair e h₀
theorem collStart_keeps {q op : Nat} {s s₀ : State} (h₀ : Keeps s₀ s) : Keeps s₀ (collStart q op s) := by
  unfold collStart
  dsimp only
  split
  · exact h₀
  · split
    · exact h₀
    · split
      · exact collFail_keeps (setColl_keeps h₀)
      · split
        · rename_i e
          exact collRead_some e h₀
        · rename_i e
          exact collFail_keeps (setColl_keeps (collRead_some e h₀))
        · rename_i e
          have h3 := collRead_some e h₀
          refine keeps_ite ?_ ?_
          apply collFail_keeps
          apply collFailAll_keeps
          apply setColl_keeps
          assumption
          apply collPump_keeps
          apply collContribute_keeps
          apply setColl_keeps
          assumption

theorem execCollAllReduce_keeps {q : Nat} {s : State} {s₀ : State} (h₀ : Keeps s₀ s) : KeepsO s₀ (execCollAllReduce q s) := by
  unfold execCollAllReduce
  refine keepsO_onUnit ?_ ?_
  intro _
  intro _
  apply collStart_keeps
  assumption
  assumption

theorem execCollReduceScatter_keeps {q : Nat} {s : State} {s₀ : State} (h₀ : Keeps s₀ s) : KeepsO s₀ (execCollReduceScatter q s) := by
  unfold execCollReduceScatter
  refine keepsO_onUnit ?_ ?_
  intro _
  intro _
  apply collStart_keeps
  assumption
  assumption

theorem execCollAllGather_keeps {q : Nat} {s : State} {s₀ : State} (h₀ : Keeps s₀ s) : KeepsO s₀ (execCollAllGather q s) := by
  unfold execCollAllGather
  refine keepsO_onUnit ?_ ?_
  intro _
  intro _
  apply collStart_keeps
  assumption
  assumption

theorem execCollBroadcast_keeps {q : Nat} {s : State} {s₀ : State} (h₀ : Keeps s₀ s) : KeepsO s₀ (execCollBroadcast q s) := by
  unfold execCollBroadcast
  refine keepsO_onUnit ?_ ?_
  intro _
  intro _
  apply collStart_keeps
  assumption
  assumption

theorem execCollBarrier_keeps {q : Nat} {s : State} {s₀ : State} (h₀ : Keeps s₀ s) : KeepsO s₀ (execCollBarrier q s) := by
  unfold execCollBarrier
  refine keepsO_onUnit ?_ ?_
  intro _
  intro _
  apply collStart_keeps
  assumption
  assumption

theorem execFabCollPacket_keeps {h : FabHead} {data : List Byte} {s : State} {s₀ : State} (h₀ : Keeps s₀ s) : KeepsO s₀ (execFabCollPacket h data s) := by
  unfold execFabCollPacket
  refine keepsO_next ?_
  apply fabRecv_keeps
  intro _
  intro _
  dsimp only
  refine keeps_ite2 ?_ ?_
  refine keeps_pair ?_
  assumption
  split
  refine keeps_pair ?_
  refine keeps_mk ?_
  assumption
  refine keeps_ite2 ?_ ?_
  refine keeps_pair ?_
  apply collFail_keeps
  apply collFailAll_keeps
  refine keeps_mk ?_
  assumption
  refine keeps_pair ?_
  apply collPump_keeps
  refine keeps_mk ?_
  assumption
  assumption

theorem execFabBarrier_keeps {h : FabHead} {s : State} {s₀ : State} (h₀ : Keeps s₀ s) : KeepsO s₀ (execFabBarrier h s) := by
  unfold execFabBarrier
  refine keepsO_next ?_
  apply fabRecv_keeps
  intro _
  intro _
  dsimp only
  split
  refine keeps_pair ?_
  refine keeps_mk ?_
  assumption
  refine keeps_pair ?_
  apply barrierRelease_keeps
  refine keeps_mk ?_
  assumption
  assumption

theorem execFabRelease_keeps {h : FabHead} {s : State} {s₀ : State} (h₀ : Keeps s₀ s) : KeepsO s₀ (execFabRelease h s) := by
  unfold execFabRelease
  refine keepsO_next ?_
  apply fabRecv_keeps
  intro _
  intro _
  split
  refine keeps_pair ?_
  assumption
  refine keeps_ite2 ?_ ?_
  refine keeps_pair ?_
  assumption
  refine keeps_pair ?_
  apply setColl_keeps
  apply countBlk_keeps
  assumption
  assumption

theorem execCtrlCollFail_keeps {h : FabHead} {id cause : Nat} {s : State} {s₀ : State} (h₀ : Keeps s₀ s) : KeepsO s₀ (execCtrlCollFail h id cause s) := by
  unfold execCtrlCollFail
  refine keepsO_next ?_
  apply fabRecv_keeps
  intro _
  intro _
  split
  refine keeps_pair ?_
  assumption
  refine keeps_pair ?_
  apply collFail_keeps
  assumption
  assumption

theorem execCollComplete_keeps {q : Nat} {s : State} {s₀ : State} (h₀ : Keeps s₀ s) : KeepsO s₀ (execCollComplete q s) := by
  unfold execCollComplete
  refine keepsO_onUnit ?_ ?_
  intro _
  intro _
  dsimp only
  split
  apply collPump_keeps
  assumption
  refine keeps_ite ?_ ?_
  apply collPump_keeps
  assumption
  refine keeps_ite ?_ ?_
  apply collFail_keeps
  apply doneSignal_keeps
  apply collPump_keeps
  assumption
  apply collNext_keeps
  refine keeps_ite ?_ ?_
  apply collLast_keeps
  apply collFlag_keeps
  refine keeps_ite ?_ ?_
  apply traceRec_keeps
  apply doneSignal_keeps
  apply collPump_keeps
  assumption
  apply doneSignal_keeps
  apply collPump_keeps
  assumption
  refine keeps_ite ?_ ?_
  apply traceRec_keeps
  apply doneSignal_keeps
  apply collPump_keeps
  assumption
  apply doneSignal_keeps
  apply collPump_keeps
  assumption
  assumption

theorem execCollClear_keeps {rid d q : Nat} {s : State} {s₀ : State} (h₀ : Keeps s₀ s) : KeepsO s₀ (execCollClear rid d q s) := by
  unfold execCollClear
  refine keepsO_onUnit ?_ ?_
  intro _
  intro _
  apply fabService_keeps
  intro _
  intro _
  refine keeps_ite2 ?_ ?_
  refine keeps_pair ?_
  assumption
  dsimp only
  refine keeps_ite2 ?_ ?_
  refine keeps_pair ?_
  assumption
  refine keeps_pair ?_
  apply setFlds_keeps
  assumption
  assumption
  assumption

end Sys2Proof.Machine
end

