-- ==== Sys2Proof/Laws/KeepSecure.lean ====
section
/-! SUPPORT. One lemma for each definition of Machine/Secure.lean that answers a state: it keeps the queue and the canonical form. -/
namespace Sys2Proof.Machine

theorem noteVerify_keeps {o : List Byte} {cause : Nat} {s : State} {s₀ : State} (h₀ : Keeps s₀ s) : Keeps s₀ (noteVerify o cause s) := by
  unfold noteVerify
  dsimp only
  refine keeps_ite ?_ ?_
  apply setFlds_keeps
  assumption
  apply raise_keeps
  apply setFlds_keeps
  assumption

theorem verify_keeps {type : Nat} {o : List Byte} {s : State} {s₀ : State} (h₀ : Keeps s₀ s) : Keeps s₀ (verify type o s).2 := by
  unfold verify
  dsimp only
  apply noteVerify_keeps
  assumption
theorem verify_pair {type : Nat} {o : List Byte} {s : State} {s₀ : State} {a₀} {t₀ : State} (e₀ : verify type o s = (a₀, t₀)) (h₀ : Keeps s₀ s) : Keeps s₀ t₀ := by
  have k := @verify_keeps type o s s₀ h₀
  rw [e₀] at k; exact k

theorem setFlash_keeps {t : Nat} {o : List Byte} {s : State} {s₀ : State} (h₀ : Keeps s₀ s) : Keeps s₀ (setFlash t o s) := by
  unfold setFlash
  refine keeps_mk ?_
  assumption

theorem extend_keeps {r type svn : Nat} {d : List Byte} {s : State} {s₀ : State} (h₀ : Keeps s₀ s) : Keeps s₀ (extend r type svn d s) := by
  unfold extend
  dsimp only
  apply setFlds_keeps
  refine keeps_ite ?_ ?_
  refine keeps_mk ?_
  refine keeps_foldl ?_ ?_
  intro _
  intro _
  intro _
  apply wr_keeps
  assumption
  assumption
  refine keeps_foldl ?_ ?_
  intro _
  intro _
  intro _
  apply wr_keeps
  assumption
  assumption

theorem measureIn_keeps {r : Nat} {header : List Byte} {s : State} {s₀ : State} (h₀ : Keeps s₀ s) : Keeps s₀ (measureIn r header s) := by
  unfold measureIn
  apply extend_keeps
  assumption

theorem measure_keeps {header : List Byte} {s : State} {s₀ : State} (h₀ : Keeps s₀ s) : Keeps s₀ (measure header s) := by
  unfold measure
  apply measureIn_keeps
  assumption

theorem ownerService_keeps {b code rid : Nat} {args : List Nat} {body : State → Reply × State} {s s₀ : State}
    (hf : ∀ s, Keeps s₀ s → Keeps s₀ (body s).2) (h₀ : Keeps s₀ s) : Keeps s₀ (ownerService b code rid args body s) := by
  unfold ownerService
  refine keeps_ite ?_ ?_
  apply service_keeps
  intro _
  intro _
  apply hf
  assumption
  assumption
  apply answerWith_keeps
  assumption

theorem execAttest_keeps {rid a0 a1 a2 : Nat} {s : State} {s₀ : State} (h₀ : Keeps s₀ s) : KeepsO s₀ (execAttest rid a0 a1 a2 s) := by
  unfold execAttest
  refine keepsO_next ?_
  apply service_keeps
  intro _
  intro _
  refine keeps_ite2 ?_ ?_
  refine keeps_pair ?_
  assumption
  split
  refine keeps_pair ?_
  assumption
  dsimp only
  refine keeps_ite2 ?_ ?_
  refine keeps_pair ?_
  assumption
  refine keeps_pair ?_
  apply fwWrite_keeps
  assumption
  assumption

theorem execCertRead_keeps {rid a0 : Nat} {s : State} {s₀ : State} (h₀ : Keeps s₀ s) : KeepsO s₀ (execCertRead rid a0 s) := by
  unfold execCertRead
  refine keepsO_next ?_
  apply service_keeps
  intro _
  intro _
  dsimp only
  refine keeps_ite2 ?_ ?_
  refine keeps_pair ?_
  assumption
  refine keeps_pair ?_
  apply fwWrite_keeps
  assumption
  assumption

theorem execLogRead_keeps {rid a0 a1 a2 : Nat} {s : State} {s₀ : State} (h₀ : Keeps s₀ s) : KeepsO s₀ (execLogRead rid a0 a1 a2 s) := by
  unfold execLogRead
  refine keepsO_next ?_
  apply service_keeps
  intro _
  intro _
  refine keeps_ite2 ?_ ?_
  refine keeps_pair ?_
  assumption
  dsimp only
  apply fwWrite_keeps
  assumption
  assumption

theorem execExtend_keeps {rid a0 a1 : Nat} {s : State} {s₀ : State} (h₀ : Keeps s₀ s) : KeepsO s₀ (execExtend rid a0 a1 s) := by
  unfold execExtend
  refine keepsO_next ?_
  apply service_keeps
  intro _
  intro _
  refine keeps_ite2 ?_ ?_
  refine keeps_pair ?_
  assumption
  refine keeps_ite2 ?_ ?_
  refine keeps_pair ?_
  assumption
  split
  refine keeps_pair ?_
  assumption
  refine keeps_pair ?_
  apply extend_keeps
  assumption
  assumption

theorem execSvnCommit_keeps {rid a0 a1 : Nat} {s : State} {s₀ : State} (h₀ : Keeps s₀ s) : KeepsO s₀ (execSvnCommit rid a0 a1 s) := by
  unfold execSvnCommit
  refine keepsO_next ?_
  apply ownerService_keeps
  intro _
  intro _
  refine keeps_ite2 ?_ ?_
  refine keeps_pair ?_
  assumption
  refine keeps_ite2 ?_ ?_
  refine keeps_pair ?_
  assumption
  refine keeps_ite2 ?_ ?_
  refine keeps_pair ?_
  assumption
  split
  refine keeps_pair ?_
  assumption
  refine keeps_pair ?_
  apply setFld_keeps
  assumption
  assumption

theorem execRevoke_keeps {rid a0 : Nat} {s : State} {s₀ : State} (h₀ : Keeps s₀ s) : KeepsO s₀ (execRevoke rid a0 s) := by
  unfold execRevoke
  refine keepsO_next ?_
  apply ownerService_keeps
  intro _
  intro _
  refine keeps_ite2 ?_ ?_
  refine keeps_pair ?_
  assumption
  refine keeps_ite2 ?_ ?_
  refine keeps_pair ?_
  assumption
  refine keeps_ite2 ?_ ?_
  refine keeps_pair ?_
  assumption
  refine keeps_ite2 ?_ ?_
  refine keeps_pair ?_
  assumption
  refine keeps_pair ?_
  apply setFld_keeps
  assumption
  assumption

theorem execFuseRead_keeps {rid a0 a1 : Nat} {s : State} {s₀ : State} (h₀ : Keeps s₀ s) : KeepsO s₀ (execFuseRead rid a0 a1 s) := by
  unfold execFuseRead
  refine keepsO_next ?_
  apply service_keeps
  intro _
  intro _
  split
  refine keeps_pair ?_
  assumption
  refine keeps_pair ?_
  assumption
  assumption

end Sys2Proof.Machine
end

