-- ==== Sys2Proof/Laws/KeepAdmit.lean ====
section
/-! SUPPORT. One lemma for each definition of Machine/Admit.lean that answers a state: it keeps the queue and the canonical form. -/
namespace Sys2Proof.Machine

theorem admission_keeps {bad : List Nat} {s : State} {s₀ : State} (h₀ : Keeps s₀ s) : Keeps s₀ (admission bad s).2 := by
  unfold admission
  dsimp only
  split
  refine keeps_pair ?_
  apply noteVerify_keeps
  assumption
  split
  refine keeps_pair ?_
  assumption
  refine keeps_ite2 ?_ ?_
  refine keeps_pair ?_
  apply noteVerify_keeps
  assumption
  refine keeps_ite2 ?_ ?_
  refine keeps_pair ?_
  apply noteVerify_keeps
  assumption
  refine keeps_pair ?_
  apply noteVerify_keeps
  assumption
theorem admission_pair {bad : List Nat} {s : State} {s₀ : State} {a₀} {t₀ : State} (e₀ : admission bad s = (a₀, t₀)) (h₀ : Keeps s₀ s) : Keeps s₀ t₀ := by
  have k := @admission_keeps bad s s₀ h₀
  rw [e₀] at k; exact k

theorem emptySlot_keeps {i : Nat} {s : State} {s₀ : State} (h₀ : Keeps s₀ s) : Keeps s₀ (emptySlot i s) := by
  unfold emptySlot
  apply wr_keeps
  refine keeps_mk ?_
  assumption

theorem setSlot_keeps {i st : Nat} {s : State} {s₀ : State} (h₀ : Keeps s₀ s) : Keeps s₀ (setSlot i st s) := by
  unfold setSlot
  apply setFld_keeps
  assumption

theorem admitImage_keeps {bad : List Nat} {s : State} {s₀ : State} (h₀ : Keeps s₀ s) : Keeps s₀ (admitImage bad s).2 := by
  unfold admitImage
  split
  refine keeps_pair ?_
  apply setFld_keeps
  apply setSlot_keeps
  refine admission_pair (by assumption) ?_
  assumption
  dsimp only
  apply emptySlot_keeps
  apply raise_keeps
  apply setFlds_keeps
  refine admission_pair (by assumption) ?_
  assumption
theorem admitImage_pair {bad : List Nat} {s : State} {s₀ : State} {a₀} {t₀ : State} (e₀ : admitImage bad s = (a₀, t₀)) (h₀ : Keeps s₀ s) : Keeps s₀ t₀ := by
  have k := @admitImage_keeps bad s s₀ h₀
  rw [e₀] at k; exact k

theorem stageImage_keeps {a n : Nat} {s : State} {s₀ : State} (h₀ : Keeps s₀ s) : Keeps s₀ (stageImage a n s) := by
  unfold stageImage
  dsimp only
  apply setFlds_keeps
  refine keeps_mk ?_
  assumption

end Sys2Proof.Machine
end

