-- ==== Sys2Proof/Laws/KeepClock.lean ====
section
/-! SUPPORT. One lemma for each definition of Machine/Clock.lean that answers a state: it keeps the queue and the canonical form. -/
namespace Sys2Proof.Machine

theorem updFreq_keeps {p : Nat} {s : State} {s₀ : State} (h₀ : Keeps s₀ s) : Keeps s₀ (updFreq p s) := by
  unfold updFreq
  apply setFld_keeps
  assumption

theorem updFreqs_keeps {s : State} {s₀ : State} (h₀ : Keeps s₀ s) : Keeps s₀ (updFreqs s) := by
  unfold updFreqs
  refine keeps_foldl ?_ ?_
  intro _
  intro _
  intro _
  apply updFreq_keeps
  assumption
  assumption

theorem setFset_keeps {p f : Nat} {s : State} {s₀ : State} (h₀ : Keeps s₀ s) : Keeps s₀ (setFset p f s) := by
  unfold setFset
  apply updFreq_keeps
  apply setFld_keeps
  assumption

theorem followFset_keeps {l h p : Nat} {s : State} {s₀ : State} (h₀ : Keeps s₀ s) : Keeps s₀ (followFset l h p s) := by
  unfold followFset
  apply setFset_keeps
  refine keeps_ite ?_ ?_
  apply setFset_keeps
  assumption
  assumption

theorem applyPower_keeps {s : State} {s₀ : State} (h₀ : Keeps s₀ s) : Keeps s₀ (applyPower s) := by
  unfold applyPower
  split
  apply updThrottle_keeps
  assumption
  dsimp only
  apply updThrottle_keeps
  apply updFreqs_keeps
  refine keeps_foldl ?_ ?_
  intro _
  intro _
  intro _
  apply setFld_keeps
  assumption
  refine keeps_mk ?_
  apply setFld_keeps
  assumption

end Sys2Proof.Machine
end

