-- ==== Sys2Proof/Laws/KeepMatrix.lean ====
section
/-! SUPPORT. One lemma for each definition of Machine/Matrix.lean that answers a state: it keeps the queue and the canonical form. -/
namespace Sys2Proof.Machine

theorem putJob_keeps {p : Nat} {j : MatJob} {s : State} {s₀ : State} (h₀ : Keeps s₀ s) : Keeps s₀ (putJob p j s) := by
  unfold putJob
  apply modCluster_keeps
  assumption

theorem dropJob_keeps {p : Nat} {j : MatJob} {s : State} {s₀ : State} (h₀ : Keeps s₀ s) : Keeps s₀ (dropJob p j s) := by
  unfold dropJob
  apply modCluster_keeps
  assumption

theorem matBusy_keeps {p : Nat} {s : State} {s₀ : State} (h₀ : Keeps s₀ s) : Keeps s₀ (matBusy p s) := by
  unfold matBusy
  dsimp only
  apply setFlds_keeps
  assumption

theorem matComplete_keeps {p : Nat} {j : MatJob} {s : State} {s₀ : State} (h₀ : Keeps s₀ s) : Keeps s₀ (matComplete p j s) := by
  unfold matComplete
  dsimp only
  apply complete_keeps
  apply setFld_keeps
  apply matBusy_keeps
  apply dropJob_keeps
  assumption

theorem matFail_keeps {p : Nat} {j : MatJob} {cause : Nat} {s : State} {s₀ : State} (h₀ : Keeps s₀ s) : Keeps s₀ (matFail p j cause s) := by
  unfold matFail
  dsimp only
  apply cmdFail_keeps
  apply matErr_keeps
  apply matBusy_keeps
  apply dropJob_keeps
  assumption

theorem clearSlots_keeps {p : Nat} {s : State} {s₀ : State} (h₀ : Keeps s₀ s) : Keeps s₀ (clearSlots p s) := by
  unfold clearSlots
  apply setFld_keeps
  apply modCluster_keeps
  assumption

theorem matSettle_keeps {p n : Nat} {s s₀ : State} (h₀ : Keeps s₀ s) : Keeps s₀ (matSettle p n s) := by
  induction n generalizing s with
  | zero => exact h₀
  | succ n ih =>
    unfold matSettle
    dsimp only
    split
    · split
      · exact ih (matComplete_keeps (clearSlots_keeps h₀))
      · exact h₀
    · exact h₀

theorem settled_keeps {p : Nat} {s : State} {s₀ : State} (h₀ : Keeps s₀ s) : Keeps s₀ (settled p s) := by
  unfold settled
  apply matSettle_keeps
  assumption

theorem matEnqueue_keeps {p : Nat} {l : Launched} {s : State} {s₀ : State} (h₀ : Keeps s₀ s) : Keeps s₀ (matEnqueue p l s) := by
  unfold matEnqueue
  dsimp only
  apply settled_keeps
  apply matBusy_keeps
  apply modCluster_keeps
  assumption

theorem execMatRun_keeps {p st b : Nat} {s : State} {s₀ : State} (h₀ : Keeps s₀ s) : KeepsO s₀ (execMatRun p st b s) := by
  unfold execMatRun
  refine keepsO_onUnits ?_ ?_
  intro _
  intro _
  apply launch_keeps
  intro _
  intro _
  intro _
  apply matEnqueue_keeps
  assumption
  apply advanceTo_keeps
  assumption
  assumption

theorem execMatReadout_keeps {p st b : Nat} {s : State} {s₀ : State} (h₀ : Keeps s₀ s) : KeepsO s₀ (execMatReadout p st b s) := by
  unfold execMatReadout
  refine keepsO_onUnits ?_ ?_
  intro _
  intro _
  apply launch_keeps
  intro _
  intro _
  intro _
  apply matEnqueue_keeps
  assumption
  apply advanceTo_keeps
  assumption
  assumption

theorem execMatClear_keeps {p st b : Nat} {s : State} {s₀ : State} (h₀ : Keeps s₀ s) : KeepsO s₀ (execMatClear p st b s) := by
  unfold execMatClear
  refine keepsO_onUnits ?_ ?_
  intro _
  intro _
  apply launch_keeps
  intro _
  intro _
  intro _
  apply matEnqueue_keeps
  assumption
  apply advanceTo_keeps
  assumption
  assumption

theorem runAccepted_keeps {p : Nat} {j : MatJob} {s : State} {s₀ : State} (h₀ : Keeps s₀ s) : Keeps s₀ (runAccepted p j s) := by
  unfold runAccepted
  dsimp only
  apply setFlds_keeps
  apply modCluster_keeps
  apply putJob_keeps
  assumption

theorem execMatDescArrive_keeps {p : Nat} {s : State} {s₀ : State} (h₀ : Keeps s₀ s) : KeepsO s₀ (execMatDescArrive p s) := by
  unfold execMatDescArrive
  refine keepsO_onUnit ?_ ?_
  intro _
  intro _
  split
  assumption
  dsimp only
  apply settled_keeps
  refine keeps_ite ?_ ?_
  apply matFail_keeps
  refine keeps_ite ?_ ?_
  apply eccRead_keeps
  assumption
  assumption
  refine keeps_ite ?_ ?_
  apply runAccepted_keeps
  refine keeps_ite ?_ ?_
  apply eccRead_keeps
  assumption
  assumption
  apply putJob_keeps
  refine keeps_ite ?_ ?_
  apply eccRead_keeps
  assumption
  assumption
  assumption

theorem execFeederLineArrive_keeps {p r : Nat} {s : State} {s₀ : State} (h₀ : Keeps s₀ s) : KeepsO s₀ (execFeederLineArrive p r s) := by
  unfold execFeederLineArrive
  refine keepsO_onUnits ?_ ?_
  intro _
  intro _
  dsimp only
  split
  assumption
  refine keeps_ite ?_ ?_
  assumption
  refine keeps_ite ?_ ?_
  apply countCl_keeps
  assumption
  apply putJob_keeps
  apply eccRead_keeps
  assumption
  assumption

theorem execActLineArrive_keeps {p : Nat} {s : State} {s₀ : State} (h₀ : Keeps s₀ s) : KeepsO s₀ (execActLineArrive p s) := by
  unfold execActLineArrive
  refine keepsO_onUnit ?_ ?_
  intro _
  intro _
  dsimp only
  split
  assumption
  split
  assumption
  refine keeps_ite ?_ ?_
  apply countCl_keeps
  assumption
  apply putJob_keeps
  apply eccRead_keeps
  assumption
  assumption

theorem setValid_keeps {p : Nat} {rows : List Nat} {v : Bool} {s : State} {s₀ : State} (h₀ : Keeps s₀ s) : Keeps s₀ (setValid p rows v s) := by
  unfold setValid
  dsimp only
  apply setFld_keeps
  assumption

theorem startPass_keeps {p : Nat} {j : MatJob} {s : State} {s₀ : State} (h₀ : Keeps s₀ s) : Keeps s₀ (startPass p j s) := by
  unfold startPass
  dsimp only
  apply countCl_keeps
  apply countCl_keeps
  apply countCl_keeps
  apply putJob_keeps
  apply modCluster_keeps
  assumption

theorem execMatPassStart_keeps {p : Nat} {s : State} {s₀ : State} (h₀ : Keeps s₀ s) : KeepsO s₀ (execMatPassStart p s) := by
  unfold execMatPassStart
  refine keepsO_onUnit ?_ ?_
  intro _
  intro _
  split
  assumption
  refine keeps_ite ?_ ?_
  assumption
  dsimp only
  refine keeps_ite ?_ ?_
  apply settled_keeps
  apply matFail_keeps
  assumption
  refine keeps_ite ?_ ?_
  apply settled_keeps
  apply matFail_keeps
  apply setValid_keeps
  assumption
  refine keeps_ite ?_ ?_
  apply countCl_keeps
  assumption
  refine keeps_ite ?_ ?_
  apply countCl_keeps
  assumption
  apply settled_keeps
  apply startPass_keeps
  assumption
  assumption

theorem execMatSlotUpdate_keeps {p : Nat} {s : State} {s₀ : State} (h₀ : Keeps s₀ s) : KeepsO s₀ (execMatSlotUpdate p s) := by
  unfold execMatSlotUpdate
  refine keepsO_onUnit ?_ ?_
  intro _
  intro _
  split
  assumption
  dsimp only
  apply settled_keeps
  refine keeps_ite ?_ ?_
  apply setValid_keeps
  apply modCluster_keeps
  assumption
  apply modCluster_keeps
  assumption
  assumption

theorem execMatRunComplete_keeps {p : Nat} {s : State} {s₀ : State} (h₀ : Keeps s₀ s) : KeepsO s₀ (execMatRunComplete p s) := by
  unfold execMatRunComplete
  refine keepsO_onUnit ?_ ?_
  intro _
  intro _
  dsimp only
  split
  assumption
  refine keeps_ite ?_ ?_
  assumption
  apply settled_keeps
  apply matComplete_keeps
  assumption
  assumption

theorem copySlots_keeps {p : Nat} {j : MatJob} {s : State} {s₀ : State} (h₀ : Keeps s₀ s) : Keeps s₀ (copySlots p j s) := by
  unfold copySlots
  dsimp only
  apply matBusy_keeps
  apply putJob_keeps
  apply setCluster_keeps
  assumption

theorem execMatReadoutCopy_keeps {p : Nat} {bad : List Nat} {s : State} {s₀ : State} (h₀ : Keeps s₀ s) : KeepsO s₀ (execMatReadoutCopy p bad s) := by
  unfold execMatReadoutCopy
  refine keepsO_onUnit ?_ ?_
  intro _
  intro _
  dsimp only
  split
  assumption
  refine keeps_ite ?_ ?_
  assumption
  refine keeps_ite ?_ ?_
  apply countCl_keeps
  assumption
  apply settled_keeps
  refine keeps_ite ?_ ?_
  apply matFail_keeps
  apply eccRead_keeps
  assumption
  refine keeps_ite ?_ ?_
  apply matFail_keeps
  assumption
  refine keeps_ite ?_ ?_
  apply matFail_keeps
  apply setValid_keeps
  assumption
  apply copySlots_keeps
  assumption
  assumption

theorem drainRows_keeps {p : Nat} {j : MatJob} {i : Nat} {l : List Nat} {s s₀ : State} (h₀ : Keeps s₀ s) : Keeps s₀ (drainRows p j i l s).2 := by
  induction l generalizing s with
  | nil => exact h₀
  | cons a t ih =>
    unfold drainRows
    dsimp only
    split
    · exact h₀
    · refine ih ?_
      refine keeps_ite ?_ ?_
      refine keeps_ite ?_ ?_
      apply spmStore_keeps
      assumption
      refine keeps_foldl ?_ ?_
      intro _
      intro _
      intro _
      apply spmStore_keeps
      assumption
      assumption
      apply modCluster_keeps
      refine keeps_ite ?_ ?_
      apply spmStore_keeps
      assumption
      refine keeps_foldl ?_ ?_
      intro _
      intro _
      intro _
      apply spmStore_keeps
      assumption
      assumption
theorem drainRows_pair {p : Nat} {j : MatJob} {i : Nat} {l : List Nat} {s s₀ : State} {a₀} {t₀ : State} (e₀ : drainRows p j i l s = (a₀, t₀)) (h₀ : Keeps s₀ s) : Keeps s₀ t₀ := by
  have k := @drainRows_keeps p j i l s s₀ h₀
  rw [e₀] at k; exact k

theorem execMatReadoutDrain_keeps {p : Nat} {s : State} {s₀ : State} (h₀ : Keeps s₀ s) : KeepsO s₀ (execMatReadoutDrain p s) := by
  unfold execMatReadoutDrain
  refine keepsO_onUnit ?_ ?_
  intro _
  intro _
  split
  assumption
  dsimp only
  refine keeps_ite ?_ ?_
  apply putJob_keeps
  apply drainRows_keeps
  refine keeps_ite ?_ ?_
  apply raiseArith_keeps
  assumption
  assumption
  apply settled_keeps
  apply matFail_keeps
  apply drainRows_keeps
  refine keeps_ite ?_ ?_
  apply raiseArith_keeps
  assumption
  assumption
  assumption

theorem execMatReadoutComplete_keeps {p : Nat} {s : State} {s₀ : State} (h₀ : Keeps s₀ s) : KeepsO s₀ (execMatReadoutComplete p s) := by
  unfold execMatReadoutComplete
  refine keepsO_onUnit ?_ ?_
  intro _
  intro _
  split
  assumption
  refine keeps_ite ?_ ?_
  assumption
  apply settled_keeps
  apply matComplete_keeps
  assumption
  assumption

end Sys2Proof.Machine
end

