-- ==== Sys2Proof/Laws/KeepVector.lean ====
section
/-! SUPPORT. One lemma for each definition of Machine/Vector.lean that answers a state: it keeps the queue and the canonical form. -/
namespace Sys2Proof.Machine

theorem applyWrites_keeps {p : Nat} {ws : List (Nat × List Byte)} {s : State} {s₀ : State} (h₀ : Keeps s₀ s) : Keeps s₀ (applyWrites p ws s) := by
  unfold applyWrites
  refine keeps_foldl ?_ ?_
  intro _
  intro _
  intro _
  apply spmStore_keeps
  assumption
  assumption

theorem vecRows_keeps {p o f : Nat} {repro : Bool} {d : List Byte} {src : Option State} {l : List Nat} {fl : Nat} {s s₀ : State} (h₀ : Keeps s₀ s) :
    Keeps s₀ (vecRows p o f repro d src l fl s).2.2 := by
  induction l generalizing fl s with
  | nil => exact h₀
  | cons a t ih =>
    unfold vecRows
    split
    · exact eccRead_keeps h₀
    · dsimp only
      split
      · exact h₀
      · exact ih (keeps_mk (applyWrites_keeps h₀))

theorem vecRun_keeps {p : Nat} {j : VecJob} {s : State} {s₀ : State} (h₀ : Keeps s₀ s) : Keeps s₀ (vecRun p j s).2 := by
  unfold vecRun
  dsimp only
  refine keeps_ite2 ?_ ?_
  refine keeps_pair ?_
  refine keeps_ite ?_ ?_
  apply eccRead_keeps
  assumption
  assumption
  refine keeps_pair ?_
  apply countCl_keeps
  apply raiseArith_keeps
  apply vecRows_keeps
  assumption
theorem vecRun_pair {p : Nat} {j : VecJob} {s : State} {s₀ : State} {a₀} {t₀ : State} (e₀ : vecRun p j s = (a₀, t₀)) (h₀ : Keeps s₀ s) : Keeps s₀ t₀ := by
  have k := @vecRun_keeps p j s s₀ h₀
  rw [e₀] at k; exact k

theorem vecAdvance_keeps {p n : Nat} {s s₀ : State} (h₀ : Keeps s₀ s) : Keeps s₀ (vecAdvance p n s) := by
  induction n generalizing s with
  | zero => exact h₀
  | succ n ih =>
    unfold vecAdvance
    split
    · exact h₀
    · dsimp only
      split
      · exact h₀
      · split
        · exact modCluster_keeps (vecRun_keeps h₀)
        · exact ih (cmdFail_keeps (modCluster_keeps (vecRun_keeps h₀)))

theorem vecEnqueue_keeps {p : Nat} {l : Launched} {s : State} {s₀ : State} (h₀ : Keeps s₀ s) : Keeps s₀ (vecEnqueue p l s) := by
  unfold vecEnqueue
  dsimp only
  apply vecAdvance_keeps
  apply modCluster_keeps
  assumption

theorem launchVec_keeps {p st b o : Nat} {s : State} {s₀ : State} (h₀ : Keeps s₀ s) : Keeps s₀ (launchVec p st b o s) := by
  unfold launchVec
  apply launch_keeps
  intro _
  intro _
  intro _
  apply vecEnqueue_keeps
  assumption
  apply advanceTo_keeps
  assumption

theorem execVecEw_keeps {p st b : Nat} {s : State} {s₀ : State} (h₀ : Keeps s₀ s) : KeepsO s₀ (execVecEw p st b s) := by
  unfold execVecEw
  refine keepsO_onUnits ?_ ?_
  intro _
  intro _
  apply launchVec_keeps
  assumption
  assumption

theorem execVecSfu_keeps {p st b : Nat} {s : State} {s₀ : State} (h₀ : Keeps s₀ s) : KeepsO s₀ (execVecSfu p st b s) := by
  unfold execVecSfu
  refine keepsO_onUnits ?_ ?_
  intro _
  intro _
  apply launchVec_keeps
  assumption
  assumption

theorem execVecRed_keeps {p st b : Nat} {s : State} {s₀ : State} (h₀ : Keeps s₀ s) : KeepsO s₀ (execVecRed p st b s) := by
  unfold execVecRed
  refine keepsO_onUnits ?_ ?_
  intro _
  intro _
  apply launchVec_keeps
  assumption
  assumption

theorem execVecSmax_keeps {p st b : Nat} {s : State} {s₀ : State} (h₀ : Keeps s₀ s) : KeepsO s₀ (execVecSmax p st b s) := by
  unfold execVecSmax
  refine keepsO_onUnits ?_ ?_
  intro _
  intro _
  apply launchVec_keeps
  assumption
  assumption

theorem execVecNorm_keeps {p st b : Nat} {s : State} {s₀ : State} (h₀ : Keeps s₀ s) : KeepsO s₀ (execVecNorm p st b s) := by
  unfold execVecNorm
  refine keepsO_onUnits ?_ ?_
  intro _
  intro _
  apply launchVec_keeps
  assumption
  assumption

theorem execVecCvt_keeps {p st b : Nat} {s : State} {s₀ : State} (h₀ : Keeps s₀ s) : KeepsO s₀ (execVecCvt p st b s) := by
  unfold execVecCvt
  refine keepsO_onUnits ?_ ?_
  intro _
  intro _
  apply launchVec_keeps
  assumption
  assumption

theorem execVecMove_keeps {p st b : Nat} {s : State} {s₀ : State} (h₀ : Keeps s₀ s) : KeepsO s₀ (execVecMove p st b s) := by
  unfold execVecMove
  refine keepsO_onUnits ?_ ?_
  intro _
  intro _
  apply launchVec_keeps
  assumption
  assumption

theorem execVecComplete_keeps {p : Nat} {s : State} {s₀ : State} (h₀ : Keeps s₀ s) : KeepsO s₀ (execVecComplete p s) := by
  unfold execVecComplete
  refine keepsO_onUnit ?_ ?_
  intro _
  intro _
  split
  assumption
  refine keeps_ite ?_ ?_
  assumption
  dsimp only
  apply vecAdvance_keeps
  apply complete_keeps
  apply modCluster_keeps
  assumption
  assumption

end Sys2Proof.Machine
end

