-- ==== Sys2Proof/Laws/KeepToken.lean ====
section
/-! SUPPORT. One lemma for each definition of Machine/Token.lean that answers a state: it keeps the queue and the canonical form. -/
namespace Sys2Proof.Machine

theorem drawFrom_keeps {c : Samp} {ps : List (Nat × Nat)} {j : Nat} {s : State} {s₀ : State} (h₀ : Keeps s₀ s) : Keeps s₀ (drawFrom c ps j s).2 := by
  unfold drawFrom
  refine keeps_ite2 ?_ ?_
  split
  refine keeps_pair ?_
  refine takeFree_pair (by assumption) ?_
  assumption
  refine keeps_pair ?_
  assumption
theorem drawFrom_pair {c : Samp} {ps : List (Nat × Nat)} {j : Nat} {s : State} {s₀ : State} {a₀} {t₀ : State} (e₀ : drawFrom c ps j s = (a₀, t₀)) (h₀ : Keeps s₀ s) : Keeps s₀ t₀ := by
  have k := @drawFrom_keeps c ps j s s₀ h₀
  rw [e₀] at k; exact k

theorem choose_keeps {c : Samp} {logits : List Nat} {s : State} {s₀ : State} (h₀ : Keeps s₀ s) : Keeps s₀ (choose c logits s).2 := by
  unfold choose
  dsimp only
  refine keeps_ite2 ?_ ?_
  refine keeps_pair ?_
  assumption
  refine keeps_ite2 ?_ ?_
  refine keeps_pair ?_
  assumption
  refine keeps_pair ?_
  apply drawFrom_keeps
  assumption
theorem choose_pair {c : Samp} {logits : List Nat} {s : State} {s₀ : State} {a₀} {t₀ : State} (e₀ : choose c logits s = (a₀, t₀)) (h₀ : Keeps s₀ s) : Keeps s₀ t₀ := by
  have k := @choose_keeps c logits s s₀ h₀
  rw [e₀] at k; exact k

theorem verifyDrafts_keeps {c : Samp} {ds : List (Nat × List Nat)} {rows : List (List Nat)} {s s₀ : State} (h₀ : Keeps s₀ s) :
    Keeps s₀ (verifyDrafts c ds rows s).2.2 := by
  induction ds generalizing c rows s with
  | nil =>
    have h2 := @choose_keeps c (rows.headD []) s s₀ h₀
    unfold verifyDrafts
    split
    · rename_i e
      rw [e] at h2
      exact h2
    · rename_i e
      rw [e] at h2
      exact h2
  | cons a t ih =>
    obtain ⟨d, q⟩ := a
    unfold verifyDrafts
    dsimp only
    split
    · exact h₀
    · split
      · split
        · exact ih h₀
        · exact h₀
      · split
        · exact ih h₀
        · exact drawFrom_keeps h₀

end Sys2Proof.Machine
end

