-- ==== Sys2Proof/Laws/KeepSvc.lean ====
section
/-! SUPPORT. One lemma for each definition of Machine/Svc.lean that answers a state: it keeps the queue and the canonical form. -/
namespace Sys2Proof.Machine

theorem modReq_keeps {r : Req} {f : Req → Req} {s : State} {s₀ : State} (h₀ : Keeps s₀ s) : Keeps s₀ (modReq r f s) := by
  unfold modReq
  refine keeps_mk ?_
  assumption

theorem modReqs_keeps {f : Req → Req} {s : State} {s₀ : State} (h₀ : Keeps s₀ s) : Keeps s₀ (modReqs f s) := by
  unfold modReqs
  refine keeps_mk ?_
  assumption

theorem intakeErr_keeps {ring reason id : Nat} {s : State} {s₀ : State} (h₀ : Keeps s₀ s) : Keeps s₀ (intakeErr ring reason id s) := by
  unfold intakeErr
  dsimp only
  apply raise_keeps
  apply wr_keeps
  apply setFlds_keeps
  assumption

theorem readBlocks_keeps {u : Nat} {l : List (Nat × Nat)} {s s₀ : State} (h₀ : Keeps s₀ s) : Keeps s₀ (readBlocks u l s).2 := by
  induction l generalizing s with
  | nil => exact h₀
  | cons a t ih =>
    obtain ⟨x, n⟩ := a
    have h2 := @devRead_keeps srcCore u x n s s₀ h₀
    unfold readBlocks
    dsimp only
    split
    · exact ih h₀
    · split
      · rename_i e
        rw [e] at h2
        exact ih h2
      · rename_i e
        rw [e] at h2
        exact ih h2
      · rename_i e
        rw [e] at h2
        exact ih h2
theorem readBlocks_pair {u : Nat} {l : List (Nat × Nat)} {s s₀ : State} {a₀} {t₀ : State} (e₀ : readBlocks u l s = (a₀, t₀)) (h₀ : Keeps s₀ s) : Keeps s₀ t₀ := by
  have k := @readBlocks_keeps u l s s₀ h₀
  rw [e₀] at k; exact k

theorem advanceRing_keeps {r : Nat} {q : Ring} {upto other : Nat} {s : State} {s₀ : State} (h₀ : Keeps s₀ s) : Keeps s₀ (advanceRing r q upto other s) := by
  unfold advanceRing
  split
  refine keeps_mk ?_
  refine devWrite_pair (by assumption) ?_
  assumption
  refine devWrite_pair (by assumption) ?_
  assumption

theorem execIntakeDescriptor_keeps {r : Nat} {s : State} {s₀ : State} (h₀ : Keeps s₀ s) : KeepsO s₀ (execIntakeDescriptor r s) := by
  unfold execIntakeDescriptor
  refine keepsO_onUnit ?_ ?_
  intro _
  intro _
  split
  assumption
  refine keeps_ite ?_ ?_
  assumption
  split
  dsimp only
  refine keeps_ite ?_ ?_
  refine keeps_ite ?_ ?_
  apply intakeErr_keeps
  apply advanceRing_keeps
  refine devRead_pair (by assumption) ?_
  assumption
  apply advanceRing_keeps
  refine devRead_pair (by assumption) ?_
  assumption
  refine keeps_ite ?_ ?_
  refine devRead_pair (by assumption) ?_
  assumption
  split
  refine keeps_ite ?_ ?_
  refine devRead_pair (by assumption) ?_
  refine devRead_pair (by assumption) ?_
  assumption
  split
  refine readBlocks_pair (by assumption) ?_
  refine devRead_pair (by assumption) ?_
  refine devRead_pair (by assumption) ?_
  assumption
  refine keeps_ite ?_ ?_
  refine keeps_mk ?_
  apply advanceRing_keeps
  refine readBlocks_pair (by assumption) ?_
  refine devRead_pair (by assumption) ?_
  refine devRead_pair (by assumption) ?_
  assumption
  apply advanceRing_keeps
  refine readBlocks_pair (by assumption) ?_
  refine devRead_pair (by assumption) ?_
  refine devRead_pair (by assumption) ?_
  assumption
  refine devRead_pair (by assumption) ?_
  refine devRead_pair (by assumption) ?_
  assumption
  refine devRead_pair (by assumption) ?_
  assumption
  assumption

theorem submitTaken_keeps {t : Taken} {s : State} {s₀ : State} (h₀ : Keeps s₀ s) : Keeps s₀ (submitTaken t s) := by
  unfold submitTaken
  split
  refine keeps_mk ?_
  assumption
  apply intakeErr_keeps
  assumption

theorem execReqSubmit_keeps {s : State} {s₀ : State} (h₀ : Keeps s₀ s) : KeepsO s₀ (execReqSubmit s) := by
  unfold execReqSubmit
  split
  refine keepsO_next ?_
  assumption
  refine keepsO_next ?_
  apply submitTaken_keeps
  refine keeps_mk ?_
  assumption

theorem cancelReq_keeps {ring id : Nat} {s : State} {s₀ : State} (h₀ : Keeps s₀ s) : Keeps s₀ (cancelReq ring id s).2 := by
  unfold cancelReq
  split
  refine keeps_pair ?_
  assumption
  refine keeps_pair ?_
  apply modReq_keeps
  assumption
theorem cancelReq_pair {ring id : Nat} {s : State} {s₀ : State} {a₀} {t₀ : State} (e₀ : cancelReq ring id s = (a₀, t₀)) (h₀ : Keeps s₀ s) : Keeps s₀ t₀ := by
  have k := @cancelReq_keeps ring id s s₀ h₀
  rw [e₀] at k; exact k

theorem execReqCancel_keeps {s : State} {s₀ : State} (h₀ : Keeps s₀ s) : KeepsO s₀ (execReqCancel s) := by
  unfold execReqCancel
  split
  refine keepsO_next ?_
  assumption
  dsimp only
  refine keepsO_ite ?_ ?_
  refine keepsO_next ?_
  apply intakeErr_keeps
  refine keeps_mk ?_
  assumption
  split
  refine keepsO_next ?_
  refine cancelReq_pair (by assumption) ?_
  refine keeps_mk ?_
  assumption
  refine keepsO_next ?_
  apply intakeErr_keeps
  refine cancelReq_pair (by assumption) ?_
  refine keeps_mk ?_
  assumption

theorem execWaitLimitTimeout_keeps {b : Nat} {s : State} {s₀ : State} (h₀ : Keeps s₀ s) : KeepsO s₀ (execWaitLimitTimeout b s) := by
  unfold execWaitLimitTimeout
  dsimp only
  refine keepsO_next ?_
  apply modReqs_keeps
  apply advanceTo_keeps
  assumption

theorem passageTokens_keeps {l : List Byte} {s s₀ : State} (h₀ : Keeps s₀ s) : Keeps s₀ (passageTokens l s).2 := by
  unfold passageTokens
  split
  refine keeps_pair ?_
  refine devRead_pair (by assumption) ?_
  assumption
  refine keeps_pair ?_
  refine devRead_pair (by assumption) ?_
  assumption
  refine keeps_ite2 ?_ ?_
  refine keeps_pair ?_
  refine devRead_pair (by assumption) ?_
  assumption
  refine keeps_pair ?_
  refine devRead_pair (by assumption) ?_
  assumption

theorem addPassages_keeps {b room : Nat} {l : List (Nat × Nat)} {s s₀ : State} (h₀ : Keeps s₀ s) : Keeps s₀ (addPassages b l room s).2 := by
  induction l generalizing room s with
  | nil => exact h₀
  | cons a t ih =>
    have h2 := @passageTokens_keeps (hbmPeek s (b + 16 * a.2) 16) s s₀ h₀
    unfold addPassages
    split
    · rename_i e
      rw [e] at h2
      exact h2
    · rename_i ids s2 e
      rw [e] at h2
      dsimp only
      split
      · exact h2
      · have h3 := @ih (room - (ids ++ [cpl s2 0x4C 4]).length) s2 h2
        split
        · rename_i e3
          rw [e3] at h3
          exact h3
        · rename_i e3
          rw [e3] at h3
          exact h3
theorem addPassages_pair {b room : Nat} {l : List (Nat × Nat)} {s s₀ : State} {a₀} {t₀ : State} (e₀ : addPassages b l room s = (a₀, t₀)) (h₀ : Keeps s₀ s) : Keeps s₀ t₀ := by
  have k := @addPassages_keeps b room l s s₀ h₀
  rw [e₀] at k; exact k

theorem execRetrievalMerge_keeps {ring id : Nat} {lists : List (List (Nat × Nat))} {s : State} {s₀ : State} (h₀ : Keeps s₀ s) : KeepsO s₀ (execRetrievalMerge ring id lists s) := by
  unfold execRetrievalMerge
  split
  refine keepsO_next ?_
  assumption
  refine keepsO_ite ?_ ?_
  refine keepsO_next ?_
  assumption
  dsimp only
  split
  refine keepsO_next ?_
  refine addPassages_pair (by assumption) ?_
  assumption
  refine keepsO_next ?_
  apply modReq_keeps
  refine addPassages_pair (by assumption) ?_
  assumption

theorem evictOne_some {s t s₀ : State} (e : evictOne s = some t) (h₀ : Keeps s₀ s) : Keeps s₀ t := by
  unfold evictOne at e
  rw [Option.map_eq_some_iff] at e
  obtain ⟨x, _, rfl⟩ := e
  exact keeps_mk h₀

theorem makeRoom_keeps {n m : Nat} {s s₀ : State} (h₀ : Keeps s₀ s) : Keeps s₀ (makeRoom n m s) := by
  induction m generalizing s with
  | zero => exact h₀
  | succ m ih =>
    unfold makeRoom
    split
    · exact h₀
    · split
      · exact h₀
      · rename_i e
        exact ih (evictOne_some e h₀)

theorem makeRoomFor_keeps {n : Nat} {s : State} {s₀ : State} (h₀ : Keeps s₀ s) : Keeps s₀ (makeRoomFor n s) := by
  unfold makeRoomFor
  apply makeRoom_keeps
  assumption

theorem writeTable_keeps {r : Req} {k : Nat} {s : State} {s₀ : State} (h₀ : Keeps s₀ s) : Keeps s₀ (writeTable r k s) := by
  unfold writeTable
  refine keeps_foldl ?_ ?_
  intro _
  intro _
  intro _
  refine keeps_foldl ?_ ?_
  intro _
  intro _
  intro _
  dsimp only
  apply fwWrite_keeps
  assumption
  assumption
  assumption

theorem takeSets_keeps {r : Req} {n : Nat} {s : State} {s₀ : State} (h₀ : Keeps s₀ s) : Keeps s₀ (takeSets r n s) := by
  unfold takeSets
  dsimp only
  apply writeTable_keeps
  apply modReq_keeps
  assumption

theorem cacheSets_keeps {r : Req} {s : State} {s₀ : State} (h₀ : Keeps s₀ s) : Keeps s₀ (cacheSets r s) := by
  unfold cacheSets
  refine keeps_ite ?_ ?_
  assumption
  dsimp only
  refine keeps_foldl ?_ ?_
  intro _
  intro _
  intro _
  refine keeps_ite ?_ ?_
  assumption
  refine keeps_mk ?_
  assumption
  assumption

theorem preempt_keeps {r : Req} {s : State} {s₀ : State} (h₀ : Keeps s₀ s) : Keeps s₀ (preempt r s) := by
  unfold preempt
  dsimp only
  apply modReq_keeps
  split
  assumption
  refine keeps_foldl ?_ ?_
  intro _
  intro _
  intro _
  refine keeps_foldl ?_ ?_
  intro _
  intro _
  intro _
  apply devWrite_keeps
  assumption
  assumption
  assumption

theorem growSet_keeps {n : Nat} {r : Req} {s s₀ : State} (h₀ : Keeps s₀ s) : Keeps s₀ (growSet n r s) := by
  induction n generalizing r s with
  | zero => exact h₀
  | succ n ih =>
    unfold growSet
    split
    · exact h₀
    · dsimp only
      split
      · exact h₀
      · split
        · exact takeSets_keeps (makeRoomFor_keeps h₀)
        · split
          · exact makeRoomFor_keeps h₀
          · exact ih (preempt_keeps (makeRoomFor_keeps h₀))

theorem growReq_keeps {r : Req} {s s₀ : State} (h₀ : Keeps s₀ s) : Keeps s₀ (growReq s r) := by
  unfold growReq
  exact keeps_foldl (fun _ _ h => growSet_keeps h) h₀

theorem releaseEnded_keeps {s : State} {s₀ : State} (h₀ : Keeps s₀ s) : Keeps s₀ (releaseEnded s) := by
  unfold releaseEnded
  refine keeps_mk ?_
  assumption

theorem restoreOne_keeps {r : Req} {s : State} {s₀ : State} (h₀ : Keeps s₀ s) : Keeps s₀ (restoreOne r s).2 := by
  unfold restoreOne
  dsimp only
  refine keeps_ite2 ?_ ?_
  refine keeps_pair ?_
  apply makeRoomFor_keeps
  assumption
  split
  refine keeps_pair ?_
  apply modReq_keeps
  apply takeSets_keeps
  apply makeRoomFor_keeps
  assumption
  split
  refine keeps_pair ?_
  apply modReq_keeps
  refine keeps_foldl ?_ ?_
  intro _
  intro _
  intro _
  refine keeps_foldl ?_ ?_
  intro _
  intro _
  intro _
  apply fwWrite_keeps
  assumption
  assumption
  apply takeSets_keeps
  refine devRead_pair (by assumption) ?_
  apply makeRoomFor_keeps
  assumption
  refine keeps_pair ?_
  refine devRead_pair (by assumption) ?_
  apply makeRoomFor_keeps
  assumption
theorem restoreOne_pair {r : Req} {s : State} {s₀ : State} {a₀} {t₀ : State} (e₀ : restoreOne r s = (a₀, t₀)) (h₀ : Keeps s₀ s) : Keeps s₀ t₀ := by
  have k := @restoreOne_keeps r s s₀ h₀
  rw [e₀] at k; exact k

theorem restoreAll_keeps {l : List Req} {s s₀ : State} (h₀ : Keeps s₀ s) : Keeps s₀ (restoreAll l s) := by
  induction l generalizing s with
  | nil => exact h₀
  | cons a t ih =>
    have h2 := @restoreOne_keeps a s s₀ h₀
    unfold restoreAll
    split
    · rename_i e
      rw [e] at h2
      exact ih h2
    · rename_i e
      rw [e] at h2
      exact h2

theorem setDeficit_keeps {c n : Nat} {s : State} {s₀ : State} (h₀ : Keeps s₀ s) : Keeps s₀ (setDeficit c n s) := by
  unfold setDeficit
  refine keeps_mk ?_
  assumption

theorem admitReq_some {r : Req} {s t s₀ : State} (e : admitReq r s = some t) (h₀ : Keeps s₀ s) : Keeps s₀ t := by
  unfold admitReq at e
  dsimp only at e
  split at e
  · cases e
  · split at e
    · cases e
    · rw [← Option.some.inj e]
      apply setDeficit_keeps
      apply takeSets_keeps
      apply writeTable_keeps
      apply modReq_keeps
      refine keeps_mk ?_
      apply makeRoomFor_keeps
      apply modReq_keeps
      refine keeps_mk ?_
      assumption

theorem admitAll_keeps {n : Nat} {s s₀ : State} (h₀ : Keeps s₀ s) : Keeps s₀ (admitAll n s) := by
  induction n generalizing s with
  | zero => exact h₀
  | succ n ih =>
    unfold admitAll
    split
    · exact h₀
    · split
      · exact h₀
      · rename_i e
        exact ih (admitReq_some e h₀)

theorem readConsumer_keeps {ans : Nat} {s : State} {s₀ : State} (h₀ : Keeps s₀ s) : Keeps s₀ (readConsumer ans s) := by
  unfold readConsumer
  split
  assumption
  split
  refine keeps_mk ?_
  refine devRead_pair (by assumption) ?_
  assumption
  refine devRead_pair (by assumption) ?_
  assumption

theorem assignChunks_keeps {l : List Req} {n : Nat} {s s₀ : State} (h₀ : Keeps s₀ s) : Keeps s₀ (assignChunks l n s) := by
  induction l generalizing n s with
  | nil => exact h₀
  | cons a t ih =>
    unfold assignChunks
    dsimp only
    refine ih ?_
    apply cacheSets_keeps
    apply modReq_keeps
    assumption

theorem execStepBoundary_keeps {b : Nat} {s : State} {s₀ : State} (h₀ : Keeps s₀ s) : KeepsO s₀ (execStepBoundary b s) := by
  unfold execStepBoundary
  dsimp only
  refine keepsO_ite ?_ ?_
  refine keepsO_next ?_
  apply advanceTo_keeps
  assumption
  refine keepsO_next ?_
  apply modReqs_keeps
  refine keeps_mk ?_
  apply setFld_keeps
  refine keeps_foldl ?_ ?_
  intro _
  intro _
  intro _
  apply growReq_keeps
  assumption
  apply assignChunks_keeps
  refine keeps_foldl ?_ ?_
  intro _
  intro _
  intro _
  refine keeps_ite ?_ ?_
  apply readConsumer_keeps
  assumption
  assumption
  apply admitAll_keeps
  refine keeps_foldl ?_ ?_
  intro _
  intro _
  intro _
  apply setDeficit_keeps
  assumption
  apply restoreAll_keeps
  apply releaseEnded_keeps
  apply modReqs_keeps
  apply advanceTo_keeps
  assumption

theorem execSampleToken_keeps {ring id : Nat} {logits : List (List Nat)} {drafts : List (Nat × List Nat)} {b : Nat} {s : State} {s₀ : State} (h₀ : Keeps s₀ s) : KeepsO s₀ (execSampleToken ring id logits drafts b s) := by
  unfold execSampleToken
  dsimp only
  split
  refine keepsO_next ?_
  apply advanceTo_keeps
  assumption
  refine keepsO_ite ?_ ?_
  refine keepsO_next ?_
  apply advanceTo_keeps
  assumption
  refine keepsO_next ?_
  apply modReq_keeps
  apply verifyDrafts_keeps
  apply advanceTo_keeps
  assumption

theorem answerPacket_keeps {r : Req} {rcd : List Byte} {s : State} {s₀ : State} (h₀ : Keeps s₀ s) : Keeps s₀ (answerPacket r rcd s) := by
  unfold answerPacket
  apply fabSend_keeps
  assumption

theorem putRecord_keeps {ans : Nat} {rcd : List Byte} {s : State} {s₀ : State} (h₀ : Keeps s₀ s) : Keeps s₀ (putRecord ans rcd s) := by
  unfold putRecord
  split
  assumption
  dsimp only
  apply companionWrite_keeps
  refine keeps_mk ?_
  assumption

theorem writeRecord_keeps {r : Req} {s : State} {s₀ : State} (h₀ : Keeps s₀ s) : Keeps s₀ (writeRecord r s) := by
  unfold writeRecord
  dsimp only
  refine keeps_ite ?_ ?_
  apply modReq_keeps
  apply answerPacket_keeps
  refine keeps_ite ?_ ?_
  apply readConsumer_keeps
  assumption
  assumption
  refine keeps_ite ?_ ?_
  apply modReq_keeps
  refine keeps_ite ?_ ?_
  apply readConsumer_keeps
  assumption
  assumption
  refine keeps_ite ?_ ?_
  apply modReq_keeps
  apply putRecord_keeps
  refine keeps_ite ?_ ?_
  apply readConsumer_keeps
  assumption
  assumption
  refine keeps_ite ?_ ?_
  apply readConsumer_keeps
  assumption
  assumption

theorem execAnswerRecordWrite_keeps {ring id : Nat} {s : State} {s₀ : State} (h₀ : Keeps s₀ s) : KeepsO s₀ (execAnswerRecordWrite ring id s) := by
  unfold execAnswerRecordWrite
  split
  refine keepsO_next ?_
  assumption
  dsimp only
  refine keepsO_next ?_
  refine keeps_mk ?_
  refine keeps_ite ?_ ?_
  apply writeRecord_keeps
  assumption
  assumption

theorem execAnswerFlushTimeout_keeps {ring id b : Nat} {s : State} {s₀ : State} (h₀ : Keeps s₀ s) : KeepsO s₀ (execAnswerFlushTimeout ring id b s) := by
  unfold execAnswerFlushTimeout
  dsimp only
  split
  refine keepsO_next ?_
  apply advanceTo_keeps
  assumption
  refine keepsO_next ?_
  refine keeps_whenS ?_ ?_
  intro _
  intro _
  apply writeRecord_keeps
  assumption
  apply advanceTo_keeps
  assumption

theorem answerEvt_keeps {ans : Nat} {s : State} {s₀ : State} (h₀ : Keeps s₀ s) : Keeps s₀ (answerEvt ans s) := by
  unfold answerEvt
  refine keeps_foldl ?_ ?_
  intro _
  intro _
  intro _
  refine keeps_ite ?_ ?_
  apply send_keeps
  assumption
  assumption
  assumption

theorem execAnswerIndexWrite_keeps {ans : Nat} {s : State} {s₀ : State} (h₀ : Keeps s₀ s) : KeepsO s₀ (execAnswerIndexWrite ans s) := by
  unfold execAnswerIndexWrite
  refine keepsO_onUnit ?_ ?_
  intro _
  intro _
  split
  refine keeps_ite ?_ ?_
  assumption
  refine keeps_ite ?_ ?_
  apply putRecord_keeps
  refine keeps_mk ?_
  assumption
  split
  apply answerEvt_keeps
  refine keeps_mk ?_
  refine devWrite_pair (by assumption) ?_
  assumption
  refine devWrite_pair (by assumption) ?_
  assumption
  assumption
  assumption

theorem execAnswerStallTimeout_keeps {ring id b : Nat} {s : State} {s₀ : State} (h₀ : Keeps s₀ s) : KeepsO s₀ (execAnswerStallTimeout ring id b s) := by
  unfold execAnswerStallTimeout
  dsimp only
  split
  refine keepsO_next ?_
  apply advanceTo_keeps
  assumption
  refine keepsO_next ?_
  refine keeps_whenS ?_ ?_
  intro _
  intro _
  apply modReq_keeps
  assumption
  apply advanceTo_keeps
  assumption

theorem execCoreFail_keeps {k : Nat} {s : State} {s₀ : State} (h₀ : Keeps s₀ s) : KeepsO s₀ (execCoreFail k s) := by
  unfold execCoreFail
  refine keepsO_onUnit ?_ ?_
  intro _
  intro _
  dsimp only
  refine keeps_whenS ?_ ?_
  intro _
  intro _
  refine keeps_foldl ?_ ?_
  intro _
  intro _
  intro _
  refine keeps_ite ?_ ?_
  assumption
  apply putRecord_keeps
  assumption
  apply addRecord_keeps
  apply setFld_keeps
  assumption
  assumption
  assumption

theorem execRingOpen_keeps {rid a0 a1 a2 a3 : Nat} {s : State} {s₀ : State} (h₀ : Keeps s₀ s) : KeepsO s₀ (execRingOpen rid a0 a1 a2 a3 s) := by
  unfold execRingOpen
  refine keepsO_next ?_
  apply service_keeps
  intro _
  intro _
  refine keeps_ite2 ?_ ?_
  refine keeps_pair ?_
  assumption
  refine keeps_ite2 ?_ ?_
  refine keeps_pair ?_
  assumption
  dsimp only
  refine keeps_ite2 ?_ ?_
  split
  refine keeps_pair ?_
  assumption
  refine keeps_pair ?_
  refine keeps_mk ?_
  assumption
  split
  refine keeps_pair ?_
  assumption
  refine keeps_pair ?_
  refine keeps_mk ?_
  assumption
  assumption

theorem execRingClose_keeps {rid a0 a1 : Nat} {s : State} {s₀ : State} (h₀ : Keeps s₀ s) : KeepsO s₀ (execRingClose rid a0 a1 s) := by
  unfold execRingClose
  refine keepsO_next ?_
  apply service_keeps
  intro _
  intro _
  refine keeps_ite2 ?_ ?_
  split
  refine keeps_pair ?_
  assumption
  refine keeps_ite2 ?_ ?_
  refine keeps_pair ?_
  assumption
  refine keeps_pair ?_
  refine keeps_mk ?_
  assumption
  split
  refine keeps_pair ?_
  assumption
  refine keeps_ite2 ?_ ?_
  refine keeps_pair ?_
  assumption
  refine keeps_ite2 ?_ ?_
  refine keeps_pair ?_
  assumption
  refine keeps_pair ?_
  refine keeps_mk ?_
  assumption
  assumption

theorem execRingStatus_keeps {rid a0 a1 : Nat} {s : State} {s₀ : State} (h₀ : Keeps s₀ s) : KeepsO s₀ (execRingStatus rid a0 a1 s) := by
  unfold execRingStatus
  refine keepsO_next ?_
  apply serviceRead_keeps
  assumption

theorem execTokLoad_keeps {rid a0 a1 a2 : Nat} {s : State} {s₀ : State} (h₀ : Keeps s₀ s) : KeepsO s₀ (execTokLoad rid a0 a1 a2 s) := by
  unfold execTokLoad
  refine keepsO_next ?_
  apply service_keeps
  intro _
  intro _
  refine keeps_ite2 ?_ ?_
  refine keeps_pair ?_
  assumption
  refine keeps_ite2 ?_ ?_
  refine keeps_pair ?_
  assumption
  dsimp only
  refine keeps_ite2 ?_ ?_
  refine keeps_pair ?_
  apply verify_keeps
  assumption
  refine keeps_pair ?_
  apply measure_keeps
  refine keeps_mk ?_
  apply verify_keeps
  assumption
  assumption

theorem execTokUnload_keeps {rid a0 : Nat} {s : State} {s₀ : State} (h₀ : Keeps s₀ s) : KeepsO s₀ (execTokUnload rid a0 s) := by
  unfold execTokUnload
  refine keepsO_next ?_
  apply service_keeps
  intro _
  intro _
  refine keeps_ite2 ?_ ?_
  refine keeps_pair ?_
  assumption
  refine keeps_ite2 ?_ ?_
  refine keeps_pair ?_
  assumption
  refine keeps_pair ?_
  refine keeps_mk ?_
  assumption
  assumption

theorem execSvcCancel_keeps {rid a0 a1 : Nat} {s : State} {s₀ : State} (h₀ : Keeps s₀ s) : KeepsO s₀ (execSvcCancel rid a0 a1 s) := by
  unfold execSvcCancel
  refine keepsO_next ?_
  apply service_keeps
  intro _
  intro _
  split
  refine keeps_pair ?_
  refine cancelReq_pair (by assumption) ?_
  assumption
  refine keeps_pair ?_
  refine cancelReq_pair (by assumption) ?_
  assumption
  assumption

theorem execReqStatus_keeps {rid a0 a1 : Nat} {s : State} {s₀ : State} (h₀ : Keeps s₀ s) : KeepsO s₀ (execReqStatus rid a0 a1 s) := by
  unfold execReqStatus
  refine keepsO_next ?_
  apply service_keeps
  intro _
  intro _
  split
  refine keeps_pair ?_
  assumption
  refine keeps_pair ?_
  assumption
  assumption

theorem execSvcAdmit_keeps {rid a0 : Nat} {s : State} {s₀ : State} (h₀ : Keeps s₀ s) : KeepsO s₀ (execSvcAdmit rid a0 s) := by
  unfold execSvcAdmit
  refine keepsO_next ?_
  apply service_keeps
  intro _
  intro _
  refine keeps_ite2 ?_ ?_
  refine keeps_pair ?_
  assumption
  refine keeps_pair ?_
  apply setFld_keeps
  assumption
  assumption

theorem execPrefixFlush_keeps {rid : Nat} {s : State} {s₀ : State} (h₀ : Keeps s₀ s) : KeepsO s₀ (execPrefixFlush rid s) := by
  unfold execPrefixFlush
  refine keepsO_next ?_
  apply service_keeps
  intro _
  intro _
  dsimp only
  refine keeps_mk ?_
  assumption
  assumption

theorem execSvcStats_keeps {rid : Nat} {s : State} {s₀ : State} (h₀ : Keeps s₀ s) : KeepsO s₀ (execSvcStats rid s) := by
  unfold execSvcStats
  refine keepsO_next ?_
  apply service_keeps
  intro _
  intro _
  refine keeps_pair ?_
  apply setFld_keeps
  assumption
  assumption

end Sys2Proof.Machine
end

