-- ==== Sys2Proof/Laws/KeepCalibre.lean ====
section
/-! SUPPORT. One lemma for each definition of Machine/Calibre.lean that answers a state: it keeps the queue and the canonical form. -/
namespace Sys2Proof.Machine

theorem execImageLoad_keeps {rid a0 a1 : Nat} {s : State} {s₀ : State} (h₀ : Keeps s₀ s) : KeepsO s₀ (execImageLoad rid a0 a1 s) := by
  unfold execImageLoad
  refine keepsO_next ?_
  apply service_keeps
  intro _
  intro _
  refine keeps_ite2 ?_ ?_
  refine keeps_pair ?_
  assumption
  refine keeps_ite2 ?_ ?_
  refine keeps_pair ?_
  assumption
  refine keeps_pair ?_
  apply stageImage_keeps
  assumption
  assumption

theorem execAdmissionComplete_keeps {bad : List Nat} {s : State} {s₀ : State} (h₀ : Keeps s₀ s) : KeepsO s₀ (execAdmissionComplete bad s) := by
  unfold execAdmissionComplete
  refine keepsO_next ?_
  refine keeps_whenS ?_ ?_
  intro _
  intro _
  split
  apply endCall_keeps
  refine admitImage_pair (by assumption) ?_
  assumption
  apply endCall_keeps
  refine admitImage_pair (by assumption) ?_
  assumption
  assumption

theorem execImageDiscard_keeps {rid : Nat} {s : State} {s₀ : State} (h₀ : Keeps s₀ s) : KeepsO s₀ (execImageDiscard rid s) := by
  unfold execImageDiscard
  refine keepsO_next ?_
  apply service_keeps
  intro _
  intro _
  refine keeps_ite2 ?_ ?_
  refine keeps_pair ?_
  assumption
  refine keeps_pair ?_
  apply emptySlot_keeps
  assumption
  assumption

theorem armSwitch_keeps {S : Nat} {rollback auto_ : Bool} {s : State} {s₀ : State} (h₀ : Keeps s₀ s) : Keeps s₀ (armSwitch S rollback auto_ s) := by
  unfold armSwitch
  dsimp only
  apply setFlds_keeps
  apply wr_keeps
  refine keeps_mk ?_
  assumption

theorem execImageSwitch_keeps {rid a0 : Nat} {s : State} {s₀ : State} (h₀ : Keeps s₀ s) : KeepsO s₀ (execImageSwitch rid a0 s) := by
  unfold execImageSwitch
  refine keepsO_next ?_
  apply service_keeps
  intro _
  intro _
  refine keeps_ite2 ?_ ?_
  refine keeps_pair ?_
  assumption
  refine keeps_ite2 ?_ ?_
  refine keeps_pair ?_
  assumption
  refine keeps_ite2 ?_ ?_
  refine keeps_pair ?_
  assumption
  refine keeps_ite2 ?_ ?_
  refine keeps_pair ?_
  assumption
  dsimp only
  apply armSwitch_keeps
  apply setSlot_keeps
  assumption
  assumption

theorem execCalCancel_keeps {rid : Nat} {s : State} {s₀ : State} (h₀ : Keeps s₀ s) : KeepsO s₀ (execCalCancel rid s) := by
  unfold execCalCancel
  refine keepsO_next ?_
  apply service_keeps
  intro _
  intro _
  refine keeps_ite2 ?_ ?_
  refine keeps_pair ?_
  assumption
  refine keeps_ite2 ?_ ?_
  refine keeps_pair ?_
  assumption
  refine keeps_ite2 ?_ ?_
  refine keeps_pair ?_
  assumption
  refine keeps_pair ?_
  apply setFld_keeps
  apply setSlot_keeps
  assumption
  assumption

theorem execImageRollback_keeps {rid a0 : Nat} {s : State} {s₀ : State} (h₀ : Keeps s₀ s) : KeepsO s₀ (execImageRollback rid a0 s) := by
  unfold execImageRollback
  refine keepsO_next ?_
  apply service_keeps
  intro _
  intro _
  refine keeps_ite2 ?_ ?_
  refine keeps_pair ?_
  assumption
  refine keeps_ite2 ?_ ?_
  refine keeps_pair ?_
  assumption
  refine keeps_ite2 ?_ ?_
  refine keeps_pair ?_
  assumption
  dsimp only
  apply armSwitch_keeps
  assumption
  assumption

theorem endWatch_keeps {s : State} {s₀ : State} (h₀ : Keeps s₀ s) : Keeps s₀ (endWatch s) := by
  unfold endWatch
  apply wr_keeps
  apply setSlot_keeps
  assumption

theorem aborted_keeps {outcome : Nat} {s : State} {s₀ : State} (h₀ : Keeps s₀ s) : Keeps s₀ (aborted outcome s) := by
  unfold aborted
  apply raise_keeps
  apply setFld_keeps
  assumption

theorem rollbackBlocked_keeps {s : State} {s₀ : State} (h₀ : Keeps s₀ s) : Keeps s₀ (rollbackBlocked s) := by
  unfold rollbackBlocked
  apply addRecord_keeps
  apply setFld_keeps
  assumption

theorem failWatch_keeps {b : Nat} {s : State} {s₀ : State} (h₀ : Keeps s₀ s) : Keeps s₀ (failWatch b s) := by
  unfold failWatch
  dsimp only
  refine keeps_ite ?_ ?_
  apply endWatch_keeps
  apply rollbackBlocked_keeps
  apply aborted_keeps
  apply setFld_keeps
  assumption
  apply armSwitch_keeps
  apply wr_keeps
  apply setFld_keeps
  assumption

theorem execConfirm_keeps {rid : Nat} {s : State} {s₀ : State} (h₀ : Keeps s₀ s) : KeepsO s₀ (execConfirm rid s) := by
  unfold execConfirm
  refine keepsO_next ?_
  apply service_keeps
  intro _
  intro _
  refine keeps_ite2 ?_ ?_
  refine keeps_pair ?_
  assumption
  refine keeps_pair ?_
  apply endWatch_keeps
  assumption
  assumption

theorem execHealthFail_keeps {rid : Nat} {s : State} {s₀ : State} (h₀ : Keeps s₀ s) : KeepsO s₀ (execHealthFail rid s) := by
  unfold execHealthFail
  refine keepsO_next ?_
  apply service_keeps
  intro _
  intro _
  refine keeps_ite2 ?_ ?_
  refine keeps_pair ?_
  assumption
  refine keeps_pair ?_
  refine keeps_whenS ?_ ?_
  intro _
  intro _
  apply failWatch_keeps
  assumption
  assumption
  assumption

theorem execWatchEnd_keeps {b : Nat} {s : State} {s₀ : State} (h₀ : Keeps s₀ s) : KeepsO s₀ (execWatchEnd b s) := by
  unfold execWatchEnd
  dsimp only
  refine keepsO_next ?_
  refine keeps_whenS ?_ ?_
  intro _
  intro _
  apply endWatch_keeps
  assumption
  apply advanceTo_keeps
  assumption

theorem execWatchFail_keeps {c b : Nat} {s : State} {s₀ : State} (h₀ : Keeps s₀ s) : KeepsO s₀ (execWatchFail c b s) := by
  unfold execWatchFail
  dsimp only
  refine keepsO_next ?_
  refine keeps_whenS ?_ ?_
  intro _
  intro _
  apply failWatch_keeps
  assumption
  apply advanceTo_keeps
  assumption

theorem execReleasePrevious_keeps {rid : Nat} {s : State} {s₀ : State} (h₀ : Keeps s₀ s) : KeepsO s₀ (execReleasePrevious rid s) := by
  unfold execReleasePrevious
  refine keepsO_next ?_
  apply service_keeps
  intro _
  intro _
  refine keeps_ite2 ?_ ?_
  refine keeps_pair ?_
  assumption
  refine keeps_pair ?_
  apply emptySlot_keeps
  assumption
  assumption

theorem execStoreBoot_keeps {rid a0 : Nat} {s : State} {s₀ : State} (h₀ : Keeps s₀ s) : KeepsO s₀ (execStoreBoot rid a0 s) := by
  unfold execStoreBoot
  refine keepsO_next ?_
  apply service_keeps
  intro _
  intro _
  refine keeps_ite2 ?_ ?_
  refine keeps_pair ?_
  assumption
  split
  refine keeps_pair ?_
  assumption
  refine keeps_pair ?_
  apply setFlash_keeps
  assumption
  assumption

theorem execCalStatus_keeps {rid : Nat} {s : State} {s₀ : State} (h₀ : Keeps s₀ s) : KeepsO s₀ (execCalStatus rid s) := by
  unfold execCalStatus
  refine keepsO_next ?_
  apply serviceRead_keeps
  assumption

theorem rangeTo_keeps {p k : Nat} {on : Bool} {s : State} {s₀ : State} (h₀ : Keeps s₀ s) : Keeps s₀ (rangeTo p k on s) := by
  unfold rangeTo
  dsimp only
  refine keeps_ite ?_ ?_
  refine keeps_ite ?_ ?_
  assumption
  refine keeps_ite ?_ ?_
  apply setRange_keeps
  assumption
  apply setRange_keeps
  apply zeroRange_keeps
  assumption
  refine keeps_ite ?_ ?_
  assumption
  apply setRange_keeps
  apply zeroRange_keeps
  assumption

theorem rangesTo_keeps {p mask : Nat} {s : State} {s₀ : State} (h₀ : Keeps s₀ s) : Keeps s₀ (rangesTo p mask s) := by
  unfold rangesTo
  refine keeps_foldl ?_ ?_
  intro _
  intro _
  intro _
  apply rangeTo_keeps
  assumption
  assumption

theorem loadProgram_keeps {im l p S : Nat} {s : State} {s₀ : State} (h₀ : Keeps s₀ s) : Keeps s₀ (loadProgram im l p S s) := by
  unfold loadProgram
  dsimp only
  split
  apply modCluster_keeps
  assumption
  apply modCluster_keeps
  assumption

theorem clearStreams_keeps {p : Nat} {s : State} {s₀ : State} (h₀ : Keeps s₀ s) : Keeps s₀ (clearStreams p s) := by
  unfold clearStreams
  dsimp only
  apply modCluster_keeps
  refine keeps_foldl ?_ ?_
  intro _
  intro _
  intro _
  apply wr_keeps
  assumption
  refine keeps_foldl ?_ ?_
  intro _
  intro _
  intro _
  apply wr_keeps
  apply wr_keeps
  assumption
  assumption

theorem shutWindows_keeps {p : Nat} {s : State} {s₀ : State} (h₀ : Keeps s₀ s) : Keeps s₀ (shutWindows p s) := by
  unfold shutWindows
  dsimp only
  refine keeps_foldl ?_ ?_
  intro _
  intro _
  intro _
  apply setFld_keeps
  assumption
  apply drainIngress_keeps
  refine keeps_foldl ?_ ?_
  intro _
  intro _
  intro _
  apply closeWindow_keeps
  assumption
  assumption

theorem loadWindows_keeps {im l p : Nat} {s : State} {s₀ : State} (h₀ : Keeps s₀ s) : Keeps s₀ (loadWindows im l p s) := by
  unfold loadWindows
  refine keeps_foldl ?_ ?_
  intro _
  intro _
  intro _
  dsimp only
  refine keeps_ite ?_ ?_
  apply setFld_keeps
  apply wr_keeps
  apply wr_keeps
  assumption
  apply wr_keeps
  apply wr_keeps
  assumption
  assumption

theorem startStreams_keeps {p : Nat} {s : State} {s₀ : State} (h₀ : Keeps s₀ s) : Keeps s₀ (startStreams p s) := by
  unfold startStreams
  refine keeps_foldl ?_ ?_
  intro _
  intro _
  intro _
  refine keeps_ite ?_ ?_
  apply jumpTo_keeps
  assumption
  assumption
  assumption

theorem armDetours_keeps {es : List DetourEntry} {S : Nat} {s : State} {s₀ : State} (h₀ : Keeps s₀ s) : Keeps s₀ (armDetours es S s) := by
  unfold armDetours
  refine keeps_foldl ?_ ?_
  intro _
  intro _
  intro _
  dsimp only
  apply setFlds_keeps
  refine keeps_foldl ?_ ?_
  intro _
  intro _
  intro _
  apply wr_keeps
  assumption
  refine keeps_foldl ?_ ?_
  intro _
  intro _
  intro _
  apply wr_keeps
  assumption
  assumption
  assumption

theorem loadEngine_keeps {im n : Nat} {s : State} {s₀ : State} (h₀ : Keeps s₀ s) : Keeps s₀ (loadEngine im n s) := by
  unfold loadEngine
  dsimp only
  apply setFld_keeps
  refine keeps_foldl ?_ ?_
  intro _
  intro _
  intro _
  refine keeps_mk ?_
  assumption
  refine keeps_foldl ?_ ?_
  intro _
  intro _
  intro _
  apply wr_keeps
  refine keeps_mk ?_
  assumption
  assumption

theorem writeGenMap_keeps {s : State} {s₀ : State} (h₀ : Keeps s₀ s) : Keeps s₀ (writeGenMap s) := by
  unfold writeGenMap
  split
  assumption
  apply fwWrite_keeps
  assumption

theorem loadRatios_keeps {im : Nat} {s : State} {s₀ : State} (h₀ : Keeps s₀ s) : Keeps s₀ (loadRatios im s) := by
  unfold loadRatios
  dsimp only
  refine keeps_ite ?_ ?_
  split
  refine keeps_mk ?_
  assumption
  refine keeps_mk ?_
  assumption
  refine keeps_mk ?_
  assumption

theorem execSwitchStopBeat_keeps {b : Nat} {s : State} {s₀ : State} (h₀ : Keeps s₀ s) : KeepsO s₀ (execSwitchStopBeat b s) := by
  unfold execSwitchStopBeat
  dsimp only
  refine keepsO_next ?_
  refine keeps_whenS ?_ ?_
  intro _
  intro _
  apply setFld_keeps
  assumption
  apply advanceTo_keeps
  assumption

theorem execSwitchDrained_keeps {s : State} {s₀ : State} (h₀ : Keeps s₀ s) : KeepsO s₀ (execSwitchDrained s) := by
  unfold execSwitchDrained
  refine keepsO_next ?_
  refine keeps_whenS ?_ ?_
  intro _
  intro _
  refine keeps_mk ?_
  assumption
  assumption

theorem abortSwitch_keeps {cause : Nat} {s : State} {s₀ : State} (h₀ : Keeps s₀ s) : Keeps s₀ (abortSwitch cause s) := by
  unfold abortSwitch
  apply setFld_keeps
  apply aborted_keeps
  apply setSlot_keeps
  assumption

theorem refuseRollback_keeps {cause : Nat} {s : State} {s₀ : State} (h₀ : Keeps s₀ s) : Keeps s₀ (refuseRollback cause s) := by
  unfold refuseRollback
  dsimp only
  apply setFlds_keeps
  refine keeps_ite ?_ ?_
  apply endWatch_keeps
  refine keeps_ite ?_ ?_
  apply rollbackBlocked_keeps
  apply aborted_keeps
  assumption
  apply aborted_keeps
  assumption
  refine keeps_ite ?_ ?_
  apply rollbackBlocked_keeps
  apply aborted_keeps
  assumption
  apply aborted_keeps
  assumption

theorem discardQueued_keeps {p : Nat} {s : State} {s₀ : State} (h₀ : Keeps s₀ s) : Keeps s₀ (discardQueued p s) := by
  unfold discardQueued
  dsimp only
  apply modCluster_keeps
  refine keeps_foldl ?_ ?_
  intro _
  intro _
  intro _
  apply setQueue_keeps
  assumption
  assumption

theorem emptyQueue_keeps {n q : Nat} {s : State} {s₀ : State} (h₀ : Keeps s₀ s) : Keeps s₀ (emptyQueue n q s) := by
  unfold emptyQueue
  dsimp only
  apply setFlds_keeps
  refine keeps_mk ?_
  assumption

theorem discardEngines_keeps {s : State} {s₀ : State} (h₀ : Keeps s₀ s) : Keeps s₀ (discardEngines s) := by
  unfold discardEngines
  refine keeps_foldl ?_ ?_
  intro _
  intro _
  intro _
  refine keeps_foldl ?_ ?_
  intro _
  intro _
  intro _
  apply emptyQueue_keeps
  assumption
  assumption
  assumption

theorem carryOver_keeps {im : Nat} {s : State} {s₀ : State} (h₀ : Keeps s₀ s) : Keeps s₀ (carryOver im s) := by
  unfold carryOver
  dsimp only
  refine keeps_ite ?_ ?_
  refine keeps_mk ?_
  apply modReqs_keeps
  assumption
  refine keeps_mk ?_
  apply modReqs_keeps
  assumption

theorem activate_keeps {im S : Nat} {s : State} {s₀ : State} (h₀ : Keeps s₀ s) : Keeps s₀ (activate im S s) := by
  unfold activate
  dsimp only
  refine keeps_foldl ?_ ?_
  intro _
  intro _
  intro _
  apply loadWindows_keeps
  assumption
  apply writeGenMap_keeps
  refine keeps_mk ?_
  apply loadRatios_keeps
  apply carryOver_keeps
  apply armDetours_keeps
  refine keeps_foldl ?_ ?_
  intro _
  intro _
  intro _
  apply loadEngine_keeps
  assumption
  refine keeps_foldl ?_ ?_
  intro _
  intro _
  intro _
  apply setFld_keeps
  apply rangesTo_keeps
  apply loadProgram_keeps
  assumption
  refine keeps_foldl ?_ ?_
  intro _
  intro _
  intro _
  apply shutWindows_keeps
  apply clearStreams_keeps
  assumption
  assumption

theorem execSwitchActivationStart_keeps {b : Nat} {bad : List Nat} {s : State} {s₀ : State} (h₀ : Keeps s₀ s) : KeepsO s₀ (execSwitchActivationStart b bad s) := by
  unfold execSwitchActivationStart
  dsimp only
  refine keepsO_next ?_
  refine keeps_whenS ?_ ?_
  intro _
  intro _
  refine keeps_ite ?_ ?_
  refine keeps_ite ?_ ?_
  apply refuseRollback_keeps
  assumption
  refine keeps_ite ?_ ?_
  apply refuseRollback_keeps
  assumption
  apply setFld_keeps
  apply activate_keeps
  apply discardEngines_keeps
  refine keeps_foldl ?_ ?_
  intro _
  intro _
  intro _
  refine keeps_ite ?_ ?_
  apply discardQueued_keeps
  assumption
  assumption
  assumption
  refine keeps_ite ?_ ?_
  apply abortSwitch_keeps
  assumption
  refine keeps_ite ?_ ?_
  apply abortSwitch_keeps
  assumption
  refine keeps_ite ?_ ?_
  apply abortSwitch_keeps
  assumption
  apply setFld_keeps
  apply activate_keeps
  assumption
  apply advanceTo_keeps
  assumption

theorem moveSlots_keeps {rollback : Bool} {s : State} {s₀ : State} (h₀ : Keeps s₀ s) : Keeps s₀ (moveSlots rollback s) := by
  unfold moveSlots
  dsimp only
  refine keeps_ite ?_ ?_
  apply setFld_keeps
  apply emptySlot_keeps
  split
  apply emptySlot_keeps
  assumption
  apply setFlds_keeps
  refine keeps_mk ?_
  assumption
  apply emptySlot_keeps
  split
  apply emptySlot_keeps
  refine keeps_ite ?_ ?_
  apply emptySlot_keeps
  assumption
  split
  apply emptySlot_keeps
  assumption
  apply setFlds_keeps
  refine keeps_mk ?_
  assumption
  apply setFlds_keeps
  refine keeps_mk ?_
  refine keeps_ite ?_ ?_
  apply emptySlot_keeps
  assumption
  split
  apply emptySlot_keeps
  assumption
  apply setFlds_keeps
  refine keeps_mk ?_
  assumption

theorem enterActive_keeps {rb : Bool} {S : Nat} {s s₀ : State} (h₀ : Keeps s₀ s) : Keeps s₀ (enterActive rb S s) := by
  unfold enterActive
  dsimp only
  refine updStatus_keeps (wr_keeps (setFlds_keeps (applyPower_keeps (keeps_mk (keeps_ite (addRecord_keeps (setFlds_keeps ?_)) (setFlds_keeps ?_))))))
  · cases look s.images 0
    · exact h₀
    · exact measureIn_keeps h₀
  · cases look s.images 0
    · exact h₀
    · exact measureIn_keeps h₀

theorem execSwitchBeat_keeps {b : Nat} {s : State} {s₀ : State} (h₀ : Keeps s₀ s) : KeepsO s₀ (execSwitchBeat b s) := by
  unfold execSwitchBeat
  dsimp only
  refine keepsO_next ?_
  refine keeps_whenS ?_ ?_
  intro _
  intro _
  apply enterActive_keeps
  apply moveSlots_keeps
  refine keeps_foldl ?_ ?_
  intro _
  intro _
  intro _
  refine keeps_ite ?_ ?_
  apply fenceCluster_keeps
  assumption
  apply startStreams_keeps
  assumption
  refine keeps_foldl ?_ ?_
  intro _
  intro _
  intro _
  refine keeps_ite ?_ ?_
  apply commitDetour_keeps
  assumption
  assumption
  assumption
  apply advanceTo_keeps
  assumption

end Sys2Proof.Machine
end

