-- ==== Sys2Proof/Laws/KeepLink.lean ====
section
/-! SUPPORT. One lemma for each definition of Machine/Link.lean that answers a state: it keeps the queue and the canonical form. -/
namespace Sys2Proof.Machine

theorem setLanes_keeps {p width rate reversed : Nat} {s : State} {s₀ : State} (h₀ : Keeps s₀ s) : Keeps s₀ (setLanes p width rate reversed s) := by
  unfold setLanes
  apply setFlds_keeps
  assumption

theorem setPortState_keeps {p x : Nat} {s : State} {s₀ : State} (h₀ : Keeps s₀ s) : Keeps s₀ (setPortState p x s) := by
  unfold setPortState
  apply setFld_keeps
  assumption

theorem execSerPortTrain_keeps {port width rate reversed : Nat} {s : State} {s₀ : State} (h₀ : Keeps s₀ s) : KeepsO s₀ (execSerPortTrain port width rate reversed s) := by
  unfold execSerPortTrain
  refine keepsO_onUnit ?_ ?_
  intro _
  intro _
  refine keeps_whenS ?_ ?_
  intro _
  intro _
  refine keeps_ite ?_ ?_
  apply setPortState_keeps
  apply setLanes_keeps
  assumption
  dsimp only
  apply send_keeps
  refine keeps_mk ?_
  apply setPortState_keeps
  apply setLanes_keeps
  assumption
  assumption
  assumption

theorem setBonded_keeps {x : Nat} {s : State} {s₀ : State} (h₀ : Keeps s₀ s) : Keeps s₀ (setBonded x s) := by
  unfold setBonded
  apply setFld_keeps
  apply setFld_keeps
  assumption

theorem renameAgent_keeps {a b : Nat} {s : State} {s₀ : State} (h₀ : Keeps s₀ s) : Keeps s₀ (renameAgent a b s) := by
  unfold renameAgent
  apply updFilterHeld_keeps
  refine keeps_mk ?_
  assumption

theorem setBond_keeps {p : Nat} {s : State} {s₀ : State} (h₀ : Keeps s₀ s) : Keeps s₀ (setBond p s) := by
  unfold setBond
  dsimp only
  refine keeps_ite ?_ ?_
  refine keeps_ite ?_ ?_
  assumption
  apply renameAgent_keeps
  apply setBonded_keeps
  assumption
  refine keeps_ite ?_ ?_
  assumption
  refine keeps_mk ?_
  apply setBonded_keeps
  apply renameAgent_keeps
  assumption

theorem execSerInitFlit_keeps {port version flags node req snp data : Nat} {s : State} {s₀ : State} (h₀ : Keeps s₀ s) : KeepsO s₀ (execSerInitFlit port version flags node req snp data s) := by
  unfold execSerInitFlit
  refine keepsO_onUnit ?_ ?_
  intro _
  intro _
  refine keeps_whenS ?_ ?_
  intro _
  intro _
  refine keeps_ite ?_ ?_
  apply serErr_keeps
  assumption
  dsimp only
  apply setBond_keeps
  apply setFlds_keeps
  refine keeps_mk ?_
  assumption
  assumption
  assumption

theorem loseBonded_keeps {p : Nat} {s : State} {s₀ : State} (h₀ : Keeps s₀ s) : Keeps s₀ (loseBonded p s) := by
  unfold loseBonded
  dsimp only
  refine keeps_foldl ?_ ?_
  intro _
  intro _
  intro _
  apply serSend_keeps
  assumption
  apply updOutstanding_keeps
  refine keeps_foldl ?_ ?_
  intro _
  intro _
  intro _
  refine keeps_ite ?_ ?_
  refine keeps_mk ?_
  assumption
  apply serIssue_keeps
  assumption
  refine keeps_mk ?_
  assumption

theorem loseAgent_keeps {p x : Nat} {s : State} {s₀ : State} (h₀ : Keeps s₀ s) : Keeps s₀ (loseAgent p x s) := by
  unfold loseAgent
  dsimp only
  apply homeRun_keeps
  apply updFilterHeld_keeps
  refine keeps_mk ?_
  refine keeps_foldl ?_ ?_
  intro _
  intro _
  intro _
  apply serErr_keeps
  assumption
  assumption

theorem loseCache_keeps {p : Nat} {mine : CacheLine → Bool} {s : State} {s₀ : State} (h₀ : Keeps s₀ s) : Keeps s₀ (loseCache p mine s) := by
  unfold loseCache
  dsimp only
  refine keeps_foldl ?_ ?_
  intro _
  intro _
  intro _
  apply serErr_keeps
  assumption
  refine keeps_mk ?_
  assumption

theorem loseRings_keeps {rings : List Nat} {s : State} {s₀ : State} (h₀ : Keeps s₀ s) : Keeps s₀ (loseRings rings s) := by
  unfold loseRings
  apply modReqs_keeps
  refine keeps_mk ?_
  assumption

theorem loseSingle_keeps {p : Nat} {s : State} {s₀ : State} (h₀ : Keeps s₀ s) : Keeps s₀ (loseSingle p s) := by
  unfold loseSingle
  dsimp only
  refine keeps_ite ?_ ?_
  apply setBonded_keeps
  apply loseRings_keeps
  apply loseCache_keeps
  apply loseAgent_keeps
  refine keeps_foldl ?_ ?_
  intro _
  intro _
  intro _
  apply reqFailed_keeps
  assumption
  apply updOutstanding_keeps
  refine keeps_mk ?_
  apply setPortState_keeps
  assumption
  apply loseRings_keeps
  apply loseCache_keeps
  apply loseAgent_keeps
  refine keeps_foldl ?_ ?_
  intro _
  intro _
  intro _
  apply reqFailed_keeps
  assumption
  apply updOutstanding_keeps
  refine keeps_mk ?_
  apply setPortState_keeps
  assumption

theorem serPortDown_keeps {p : Nat} {s : State} {s₀ : State} (h₀ : Keeps s₀ s) : Keeps s₀ (serPortDown p s) := by
  unfold serPortDown
  dsimp only
  apply addRecord_keeps
  apply serErr_keeps
  refine keeps_mk ?_
  apply setFlds_keeps
  refine keeps_ite ?_ ?_
  apply loseBonded_keeps
  apply setPortState_keeps
  assumption
  apply loseSingle_keeps
  assumption

theorem execSerPortDown_keeps {port : Nat} {s : State} {s₀ : State} (h₀ : Keeps s₀ s) : KeepsO s₀ (execSerPortDown port s) := by
  unfold execSerPortDown
  refine keepsO_onUnit ?_ ?_
  intro _
  intro _
  refine keeps_whenS ?_ ?_
  intro _
  intro _
  apply serPortDown_keeps
  assumption
  assumption
  assumption

theorem execSerProtocolError_keeps {port : Nat} {s : State} {s₀ : State} (h₀ : Keeps s₀ s) : KeepsO s₀ (execSerProtocolError port s) := by
  unfold execSerProtocolError
  refine keepsO_onUnit ?_ ?_
  intro _
  intro _
  refine keeps_whenS ?_ ?_
  intro _
  intro _
  apply serPortDown_keeps
  apply serErr_keeps
  assumption
  assumption
  assumption

theorem flushPort_keeps {p : Nat} {s : State} {s₀ : State} (h₀ : Keeps s₀ s) : Keeps s₀ (flushPort p s) := by
  unfold flushPort
  dsimp only
  refine keeps_foldl ?_ ?_
  intro _
  intro _
  intro _
  apply homePut_keeps
  assumption
  refine keeps_mk ?_
  refine keeps_foldl ?_ ?_
  intro _
  intro _
  intro _
  apply cacheLeave_keeps
  assumption
  assumption

theorem detachQuiet_keeps {p : Nat} {s : State} {s₀ : State} (h₀ : Keeps s₀ s) : Keeps s₀ (detachQuiet p s) := by
  unfold detachQuiet
  refine keeps_ite ?_ ?_
  dsimp only
  refine keeps_mk ?_
  apply setFlds_keeps
  assumption
  assumption

theorem detachPoll_keeps {p : Nat} {s s₀ : State} (h₀ : Keeps s₀ s) : Keeps s₀ (detachPoll p s).2 := by
  unfold detachPoll
  dsimp only
  apply detachQuiet_keeps
  assumption
theorem detachPoll_pair {p : Nat} {s s₀ : State} {a₀} {t₀ : State} (e₀ : detachPoll p s = (a₀, t₀)) (h₀ : Keeps s₀ s) : Keeps s₀ t₀ := by
  have k := @detachPoll_keeps p s s₀ h₀
  rw [e₀] at k; exact k

theorem execDetach_keeps {rid p : Nat} {s : State} {s₀ : State} (h₀ : Keeps s₀ s) : KeepsO s₀ (execDetach rid p s) := by
  unfold execDetach
  refine keepsO_next ?_
  apply service_keeps
  intro _
  intro _
  refine keeps_ite2 ?_ ?_
  refine keeps_pair ?_
  assumption
  refine keeps_ite2 ?_ ?_
  refine keeps_pair ?_
  assumption
  refine keeps_ite2 ?_ ?_
  refine keeps_pair ?_
  assumption
  dsimp only
  split
  refine keeps_pair ?_
  refine detachPoll_pair (by assumption) ?_
  apply setPortState_keeps
  refine keeps_ite ?_ ?_
  apply flushPort_keeps
  assumption
  assumption
  refine keeps_pair ?_
  refine detachPoll_pair (by assumption) ?_
  apply setPortState_keeps
  refine keeps_ite ?_ ?_
  apply flushPort_keeps
  assumption
  assumption
  assumption

theorem execAttach_keeps {rid p : Nat} {s : State} {s₀ : State} (h₀ : Keeps s₀ s) : KeepsO s₀ (execAttach rid p s) := by
  unfold execAttach
  refine keepsO_next ?_
  apply service_keeps
  intro _
  intro _
  refine keeps_ite2 ?_ ?_
  refine keeps_pair ?_
  assumption
  refine keeps_ite2 ?_ ?_
  refine keeps_pair ?_
  assumption
  refine keeps_pair ?_
  refine keeps_ite ?_ ?_
  apply setPortState_keeps
  assumption
  assumption
  assumption

theorem execAttachTimeout_keeps {b : Nat} {s : State} {s₀ : State} (h₀ : Keeps s₀ s) : KeepsO s₀ (execAttachTimeout b s) := by
  unfold execAttachTimeout
  refine keepsO_next ?_
  dsimp only
  split
  apply advanceTo_keeps
  assumption
  refine keeps_ite ?_ ?_
  apply endCall_keeps
  apply advanceTo_keeps
  assumption
  apply advanceTo_keeps
  assumption

end Sys2Proof.Machine
end

