-- ==== Sys2Proof/Laws/KeepRecover.lean ====
section
/-! SUPPORT. One lemma for each definition of Machine/Recover.lean that answers a state: it keeps the queue and the canonical form. -/
namespace Sys2Proof.Machine

theorem setClass_keeps {p x : Nat} {s : State} {s₀ : State} (h₀ : Keeps s₀ s) : Keeps s₀ (setClass p x s) := by
  unfold setClass
  apply setFld_keeps
  assumption

theorem noteSuspect_keeps {p : Nat} {s : State} {s₀ : State} (h₀ : Keeps s₀ s) : Keeps s₀ (noteSuspect p s) := by
  unfold noteSuspect
  refine keeps_mk ?_
  assumption

theorem recordFault_keeps {stalls : Bool} {r : Record} {s : State} {s₀ : State} (h₀ : Keeps s₀ s) : Keeps s₀ (recordFault stalls r s) := by
  unfold recordFault
  dsimp only
  refine keeps_ite ?_ ?_
  refine keeps_mk ?_
  apply addRecord_keeps
  assumption
  apply addRecord_keeps
  assumption

theorem clusterFailed_keeps {p cause unitCause : Nat} {s : State} {s₀ : State} (h₀ : Keeps s₀ s) : Keeps s₀ (clusterFailed p cause unitCause s) := by
  unfold clusterFailed
  refine keeps_ite ?_ ?_
  assumption
  dsimp only
  refine keeps_ite ?_ ?_
  apply updStatus_keeps
  apply fenceCluster_keeps
  apply setClass_keeps
  apply noteSuspect_keeps
  apply recordFault_keeps
  assumption
  apply updStatus_keeps
  apply setClState_keeps
  apply stopCluster_keeps
  apply setClass_keeps
  apply noteSuspect_keeps
  apply recordFault_keeps
  assumption

theorem clusterAbort_keeps {p cause unitCause : Nat} {s : State} {s₀ : State} (h₀ : Keeps s₀ s) : Keeps s₀ (clusterAbort p cause unitCause s) := by
  unfold clusterAbort
  refine keeps_ite ?_ ?_
  apply clusterFailed_keeps
  assumption
  dsimp only
  apply setClass_keeps
  refine keeps_mk ?_
  apply recordFault_keeps
  assumption

theorem observe_keeps {p : Nat} {s : State} {s₀ : State} (h₀ : Keeps s₀ s) : Keeps s₀ (observe p s) := by
  unfold observe
  dsimp only
  refine keeps_ite ?_ ?_
  apply setClState_keeps
  apply setFld_keeps
  apply setClass_keeps
  assumption
  apply setFld_keeps
  apply setClass_keeps
  assumption

theorem routerFailed_keeps {p : Nat} {s : State} {s₀ : State} (h₀ : Keeps s₀ s) : Keeps s₀ (routerFailed p s) := by
  unfold routerFailed
  refine keeps_ite ?_ ?_
  assumption
  dsimp only
  refine keeps_ite ?_ ?_
  apply updStatus_keeps
  apply setClass_keeps
  apply noteSuspect_keeps
  refine keeps_ite ?_ ?_
  refine keeps_mk ?_
  apply recordFault_keeps
  assumption
  refine keeps_ite ?_ ?_
  apply fenceCluster_keeps
  refine keeps_mk ?_
  apply recordFault_keeps
  assumption
  apply setClState_keeps
  apply stopCluster_keeps
  refine keeps_mk ?_
  apply recordFault_keeps
  assumption
  refine keeps_ite ?_ ?_
  apply updStatus_keeps
  apply armDetours_keeps
  apply setClass_keeps
  apply noteSuspect_keeps
  refine keeps_ite ?_ ?_
  refine keeps_mk ?_
  apply recordFault_keeps
  assumption
  refine keeps_ite ?_ ?_
  apply fenceCluster_keeps
  refine keeps_mk ?_
  apply recordFault_keeps
  assumption
  apply setClState_keeps
  apply stopCluster_keeps
  refine keeps_mk ?_
  apply recordFault_keeps
  assumption
  apply updStatus_keeps
  apply addRecord_keeps
  apply setFld_keeps
  apply setClass_keeps
  apply noteSuspect_keeps
  refine keeps_ite ?_ ?_
  refine keeps_mk ?_
  apply recordFault_keeps
  assumption
  refine keeps_ite ?_ ?_
  apply fenceCluster_keeps
  refine keeps_mk ?_
  apply recordFault_keeps
  assumption
  apply setClState_keeps
  apply stopCluster_keeps
  refine keeps_mk ?_
  apply recordFault_keeps
  assumption

theorem faultRecovery_keeps {kind unit cause unitCause : Nat} {s : State} {s₀ : State} (h₀ : Keeps s₀ s) : Keeps s₀ (faultRecovery kind unit cause unitCause s) := by
  unfold faultRecovery
  split
  refine keeps_ite ?_ ?_
  assumption
  refine keeps_ite ?_ ?_
  refine keeps_whenS ?_ ?_
  intro _
  intro _
  apply observe_keeps
  apply addRecord_keeps
  assumption
  assumption
  refine keeps_ite ?_ ?_
  refine keeps_whenS ?_ ?_
  intro _
  intro _
  apply clusterAbort_keeps
  assumption
  assumption
  apply clusterFailed_keeps
  assumption
  refine keeps_ite ?_ ?_
  apply routerFailed_keeps
  assumption
  assumption
  refine keeps_ite ?_ ?_
  refine keeps_whenS ?_ ?_
  intro _
  intro _
  apply darken_keeps
  assumption
  assumption
  assumption
  refine keeps_ite ?_ ?_
  apply failMsd_keeps
  assumption
  assumption
  refine keeps_ite ?_ ?_
  refine keeps_whenS ?_ ?_
  intro _
  intro _
  apply serPortDown_keeps
  assumption
  assumption
  assumption
  apply addRecord_keeps
  assumption

theorem execFaultReport_keeps {kind unit cause unitCause b : Nat} {s : State} {s₀ : State} (h₀ : Keeps s₀ s) : KeepsO s₀ (execFaultReport kind unit cause unitCause b s) := by
  unfold execFaultReport
  refine keepsO_next ?_
  apply faultRecovery_keeps
  apply advanceTo_keeps
  assumption

theorem execCtrlPoll_keeps {g answers b : Nat} {s : State} {s₀ : State} (h₀ : Keeps s₀ s) : KeepsO s₀ (execCtrlPoll g answers b s) := by
  unfold execCtrlPoll
  refine keepsO_onUnit ?_ ?_
  intro _
  intro _
  refine keeps_foldl ?_ ?_
  intro _
  intro _
  intro _
  dsimp only
  refine keeps_ite ?_ ?_
  refine keeps_mk ?_
  assumption
  refine keeps_ite ?_ ?_
  refine keeps_mk ?_
  assumption
  apply clusterFailed_keeps
  refine keeps_mk ?_
  assumption
  apply advanceTo_keeps
  assumption
  assumption

theorem askPower_keeps {g : Nat} {s : State} {s₀ : State} (h₀ : Keeps s₀ s) : Keeps s₀ (askPower g s) := by
  unfold askPower
  refine keeps_ite ?_ ?_
  dsimp only
  refine keeps_mk ?_
  apply setGal_keeps
  assumption
  assumption

theorem spareBad_keeps {p : Nat} {s : State} {s₀ : State} (h₀ : Keeps s₀ s) : Keeps s₀ (spareBad p s) := by
  unfold spareBad
  dsimp only
  apply updStatus_keeps
  apply setClState_keeps
  apply addRecord_keeps
  apply setClass_keeps
  apply noteSuspect_keeps
  assumption

theorem startWindows_keeps {l p : Nat} {s : State} {s₀ : State} (h₀ : Keeps s₀ s) : Keeps s₀ (startWindows l p s) := by
  unfold startWindows
  refine keeps_foldl ?_ ?_
  intro _
  intro _
  intro _
  dsimp only
  apply setFlds_keeps
  apply setFld_keeps
  assumption
  assumption

theorem moveOnto_keeps {l h p at_ : Nat} {s : State} {s₀ : State} (h₀ : Keeps s₀ s) : Keeps s₀ (moveOnto l h p at_ s) := by
  unfold moveOnto
  dsimp only
  refine keeps_mk ?_
  apply followFset_keeps
  apply startWindows_keeps
  refine keeps_ite ?_ ?_
  apply setFld_keeps
  apply rangesTo_keeps
  apply loadProgram_keeps
  apply setFld_keeps
  apply setClState_keeps
  assumption
  apply setFld_keeps
  apply setClState_keeps
  assumption

theorem vacate_keeps {l b : Nat} {s : State} {s₀ : State} (h₀ : Keeps s₀ s) : Keeps s₀ (vacate l b s) := by
  unfold vacate
  dsimp only
  refine keeps_ite ?_ ?_
  apply setFld_keeps
  apply addRecord_keeps
  apply setFld_keeps
  apply applyMapChange_keeps
  assumption
  apply addRecord_keeps
  apply setFld_keeps
  apply applyMapChange_keeps
  assumption

theorem moveOff_keeps {l a : Nat} {fails : List Nat} {n : Nat} {s s₀ : State} (h₀ : Keeps s₀ s) : Keeps s₀ (moveOff l a fails n s) := by
  induction n generalizing s with
  | zero => exact h₀
  | succ n ih =>
    unfold moveOff
    split
    · exact vacate_keeps h₀
    · dsimp only
      split
      · exact askPower_keeps h₀
      · split
        · exact h₀
        · split
          · exact ih (spareBad_keeps h₀)
          · exact moveOnto_keeps h₀

theorem execMove_keeps {l at_ : Nat} {fails : List Nat} {b : Nat} {s : State} {s₀ : State} (h₀ : Keeps s₀ s) : KeepsO s₀ (execMove l at_ fails b s) := by
  unfold execMove
  refine keepsO_onUnit ?_ ?_
  intro _
  intro _
  dsimp only
  refine keeps_ite ?_ ?_
  apply advanceTo_keeps
  assumption
  refine keeps_ite ?_ ?_
  apply moveOff_keeps
  apply advanceTo_keeps
  assumption
  refine keeps_ite ?_ ?_
  apply moveOff_keeps
  apply updStatus_keeps
  apply fenceCluster_keeps
  apply advanceTo_keeps
  assumption
  apply advanceTo_keeps
  assumption
  assumption

theorem replayStop_keeps {p : Nat} {s : State} {s₀ : State} (h₀ : Keeps s₀ s) : Keeps s₀ (replayStop p s) := by
  unfold replayStop
  dsimp only
  refine keeps_foldl ?_ ?_
  intro _
  intro _
  intro _
  refine keeps_ite ?_ ?_
  apply setFlds_keeps
  assumption
  assumption
  apply discardQueued_keeps
  apply clearStreams_keeps
  assumption

theorem replayQueues_keeps {s : State} {s₀ : State} (h₀ : Keeps s₀ s) : Keeps s₀ (replayQueues s) := by
  unfold replayQueues
  refine keeps_foldl ?_ ?_
  intro _
  intro _
  intro _
  refine keeps_foldl ?_ ?_
  intro _
  intro _
  intro _
  refine keeps_ite ?_ ?_
  apply setFlds_keeps
  apply emptyQueue_keeps
  assumption
  assumption
  assumption
  assumption

theorem replayWindows_keeps {l p : Nat} {s : State} {s₀ : State} (h₀ : Keeps s₀ s) : Keeps s₀ (replayWindows l p s) := by
  unfold replayWindows
  dsimp only
  refine keeps_foldl ?_ ?_
  intro _
  intro _
  intro _
  apply setFld_keeps
  assumption
  apply shutWindows_keeps
  assumption

theorem startReplay_keeps {rb : Nat} {s : State} {s₀ : State} (h₀ : Keeps s₀ s) : Keeps s₀ (startReplay rb s) := by
  unfold startReplay
  dsimp only
  refine keeps_mk ?_
  refine keeps_foldl ?_ ?_
  intro _
  intro _
  intro _
  apply loadProgram_keeps
  assumption
  apply writeGenMap_keeps
  refine keeps_foldl ?_ ?_
  intro _
  intro _
  intro _
  apply replayWindows_keeps
  assumption
  apply replayQueues_keeps
  refine keeps_foldl ?_ ?_
  intro _
  intro _
  intro _
  apply replayStop_keeps
  assumption
  assumption

theorem execStepReplay_keeps {rb b : Nat} {s : State} {s₀ : State} (h₀ : Keeps s₀ s) : KeepsO s₀ (execStepReplay rb b s) := by
  unfold execStepReplay
  dsimp only
  refine keepsO_next ?_
  refine keeps_whenS ?_ ?_
  intro _
  intro _
  apply startReplay_keeps
  assumption
  apply advanceTo_keeps
  assumption

theorem execReplayStopTimeout_keeps {b : Nat} {s : State} {s₀ : State} (h₀ : Keeps s₀ s) : KeepsO s₀ (execReplayStopTimeout b s) := by
  unfold execReplayStopTimeout
  dsimp only
  refine keepsO_next ?_
  split
  apply advanceTo_keeps
  assumption
  refine keeps_ite ?_ ?_
  apply advanceTo_keeps
  assumption
  refine keeps_foldl ?_ ?_
  intro _
  intro _
  intro _
  apply clusterFailed_keeps
  assumption
  apply advanceTo_keeps
  assumption

theorem noteStalls_keeps {at_ : Nat} {s : State} {s₀ : State} (h₀ : Keeps s₀ s) : Keeps s₀ (noteStalls at_ s) := by
  unfold noteStalls
  dsimp only
  refine keeps_mk ?_
  assumption

theorem execReplayRestart_keeps {b : Nat} {s : State} {s₀ : State} (h₀ : Keeps s₀ s) : KeepsO s₀ (execReplayRestart b s) := by
  unfold execReplayRestart
  dsimp only
  refine keepsO_next ?_
  split
  apply advanceTo_keeps
  assumption
  refine keeps_ite ?_ ?_
  apply advanceTo_keeps
  assumption
  refine keeps_mk ?_
  apply noteStalls_keeps
  apply modReqs_keeps
  refine keeps_foldl ?_ ?_
  intro _
  intro _
  intro _
  apply replayWindows_keeps
  assumption
  refine keeps_foldl ?_ ?_
  intro _
  intro _
  intro _
  apply startStreams_keeps
  apply loadProgram_keeps
  assumption
  apply advanceTo_keeps
  assumption

theorem freeBytes_keeps {p o n : Nat} {s s₀ : State} (h₀ : Keeps s₀ s) : Keeps s₀ (freeBytes p o n s) := by
  induction n generalizing o s with
  | zero => exact h₀
  | succ n ih =>
    unfold freeBytes
    exact ih (spmWrite_keeps (takeFree_keeps (w := 8) h₀))

theorem marched_keeps {p : Nat} {s : State} {s₀ : State} (h₀ : Keeps s₀ s) : Keeps s₀ (marched p s) := by
  unfold marched
  refine keeps_ite ?_ ?_
  apply freeBytes_keeps
  assumption
  assumption

theorem trial_keeps {p : Nat} {first again : Bool} {s : State} {s₀ : State} (h₀ : Keeps s₀ s) : Keeps s₀ (trial p first again s).2 := by
  unfold trial
  dsimp only
  refine keeps_ite2 ?_ ?_
  refine keeps_pair ?_
  refine keeps_ite ?_ ?_
  apply setClass_keeps
  apply setClState_keeps
  apply setFld_keeps
  apply marched_keeps
  assumption
  apply setFld_keeps
  apply marched_keeps
  assumption
  refine keeps_ite2 ?_ ?_
  refine keeps_pair ?_
  apply observe_keeps
  apply addRecord_keeps
  apply noteSuspect_keeps
  apply marched_keeps
  assumption
  refine keeps_pair ?_
  apply clusterFailed_keeps
  apply noteSuspect_keeps
  apply marched_keeps
  assumption
theorem trial_pair {p : Nat} {first again : Bool} {s : State} {s₀ : State} {a₀} {t₀ : State} (e₀ : trial p first again s = (a₀, t₀)) (h₀ : Keeps s₀ s) : Keeps s₀ t₀ := by
  have k := @trial_keeps p first again s s₀ h₀
  rw [e₀] at k; exact k

theorem execTrialRun_keeps {p : Nat} {first again : Bool} {b : Nat} {s : State} {s₀ : State} (h₀ : Keeps s₀ s) : KeepsO s₀ (execTrialRun p first again b s) := by
  unfold execTrialRun
  refine keepsO_onUnit ?_ ?_
  intro _
  intro _
  dsimp only
  refine keeps_whenS ?_ ?_
  intro _
  intro _
  apply trial_keeps
  assumption
  apply advanceTo_keeps
  assumption
  assumption

theorem execTrialService_keeps {rid p : Nat} {first again : Bool} {s : State} {s₀ : State} (h₀ : Keeps s₀ s) : KeepsO s₀ (execTrialService rid p first again s) := by
  unfold execTrialService
  refine keepsO_next ?_
  apply service_keeps
  intro _
  intro _
  refine keeps_ite2 ?_ ?_
  refine keeps_pair ?_
  assumption
  refine keeps_ite2 ?_ ?_
  refine keeps_pair ?_
  assumption
  split
  refine keeps_pair ?_
  refine trial_pair (by assumption) ?_
  assumption
  assumption

theorem holdPorts_keeps {p mask : Nat} {s : State} {s₀ : State} (h₀ : Keeps s₀ s) : Keeps s₀ (holdPorts p mask s) := by
  unfold holdPorts
  refine keeps_foldl ?_ ?_
  intro _
  intro _
  intro _
  apply portDown_keeps
  assumption
  assumption

theorem applyDefect_keeps {d : Defect} {s : State} {s₀ : State} (h₀ : Keeps s₀ s) : Keeps s₀ (applyDefect d s) := by
  unfold applyDefect
  dsimp only
  refine keeps_ite ?_ ?_
  assumption
  refine keeps_ite ?_ ?_
  apply setFld_keeps
  assumption
  refine keeps_ite ?_ ?_
  apply setClState_keeps
  assumption
  refine keeps_ite ?_ ?_
  refine keeps_ite ?_ ?_
  refine keeps_mk ?_
  apply setClState_keeps
  apply holdPorts_keeps
  assumption
  apply setClState_keeps
  apply holdPorts_keeps
  assumption
  refine keeps_ite ?_ ?_
  refine keeps_ite ?_ ?_
  apply updFreq_keeps
  apply setFld_keeps
  assumption
  assumption
  apply modCluster_keeps
  assumption

theorem execDmapLoad_keeps {rid a0 a1 : Nat} {s : State} {s₀ : State} (h₀ : Keeps s₀ s) : KeepsO s₀ (execDmapLoad rid a0 a1 s) := by
  unfold execDmapLoad
  refine keepsO_next ?_
  apply service_keeps
  intro _
  intro _
  refine keeps_ite2 ?_ ?_
  refine keeps_pair ?_
  assumption
  dsimp only
  refine keeps_ite2 ?_ ?_
  refine keeps_pair ?_
  apply verify_keeps
  assumption
  refine keeps_ite2 ?_ ?_
  refine keeps_pair ?_
  apply verify_keeps
  assumption
  refine keeps_ite2 ?_ ?_
  refine keeps_pair ?_
  apply verify_keeps
  assumption
  refine keeps_ite2 ?_ ?_
  refine keeps_pair ?_
  apply verify_keeps
  assumption
  refine keeps_pair ?_
  apply updStatus_keeps
  refine keeps_foldl ?_ ?_
  intro _
  intro _
  intro _
  apply applyDefect_keeps
  assumption
  apply measure_keeps
  apply setFlash_keeps
  apply verify_keeps
  assumption
  assumption

end Sys2Proof.Machine
end

