-- ==== Sys2Proof/Laws/KeepPower.lean ====
section
/-! SUPPORT. One lemma for each definition of Machine/Power.lean that answers a state: it keeps the queue and the canonical form. -/
namespace Sys2Proof.Machine

theorem pwrFault_keeps {b g : Nat} {s : State} {s₀ : State} (h₀ : Keeps s₀ s) : Keeps s₀ (pwrFault b g s) := by
  unfold pwrFault
  apply raise_keeps
  apply setFld_keeps
  assumption

theorem capGal_keeps {g cause : Nat} {s : State} {s₀ : State} (h₀ : Keeps s₀ s) : Keeps s₀ (capGal g cause s) := by
  unfold capGal
  refine keeps_ite ?_ ?_
  assumption
  apply pwrFault_keeps
  apply setGal_keeps
  assumption

theorem execPhaseLost_keeps {g phase : Nat} {s : State} {s₀ : State} (h₀ : Keeps s₀ s) : KeepsO s₀ (execPhaseLost g phase s) := by
  unfold execPhaseLost
  refine keepsO_onUnits ?_ ?_
  intro _
  intro _
  dsimp only
  refine keeps_whenS ?_ ?_
  intro _
  intro _
  refine keeps_ite ?_ ?_
  apply addRecord_keeps
  apply pwrFault_keeps
  apply setFld_keeps
  assumption
  refine keeps_ite ?_ ?_
  apply darken_keeps
  apply addRecord_keeps
  apply pwrFault_keeps
  apply setFld_keeps
  assumption
  refine keeps_ite ?_ ?_
  apply capGal_keeps
  apply setFld_keeps
  apply addRecord_keeps
  apply pwrFault_keeps
  apply setFld_keeps
  assumption
  apply setFld_keeps
  apply addRecord_keeps
  apply pwrFault_keeps
  apply setFld_keeps
  assumption
  assumption
  assumption

theorem execCrackDetect_keeps {g excess b : Nat} {s : State} {s₀ : State} (h₀ : Keeps s₀ s) : KeepsO s₀ (execCrackDetect g excess b s) := by
  unfold execCrackDetect
  refine keepsO_onUnit ?_ ?_
  intro _
  intro _
  dsimp only
  refine keeps_whenS ?_ ?_
  intro _
  intro _
  refine keeps_ite ?_ ?_
  apply darken_keeps
  refine keeps_mk ?_
  refine keeps_ite ?_ ?_
  assumption
  apply pwrFault_keeps
  refine keeps_mk ?_
  assumption
  refine keeps_ite ?_ ?_
  refine keeps_ite ?_ ?_
  assumption
  apply pwrFault_keeps
  refine keeps_mk ?_
  assumption
  refine keeps_ite ?_ ?_
  apply setGal_keeps
  apply setFld_keeps
  refine keeps_ite ?_ ?_
  assumption
  apply pwrFault_keeps
  refine keeps_mk ?_
  assumption
  apply capGal_keeps
  apply setFld_keeps
  refine keeps_ite ?_ ?_
  assumption
  apply pwrFault_keeps
  refine keeps_mk ?_
  assumption
  apply advanceTo_keeps
  assumption
  assumption

theorem execCrackPersist_keeps {g b : Nat} {s : State} {s₀ : State} (h₀ : Keeps s₀ s) : KeepsO s₀ (execCrackPersist g b s) := by
  unfold execCrackPersist
  refine keepsO_onUnit ?_ ?_
  intro _
  intro _
  dsimp only
  refine keeps_whenS ?_ ?_
  intro _
  intro _
  apply darken_keeps
  refine keeps_mk ?_
  assumption
  apply advanceTo_keeps
  assumption
  assumption

theorem execShortDetect_keeps {g : Nat} {s : State} {s₀ : State} (h₀ : Keeps s₀ s) : KeepsO s₀ (execShortDetect g s) := by
  unfold execShortDetect
  refine keepsO_onUnit ?_ ?_
  intro _
  intro _
  refine keeps_whenS ?_ ?_
  intro _
  intro _
  apply darken_keeps
  apply pwrFault_keeps
  assumption
  assumption
  assumption

theorem execEfuseOpen_keeps {g : Nat} {s : State} {s₀ : State} (h₀ : Keeps s₀ s) : KeepsO s₀ (execEfuseOpen g s) := by
  unfold execEfuseOpen
  refine keepsO_onUnit ?_ ?_
  intro _
  intro _
  refine keeps_whenS ?_ ?_
  intro _
  intro _
  apply darken_keeps
  apply pwrFault_keeps
  assumption
  assumption
  assumption

theorem clkMargin_keeps {b p : Nat} {s : State} {s₀ : State} (h₀ : Keeps s₀ s) : Keeps s₀ (clkMargin b p s) := by
  unfold clkMargin
  apply raise_keeps
  apply setFld_keeps
  assumption

theorem execMarginAlert_keeps {p : Nat} {alert : Bool} {b : Nat} {s : State} {s₀ : State} (h₀ : Keeps s₀ s) : KeepsO s₀ (execMarginAlert p alert b s) := by
  unfold execMarginAlert
  refine keepsO_onUnit ?_ ?_
  intro _
  intro _
  dsimp only
  refine keeps_whenS ?_ ?_
  intro _
  intro _
  refine keeps_ite ?_ ?_
  apply clkMargin_keeps
  assumption
  apply updThrottle_keeps
  refine keeps_mk ?_
  apply clkMargin_keeps
  assumption
  apply advanceTo_keeps
  assumption
  assumption

theorem execAlertHoldEnd_keeps {p b : Nat} {s : State} {s₀ : State} (h₀ : Keeps s₀ s) : KeepsO s₀ (execAlertHoldEnd p b s) := by
  unfold execAlertHoldEnd
  refine keepsO_onUnit ?_ ?_
  intro _
  intro _
  dsimp only
  refine keeps_whenS ?_ ?_
  intro _
  intro _
  apply updThrottle_keeps
  refine keeps_mk ?_
  assumption
  apply advanceTo_keeps
  assumption
  assumption

theorem writeRecordF_keeps {l : List (Nat × Nat)} {s : State} {s₀ : State} (h₀ : Keeps s₀ s) : Keeps s₀ (writeRecordF l s) := by
  unfold writeRecordF
  apply extend_keeps
  refine keeps_mk ?_
  assumption

theorem execFmaxRefine_keeps {p b : Nat} {s : State} {s₀ : State} (h₀ : Keeps s₀ s) : KeepsO s₀ (execFmaxRefine p b s) := by
  unfold execFmaxRefine
  refine keepsO_onUnit ?_ ?_
  intro _
  intro _
  dsimp only
  refine keeps_whenS ?_ ?_
  intro _
  intro _
  refine keeps_ite ?_ ?_
  apply clusterFailed_keeps
  apply clkMargin_keeps
  refine keeps_mk ?_
  assumption
  apply updFreq_keeps
  apply clkMargin_keeps
  apply writeRecordF_keeps
  apply setFlds_keeps
  refine keeps_mk ?_
  assumption
  apply advanceTo_keeps
  assumption
  assumption

theorem execCapTick_keeps {p10 vin iin b : Nat} {s : State} {s₀ : State} (h₀ : Keeps s₀ s) : KeepsO s₀ (execCapTick p10 vin iin b s) := by
  unfold execCapTick
  refine keepsO_next ?_
  dsimp only
  apply updThrottle_keeps
  refine keeps_ite ?_ ?_
  apply raise_keeps
  apply setFlds_keeps
  apply wr_keeps
  refine keeps_mk ?_
  apply setFlds_keeps
  apply advanceTo_keeps
  assumption
  apply setFlds_keeps
  apply wr_keeps
  refine keeps_mk ?_
  apply setFlds_keeps
  apply advanceTo_keeps
  assumption

theorem execGalleryCurrentTick_keeps {g iout : Nat} {low : Bool} {s : State} {s₀ : State} (h₀ : Keeps s₀ s) : KeepsO s₀ (execGalleryCurrentTick g iout low s) := by
  unfold execGalleryCurrentTick
  refine keepsO_onUnit ?_ ?_
  intro _
  intro _
  dsimp only
  refine keeps_whenS ?_ ?_
  intro _
  intro _
  apply updThrottle_keeps
  refine keeps_mk ?_
  assumption
  apply setFld_keeps
  assumption
  assumption

theorem thmFault_keeps {b u : Nat} {s : State} {s₀ : State} (h₀ : Keeps s₀ s) : Keeps s₀ (thmFault b u s) := by
  unfold thmFault
  apply raise_keeps
  apply setFld_keeps
  assumption

theorem heatFlags_keeps {u : Nat} {old new : Int} {s : State} {s₀ : State} (h₀ : Keeps s₀ s) : Keeps s₀ (heatFlags u old new s) := by
  unfold heatFlags
  dsimp only
  refine keeps_ite ?_ ?_
  apply thmFault_keeps
  refine keeps_ite ?_ ?_
  apply thmFault_keeps
  assumption
  assumption
  refine keeps_ite ?_ ?_
  apply thmFault_keeps
  assumption
  assumption

theorem readGal_keeps {g : Nat} {l : List Nat} {s : State} {s₀ : State} (h₀ : Keeps s₀ s) : Keeps s₀ (readGal g l s) := by
  unfold readGal
  dsimp only
  refine keeps_mk ?_
  apply heatFlags_keeps
  apply wr_keeps
  assumption

theorem readDie_keeps {k x : Nat} {s : State} {s₀ : State} (h₀ : Keeps s₀ s) : Keeps s₀ (readDie k x s) := by
  unfold readDie
  dsimp only
  refine keeps_ite ?_ ?_
  apply heatFlags_keeps
  apply setFld_keeps
  assumption
  refine keeps_ite ?_ ?_
  apply thmFault_keeps
  apply setFld_keeps
  assumption
  apply setFld_keeps
  assumption

theorem execSensorRead_keeps {u : Nat} {l : List Nat} {b : Nat} {s : State} {s₀ : State} (h₀ : Keeps s₀ s) : KeepsO s₀ (execSensorRead u l b s) := by
  unfold execSensorRead
  refine keepsO_onUnit ?_ ?_
  intro _
  intro _
  dsimp only
  apply updThrottle_keeps
  refine keeps_ite ?_ ?_
  apply readGal_keeps
  apply advanceTo_keeps
  assumption
  apply readDie_keeps
  apply advanceTo_keeps
  assumption
  assumption

theorem execThermalSoftTick_keeps {g : Nat} {s : State} {s₀ : State} (h₀ : Keeps s₀ s) : KeepsO s₀ (execThermalSoftTick g s) := by
  unfold execThermalSoftTick
  refine keepsO_onUnit ?_ ?_
  intro _
  intro _
  dsimp only
  apply updThrottle_keeps
  refine keeps_mk ?_
  assumption
  assumption

theorem parkGal_keeps {g cause : Nat} {s : State} {s₀ : State} (h₀ : Keeps s₀ s) : Keeps s₀ (parkGal g cause s) := by
  unfold parkGal
  dsimp only
  apply updThrottle_keeps
  refine keeps_mk ?_
  apply setFlds_keeps
  apply setGal_keeps
  refine keeps_foldl ?_ ?_
  intro _
  intro _
  intro _
  refine keeps_ite ?_ ?_
  assumption
  apply stopCluster_keeps
  assumption
  assumption

theorem dropMove_keeps {p : Nat} {s : State} {s₀ : State} (h₀ : Keeps s₀ s) : Keeps s₀ (dropMove p s) := by
  unfold dropMove
  refine keeps_ite ?_ ?_
  apply fenceCluster_keeps
  refine keeps_mk ?_
  assumption
  assumption

theorem execHeatPark_keeps {g b : Nat} {s : State} {s₀ : State} (h₀ : Keeps s₀ s) : KeepsO s₀ (execHeatPark g b s) := by
  unfold execHeatPark
  refine keepsO_onUnit ?_ ?_
  intro _
  intro _
  dsimp only
  refine keeps_ite ?_ ?_
  apply parkGal_keeps
  refine keeps_mk ?_
  refine keeps_ite ?_ ?_
  refine keeps_foldl ?_ ?_
  intro _
  intro _
  intro _
  refine keeps_ite ?_ ?_
  apply fenceCluster_keeps
  assumption
  apply dropMove_keeps
  assumption
  apply thmFault_keeps
  refine keeps_mk ?_
  apply advanceTo_keeps
  assumption
  apply advanceTo_keeps
  assumption
  refine keeps_ite ?_ ?_
  refine keeps_foldl ?_ ?_
  intro _
  intro _
  intro _
  refine keeps_ite ?_ ?_
  apply fenceCluster_keeps
  assumption
  apply dropMove_keeps
  assumption
  apply thmFault_keeps
  refine keeps_mk ?_
  apply advanceTo_keeps
  assumption
  apply advanceTo_keeps
  assumption
  assumption

theorem execGalPark_keeps {rid g : Nat} {s : State} {s₀ : State} (h₀ : Keeps s₀ s) : KeepsO s₀ (execGalPark rid g s) := by
  unfold execGalPark
  refine keepsO_next ?_
  apply service_keeps
  intro _
  intro _
  refine keeps_ite2 ?_ ?_
  refine keeps_pair ?_
  assumption
  refine keeps_ite2 ?_ ?_
  refine keeps_pair ?_
  assumption
  refine keeps_ite2 ?_ ?_
  refine keeps_pair ?_
  assumption
  refine keeps_ite2 ?_ ?_
  refine keeps_pair ?_
  assumption
  refine keeps_pair ?_
  apply parkGal_keeps
  assumption
  assumption

theorem execGalPowerRequest_keeps {g b : Nat} {s : State} {s₀ : State} (h₀ : Keeps s₀ s) : KeepsO s₀ (execGalPowerRequest g b s) := by
  unfold execGalPowerRequest
  refine keepsO_onUnit ?_ ?_
  intro _
  intro _
  dsimp only
  refine keeps_whenS ?_ ?_
  intro _
  intro _
  apply askPower_keeps
  assumption
  apply advanceTo_keeps
  assumption
  assumption

theorem execGalGrant_keeps {b : Nat} {s : State} {s₀ : State} (h₀ : Keeps s₀ s) : KeepsO s₀ (execGalGrant b s) := by
  unfold execGalGrant
  refine keepsO_next ?_
  dsimp only
  split
  apply advanceTo_keeps
  assumption
  refine keeps_mk ?_
  apply setGal_keeps
  apply advanceTo_keeps
  assumption

theorem execGalForcing_keeps {g : Nat} {skips : List (Nat × Nat)} {theta b : Nat} {s : State} {s₀ : State} (h₀ : Keeps s₀ s) : KeepsO s₀ (execGalForcing g skips theta b s) := by
  unfold execGalForcing
  refine keepsO_onUnit ?_ ?_
  intro _
  intro _
  dsimp only
  refine keeps_whenS ?_ ?_
  intro _
  intro _
  apply updThrottle_keeps
  refine keeps_mk ?_
  assumption
  apply advanceTo_keeps
  assumption
  assumption

theorem execGalRampDone_keeps {g b : Nat} {s : State} {s₀ : State} (h₀ : Keeps s₀ s) : KeepsO s₀ (execGalRampDone g b s) := by
  unfold execGalRampDone
  refine keepsO_onUnit ?_ ?_
  intro _
  intro _
  dsimp only
  refine keeps_whenS ?_ ?_
  intro _
  intro _
  apply updThrottle_keeps
  refine keeps_mk ?_
  assumption
  apply advanceTo_keeps
  assumption
  assumption

theorem retryClusters_keeps {g passes : Nat} {s : State} {s₀ : State} (h₀ : Keeps s₀ s) : Keeps s₀ (retryClusters g passes s) := by
  unfold retryClusters
  refine keeps_foldl ?_ ?_
  intro _
  intro _
  intro _
  dsimp only
  refine keeps_ite ?_ ?_
  assumption
  refine keeps_ite ?_ ?_
  apply setClState_keeps
  apply setClass_keeps
  assumption
  apply setClState_keeps
  apply setClass_keeps
  apply noteSuspect_keeps
  assumption
  assumption

theorem execGalOn_keeps {g passes b : Nat} {s : State} {s₀ : State} (h₀ : Keeps s₀ s) : KeepsO s₀ (execGalOn g passes b s) := by
  unfold execGalOn
  refine keepsO_onUnit ?_ ?_
  intro _
  intro _
  dsimp only
  refine keeps_whenS ?_ ?_
  intro _
  intro _
  apply updThrottle_keeps
  apply updStatus_keeps
  refine keeps_ite ?_ ?_
  apply retryClusters_keeps
  refine keeps_mk ?_
  refine keeps_ite ?_ ?_
  apply capGal_keeps
  apply setFld_keeps
  refine keeps_ite ?_ ?_
  apply setFld_keeps
  refine keeps_mk ?_
  assumption
  refine keeps_mk ?_
  assumption
  apply setGal_keeps
  apply setFld_keeps
  refine keeps_ite ?_ ?_
  apply setFld_keeps
  refine keeps_mk ?_
  assumption
  refine keeps_mk ?_
  assumption
  refine keeps_ite ?_ ?_
  apply capGal_keeps
  apply setFld_keeps
  refine keeps_ite ?_ ?_
  apply setFld_keeps
  refine keeps_mk ?_
  assumption
  refine keeps_mk ?_
  assumption
  apply setGal_keeps
  apply setFld_keeps
  refine keeps_ite ?_ ?_
  apply setFld_keeps
  refine keeps_mk ?_
  assumption
  refine keeps_mk ?_
  assumption
  apply advanceTo_keeps
  assumption
  assumption

theorem execHeatUnpark_keeps {g b : Nat} {s : State} {s₀ : State} (h₀ : Keeps s₀ s) : KeepsO s₀ (execHeatUnpark g b s) := by
  unfold execHeatUnpark
  refine keepsO_onUnit ?_ ?_
  intro _
  intro _
  dsimp only
  refine keeps_whenS ?_ ?_
  intro _
  intro _
  apply askPower_keeps
  refine keeps_mk ?_
  assumption
  apply advanceTo_keeps
  assumption
  assumption

theorem execGalUnpark_keeps {rid g : Nat} {s : State} {s₀ : State} (h₀ : Keeps s₀ s) : KeepsO s₀ (execGalUnpark rid g s) := by
  unfold execGalUnpark
  refine keepsO_next ?_
  apply service_keeps
  intro _
  intro _
  refine keeps_ite2 ?_ ?_
  refine keeps_pair ?_
  assumption
  refine keeps_ite2 ?_ ?_
  refine keeps_pair ?_
  assumption
  refine keeps_pair ?_
  apply askPower_keeps
  assumption
  assumption

theorem execGalRestore_keeps {rid g : Nat} {s : State} {s₀ : State} (h₀ : Keeps s₀ s) : KeepsO s₀ (execGalRestore rid g s) := by
  unfold execGalRestore
  refine keepsO_next ?_
  apply service_keeps
  intro _
  intro _
  refine keeps_ite2 ?_ ?_
  refine keeps_pair ?_
  assumption
  refine keeps_ite2 ?_ ?_
  refine keeps_pair ?_
  assumption
  refine keeps_ite2 ?_ ?_
  refine keeps_pair ?_
  assumption
  refine keeps_pair ?_
  apply askPower_keeps
  refine keeps_mk ?_
  assumption
  assumption

theorem execCalLoad_keeps {rid a0 a1 : Nat} {s : State} {s₀ : State} (h₀ : Keeps s₀ s) : KeepsO s₀ (execCalLoad rid a0 a1 s) := by
  unfold execCalLoad
  refine keepsO_next ?_
  apply service_keeps
  intro _
  intro _
  refine keeps_ite2 ?_ ?_
  refine keeps_pair ?_
  assumption
  dsimp only
  refine keeps_ite2 ?_ ?_
  refine keeps_pair ?_
  apply verify_keeps
  assumption
  refine keeps_pair ?_
  apply setFlash_keeps
  refine keeps_mk ?_
  apply verify_keeps
  assumption
  assumption

theorem execCalTableApply_keeps {b : Nat} {s : State} {s₀ : State} (h₀ : Keeps s₀ s) : KeepsO s₀ (execCalTableApply b s) := by
  unfold execCalTableApply
  dsimp only
  refine keepsO_next ?_
  split
  apply advanceTo_keeps
  assumption
  refine keeps_ite ?_ ?_
  apply advanceTo_keeps
  assumption
  apply measure_keeps
  refine keeps_mk ?_
  apply advanceTo_keeps
  assumption

theorem execThrotAssert_keeps {s : State} {s₀ : State} (h₀ : Keeps s₀ s) : KeepsO s₀ (execThrotAssert s) := by
  unfold execThrotAssert
  refine keepsO_next ?_
  apply updThrottle_keeps
  apply setFld_keeps
  assumption

theorem execThrotRelease_keeps {s : State} {s₀ : State} (h₀ : Keeps s₀ s) : KeepsO s₀ (execThrotRelease s) := by
  unfold execThrotRelease
  refine keepsO_next ?_
  apply updThrottle_keeps
  apply setFld_keeps
  assumption

theorem capSet_keeps {w : Nat} {s : State} {s₀ : State} (h₀ : Keeps s₀ s) : Keeps s₀ (capSet w s).2 := by
  unfold capSet
  refine keeps_ite2 ?_ ?_
  refine keeps_pair ?_
  assumption
  refine keeps_pair ?_
  apply setFld_keeps
  assumption
theorem capSet_pair {w : Nat} {s : State} {s₀ : State} {a₀} {t₀ : State} (e₀ : capSet w s = (a₀, t₀)) (h₀ : Keeps s₀ s) : Keeps s₀ t₀ := by
  have k := @capSet_keeps w s s₀ h₀
  rw [e₀] at k; exact k

theorem execCapService_keeps {rid w : Nat} {s : State} {s₀ : State} (h₀ : Keeps s₀ s) : KeepsO s₀ (execCapService rid w s) := by
  unfold execCapService
  refine keepsO_next ?_
  apply service_keeps
  intro _
  intro _
  split
  refine keeps_pair ?_
  refine capSet_pair (by assumption) ?_
  assumption
  assumption

theorem execPwrStatus_keeps {rid : Nat} {s : State} {s₀ : State} (h₀ : Keeps s₀ s) : KeepsO s₀ (execPwrStatus rid s) := by
  unfold execPwrStatus
  refine keepsO_next ?_
  apply serviceRead_keeps
  assumption

theorem execThrRead_keeps {rid : Nat} {s : State} {s₀ : State} (h₀ : Keeps s₀ s) : KeepsO s₀ (execThrRead rid s) := by
  unfold execThrRead
  refine keepsO_next ?_
  apply serviceRead_keeps
  assumption

theorem execPwrFaultRead_keeps {rid : Nat} {s : State} {s₀ : State} (h₀ : Keeps s₀ s) : KeepsO s₀ (execPwrFaultRead rid s) := by
  unfold execPwrFaultRead
  refine keepsO_next ?_
  apply serviceRead_keeps
  assumption

theorem execTemps_keeps {rid g : Nat} {s : State} {s₀ : State} (h₀ : Keeps s₀ s) : KeepsO s₀ (execTemps rid g s) := by
  unfold execTemps
  refine keepsO_next ?_
  apply service_keeps
  intro _
  intro _
  refine keeps_ite2 ?_ ?_
  refine keeps_pair ?_
  assumption
  refine keeps_pair ?_
  assumption
  assumption

theorem execThmFaultRead_keeps {rid : Nat} {s : State} {s₀ : State} (h₀ : Keeps s₀ s) : KeepsO s₀ (execThmFaultRead rid s) := by
  unfold execThmFaultRead
  refine keepsO_next ?_
  apply serviceRead_keeps
  assumption

theorem execClkFreq_keeps {rid l f : Nat} {s : State} {s₀ : State} (h₀ : Keeps s₀ s) : KeepsO s₀ (execClkFreq rid l f s) := by
  unfold execClkFreq
  refine keepsO_next ?_
  apply service_keeps
  intro _
  intro _
  refine keeps_ite2 ?_ ?_
  refine keeps_pair ?_
  assumption
  refine keeps_ite2 ?_ ?_
  refine keeps_pair ?_
  assumption
  dsimp only
  refine keeps_ite ?_ ?_
  apply setFset_keeps
  refine keeps_mk ?_
  assumption
  refine keeps_mk ?_
  assumption
  assumption

theorem execClkFmax_keeps {rid p : Nat} {s : State} {s₀ : State} (h₀ : Keeps s₀ s) : KeepsO s₀ (execClkFmax rid p s) := by
  unfold execClkFmax
  refine keepsO_next ?_
  apply service_keeps
  intro _
  intro _
  refine keeps_ite2 ?_ ?_
  refine keeps_pair ?_
  assumption
  refine keeps_pair ?_
  assumption
  assumption

theorem clkModeWrite_keeps {v : Nat} {s : State} {s₀ : State} (h₀ : Keeps s₀ s) : Keeps s₀ (clkModeWrite v s).2 := by
  unfold clkModeWrite
  refine keeps_pair ?_
  apply updFreqs_keeps
  apply setFld_keeps
  assumption
theorem clkModeWrite_pair {v : Nat} {s : State} {s₀ : State} {a₀} {t₀ : State} (e₀ : clkModeWrite v s = (a₀, t₀)) (h₀ : Keeps s₀ s) : Keeps s₀ t₀ := by
  have k := @clkModeWrite_keeps v s s₀ h₀
  rw [e₀] at k; exact k

theorem fsetWrite_keeps {p v : Nat} {s : State} {s₀ : State} (h₀ : Keeps s₀ s) : Keeps s₀ (fsetWrite p v s).2 := by
  unfold fsetWrite
  dsimp only
  refine keeps_ite2 ?_ ?_
  refine keeps_pair ?_
  apply setFset_keeps
  assumption
  refine keeps_pair ?_
  assumption
theorem fsetWrite_pair {p v : Nat} {s : State} {s₀ : State} {a₀} {t₀ : State} (e₀ : fsetWrite p v s = (a₀, t₀)) (h₀ : Keeps s₀ s) : Keeps s₀ t₀ := by
  have k := @fsetWrite_keeps p v s s₀ h₀
  rw [e₀] at k; exact k

end Sys2Proof.Machine
end

