-- ==== Sys2Proof/Laws/KeepStart.lean ====
section
/-! SUPPORT. One lemma for each definition of Machine/Start.lean that answers a state: it keeps the queue and the canonical form. -/
namespace Sys2Proof.Machine

theorem recordFmax_keeps {s : State} {s₀ : State} (h₀ : Keeps s₀ s) : Keeps s₀ (recordFmax s) := by
  unfold recordFmax
  refine keeps_foldl ?_ ?_
  intro _
  intro _
  intro _
  apply setFlds_keeps
  assumption
  assumption

theorem keeps_resetPart_base {s s₀ : State} (h₀ : Keeps s₀ s) (v : Bool) : Keeps s₀ (resetPart v s) := by
  unfold resetPart
  dsimp only
  refine setFld_keeps (recordFmax_keeps (setFld_keeps ?_))
  exact ⟨h₀.queue, fun c => ⟨tabWf_filter _ (h₀.canon c).1, rfl, rfl, rfl⟩⟩
theorem resetPart_keeps {v : Bool} {s s₀ : State} (h₀ : Keeps s₀ s) : Keeps s₀ (resetPart v s) := by
  exact keeps_resetPart_base h₀ v

theorem execRstNReset_keeps {us : Nat} {vinOk : Bool} {s : State} {s₀ : State} (h₀ : Keeps s₀ s) : KeepsO s₀ (execRstNReset us vinOk s) := by
  unfold execRstNReset
  refine keepsO_next ?_
  refine keeps_whenS ?_ ?_
  intro _
  intro _
  apply resetPart_keeps
  assumption
  assumption

theorem execBruReset_keeps {rid : Nat} {vinOk : Bool} {s : State} {s₀ : State} (h₀ : Keeps s₀ s) : KeepsO s₀ (execBruReset rid vinOk s) := by
  unfold execBruReset
  refine keepsO_next ?_
  refine keeps_ite ?_ ?_
  assumption
  refine keeps_ite ?_ ?_
  apply answerWith_keeps
  assumption
  refine keeps_ite ?_ ?_
  apply answerWith_keeps
  assumption
  apply answerWith_keeps
  apply resetPart_keeps
  assumption

theorem stageDone_keeps {n ms : Nat} {s : State} {s₀ : State} (h₀ : Keeps s₀ s) : Keeps s₀ (stageDone n ms s) := by
  unfold stageDone
  dsimp only
  refine keeps_mk ?_
  apply setFld_keeps
  apply wr_keeps
  assumption

theorem stage_keeps {n b : Nat} {work : State → State} {s s₀ : State}
    (hf : ∀ s, Keeps s₀ s → Keeps s₀ (work s)) (h₀ : Keeps s₀ s) : KeepsO s₀ (stage n b work s) := by
  unfold stage
  refine keepsO_next ?_
  refine keeps_whenS ?_ ?_
  intro _
  intro _
  dsimp only
  refine keeps_ite ?_ ?_
  apply stageDone_keeps
  apply hf
  apply advanceTo_keeps
  assumption
  apply hf
  apply advanceTo_keeps
  assumption
  assumption

theorem stageFail_keeps {n kind unit : Nat} {s : State} {s₀ : State} (h₀ : Keeps s₀ s) : Keeps s₀ (stageFail n kind unit s) := by
  unfold stageFail
  dsimp only
  apply addRecord_keeps
  apply setFlds_keeps
  assumption

theorem latchStraps_keeps {pins : Nat} {s : State} {s₀ : State} (h₀ : Keeps s₀ s) : Keeps s₀ (latchStraps pins s) := by
  unfold latchStraps
  apply setFlds_keeps
  assumption

theorem powerGal_keeps {g : Nat} {short : Bool} {s : State} {s₀ : State} (h₀ : Keeps s₀ s) : Keeps s₀ (powerGal g short s) := by
  unfold powerGal
  dsimp only
  refine keeps_ite ?_ ?_
  apply darken_keeps
  apply pwrFault_keeps
  apply setFlds_keeps
  assumption
  refine keeps_ite ?_ ?_
  apply darken_keeps
  apply setFlds_keeps
  assumption
  refine keeps_ite ?_ ?_
  apply capGal_keeps
  apply setFlds_keeps
  assumption
  apply setGal_keeps
  apply setFlds_keeps
  assumption

theorem execStagePower_keeps {straps : Nat} {refclk : Bool} {shorts : List Nat} {ms : Nat} {s : State} {s₀ : State} (h₀ : Keeps s₀ s) : KeepsO s₀ (execStagePower straps refclk shorts ms s) := by
  unfold execStagePower
  refine keepsO_next ?_
  refine keeps_whenS ?_ ?_
  intro _
  intro _
  dsimp only
  refine keeps_ite ?_ ?_
  apply stageFail_keeps
  apply latchStraps_keeps
  assumption
  apply stageDone_keeps
  refine keeps_mk ?_
  refine keeps_foldl ?_ ?_
  intro _
  intro _
  intro _
  apply powerGal_keeps
  assumption
  split
  apply addRecord_keeps
  refine keeps_mk ?_
  apply latchStraps_keeps
  assumption
  apply latchStraps_keeps
  assumption
  assumption

theorem bootObject_keeps {type key : Nat} {s : State} {s₀ : State} (h₀ : Keeps s₀ s) : Keeps s₀ (bootObject type key s).2 := by
  unfold bootObject
  dsimp only
  split
  refine keeps_pair ?_
  apply measure_keeps
  refine keeps_mk ?_
  refine verify_pair (by assumption) ?_
  assumption
  refine keeps_pair ?_
  refine verify_pair (by assumption) ?_
  assumption
theorem bootObject_pair {type key : Nat} {s : State} {s₀ : State} {a₀} {t₀ : State} (e₀ : bootObject type key s = (a₀, t₀)) (h₀ : Keeps s₀ s) : Keeps s₀ t₀ := by
  have k := @bootObject_keeps type key s s₀ h₀
  rw [e₀] at k; exact k

theorem bootCid_keeps {s : State} {s₀ : State} (h₀ : Keeps s₀ s) : Keeps s₀ (bootCid s).2 := by
  unfold bootCid
  split
  refine keeps_pair ?_
  refine bootObject_pair (by assumption) ?_
  assumption
  dsimp only
  split
  refine keeps_pair ?_
  apply setFld_keeps
  refine bootObject_pair (by assumption) ?_
  refine bootObject_pair (by assumption) ?_
  assumption
  refine keeps_pair ?_
  refine bootObject_pair (by assumption) ?_
  refine bootObject_pair (by assumption) ?_
  assumption
theorem bootCid_pair {s : State} {s₀ : State} {a₀} {t₀ : State} (e₀ : bootCid s = (a₀, t₀)) (h₀ : Keeps s₀ s) : Keeps s₀ t₀ := by
  have k := @bootCid_keeps s s₀ h₀
  rw [e₀] at k; exact k

theorem bootOthers_keeps {l : List Nat} {s s₀ : State} (h₀ : Keeps s₀ s) : Keeps s₀ (bootOthers l s).2 := by
  induction l generalizing s with
  | nil => exact h₀
  | cons a t ih =>
    have h2 := @bootObject_keeps a a s s₀ h₀
    unfold bootOthers
    split
    · rename_i e
      rw [e] at h2
      exact ih h2
    · rename_i e
      rw [e] at h2
      exact h2
theorem bootOthers_pair {l : List Nat} {s s₀ : State} {a₀} {t₀ : State} (e₀ : bootOthers l s = (a₀, t₀)) (h₀ : Keeps s₀ s) : Keeps s₀ t₀ := by
  have k := @bootOthers_keeps l s s₀ h₀
  rw [e₀] at k; exact k

theorem bootTable_keeps {type : Nat} {s : State} {s₀ : State} (h₀ : Keeps s₀ s) : Keeps s₀ (bootTable type s) := by
  unfold bootTable
  dsimp only
  refine keeps_ite ?_ ?_
  assumption
  split
  refine keeps_mk ?_
  refine verify_pair (by assumption) ?_
  assumption
  apply addRecord_keeps
  refine verify_pair (by assumption) ?_
  assumption

theorem bootCal_keeps {s : State} {s₀ : State} (h₀ : Keeps s₀ s) : Keeps s₀ (bootCal s) := by
  unfold bootCal
  refine keeps_ite ?_ ?_
  apply measure_keeps
  refine keeps_mk ?_
  assumption
  assumption

theorem execStageSecureBoot_keeps {b : Nat} {s : State} {s₀ : State} (h₀ : Keeps s₀ s) : KeepsO s₀ (execStageSecureBoot b s) := by
  unfold execStageSecureBoot
  apply stage_keeps
  intro _
  intro _
  dsimp only
  split
  split
  apply setFld_keeps
  apply bootCal_keeps
  apply bootTable_keeps
  apply bootTable_keeps
  apply extend_keeps
  apply setFld_keeps
  refine bootOthers_pair (by assumption) ?_
  refine bootCid_pair (by assumption) ?_
  apply extend_keeps
  assumption
  apply stageFail_keeps
  refine bootOthers_pair (by assumption) ?_
  refine bootCid_pair (by assumption) ?_
  apply extend_keeps
  assumption
  apply stageFail_keeps
  refine bootCid_pair (by assumption) ?_
  apply extend_keeps
  assumption
  assumption

theorem execStageFusesRead_keeps {b : Nat} {s : State} {s₀ : State} (h₀ : Keeps s₀ s) : KeepsO s₀ (execStageFusesRead b s) := by
  unfold execStageFusesRead
  apply stage_keeps
  intro _
  intro _
  refine keeps_foldl ?_ ?_
  intro _
  intro _
  intro _
  refine keeps_ite ?_ ?_
  apply modCluster_keeps
  assumption
  assumption
  assumption
  assumption

theorem mapFmax_keeps {s : State} {s₀ : State} (h₀ : Keeps s₀ s) : Keeps s₀ (mapFmax s) := by
  unfold mapFmax
  refine keeps_foldl ?_ ?_
  intro _
  intro _
  intro _
  refine keeps_ite ?_ ?_
  apply setFld_keeps
  assumption
  assumption
  assumption

theorem numberOne_keeps {p : Nat} {x : Nat × State} {s₀ : State} (h₀ : Keeps s₀ x.2) : Keeps s₀ (numberOne p x).2 := by
  unfold numberOne
  dsimp only
  refine keeps_ite2 ?_ (keeps_ite2 ?_ ?_)
  · refine keeps_pair ?_
    apply setFld_keeps
    apply setFlds_keeps
    assumption
  · refine keeps_pair ?_
    apply setClState_keeps
    apply assign_keeps
    apply setFlds_keeps
    assumption
  · refine keeps_pair ?_
    apply setFld_keeps
    apply setClState_keeps
    apply setFlds_keeps
    assumption

theorem execStageDefectMerge_keeps {b : Nat} {s : State} {s₀ : State} (h₀ : Keeps s₀ s) : KeepsO s₀ (execStageDefectMerge b s) := by
  unfold execStageDefectMerge
  apply stage_keeps
  intro _
  intro _
  dsimp only
  apply updStatus_keeps
  refine keeps_mk ?_
  refine keeps_foldl2 ?_ ?_
  intro _
  intro _
  intro _
  apply numberOne_keeps
  assumption
  refine keeps_pair ?_
  refine keeps_mk ?_
  apply mapFmax_keeps
  refine keeps_ite ?_ ?_
  apply measure_keeps
  assumption
  assumption
  assumption

theorem execStagePhaseTraining_keeps {failed : List (Nat × Nat)} {b : Nat} {s : State} {s₀ : State} (h₀ : Keeps s₀ s) : KeepsO s₀ (execStagePhaseTraining failed b s) := by
  unfold execStagePhaseTraining
  apply stage_keeps
  intro _
  intro _
  dsimp only
  refine keeps_foldl ?_ ?_
  intro _
  intro _
  intro _
  refine keeps_foldl ?_ ?_
  intro _
  intro _
  intro _
  refine keeps_ite ?_ ?_
  assumption
  apply setFld_keeps
  apply setFlds_keeps
  assumption
  assumption
  assumption
  assumption

theorem execStageMemoryTraining_keeps {failed : List Nat} {b : Nat} {s : State} {s₀ : State} (h₀ : Keeps s₀ s) : KeepsO s₀ (execStageMemoryTraining failed b s) := by
  unfold execStageMemoryTraining
  apply stage_keeps
  intro _
  intro _
  dsimp only
  split
  apply publishDist_keeps
  refine keeps_foldl ?_ ?_
  intro _
  intro _
  intro _
  apply failMsd_keeps
  assumption
  refine keeps_foldl ?_ ?_
  intro _
  intro _
  intro _
  refine keeps_ite ?_ ?_
  assumption
  apply setFld_keeps
  assumption
  apply setFld_keeps
  refine keeps_hbm ?_ (fun _ => rfl)
  assumption
  refine keeps_ite ?_ ?_
  apply publishDist_keeps
  apply installProxy_keeps
  refine keeps_foldl ?_ ?_
  intro _
  intro _
  intro _
  apply failMsd_keeps
  assumption
  refine keeps_foldl ?_ ?_
  intro _
  intro _
  intro _
  refine keeps_ite ?_ ?_
  assumption
  apply setFld_keeps
  assumption
  apply setFld_keeps
  refine keeps_hbm ?_ (fun _ => rfl)
  assumption
  apply stageFail_keeps
  refine keeps_foldl ?_ ?_
  intro _
  intro _
  intro _
  apply failMsd_keeps
  assumption
  refine keeps_foldl ?_ ?_
  intro _
  intro _
  intro _
  refine keeps_ite ?_ ?_
  assumption
  apply setFld_keeps
  assumption
  apply setFld_keeps
  refine keeps_hbm ?_ (fun _ => rfl)
  assumption
  apply stageFail_keeps
  refine keeps_foldl ?_ ?_
  intro _
  intro _
  intro _
  apply failMsd_keeps
  assumption
  refine keeps_foldl ?_ ?_
  intro _
  intro _
  intro _
  refine keeps_ite ?_ ?_
  assumption
  apply setFld_keeps
  assumption
  apply setFld_keeps
  refine keeps_hbm ?_ (fun _ => rfl)
  assumption
  assumption

theorem selfTestFail_keeps {fails : List Nat} {p : Nat} {s : State} {s₀ : State} (h₀ : Keeps s₀ s) : Keeps s₀ (selfTestFail fails p s) := by
  unfold selfTestFail
  refine keeps_ite ?_ ?_
  assumption
  dsimp only
  refine keeps_ite ?_ ?_
  apply unassign_keeps
  apply setClass_keeps
  apply setClState_keeps
  apply stopCluster_keeps
  apply addRecord_keeps
  assumption
  split
  apply setClState_keeps
  apply assign_keeps
  apply unassign_keeps
  apply setClass_keeps
  apply setClState_keeps
  apply stopCluster_keeps
  apply addRecord_keeps
  assumption
  apply vacate_keeps
  apply unassign_keeps
  apply setClass_keeps
  apply setClState_keeps
  apply stopCluster_keeps
  apply addRecord_keeps
  assumption

theorem enterDiscovery_keeps {s : State} {s₀ : State} (h₀ : Keeps s₀ s) : Keeps s₀ (enterDiscovery s) := by
  unfold enterDiscovery
  dsimp only
  refine keeps_ite ?_ ?_
  apply stageFail_keeps
  apply setFabStatus_keeps
  apply setFld_keeps
  refine keeps_foldl ?_ ?_
  intro _
  intro _
  intro _
  apply setFlds_keeps
  assumption
  assumption
  refine keeps_foldl ?_ ?_
  intro _
  intro _
  intro _
  apply updLg_keeps
  assumption
  refine keeps_mk ?_
  apply setFld_keeps
  refine keeps_foldl ?_ ?_
  intro _
  intro _
  intro _
  apply setFlds_keeps
  assumption
  assumption

theorem execStageSelfTests_keeps {fails : List Nat} {b : Nat} {s : State} {s₀ : State} (h₀ : Keeps s₀ s) : KeepsO s₀ (execStageSelfTests fails b s) := by
  unfold execStageSelfTests
  refine keepsO_next ?_
  refine keeps_whenS ?_ ?_
  intro _
  intro _
  dsimp only
  apply enterDiscovery_keeps
  apply stageDone_keeps
  apply updStatus_keeps
  apply updFreqs_keeps
  refine keeps_foldl ?_ ?_
  intro _
  intro _
  intro _
  refine keeps_ite ?_ ?_
  apply parkGal_keeps
  assumption
  assumption
  refine keeps_foldl ?_ ?_
  intro _
  intro _
  intro _
  apply selfTestFail_keeps
  assumption
  apply advanceTo_keeps
  assumption
  assumption

theorem execStageTopologyDiscovery_keeps {refBeat b : Nat} {s : State} {s₀ : State} (h₀ : Keeps s₀ s) : KeepsO s₀ (execStageTopologyDiscovery refBeat b s) := by
  unfold execStageTopologyDiscovery
  refine keepsO_next ?_
  refine keeps_whenS ?_ ?_
  intro _
  intro _
  dsimp only
  refine keeps_whenS ?_ ?_
  intro _
  intro _
  apply stageDone_keeps
  refine keeps_ite ?_ ?_
  apply setFld_keeps
  apply setFld_keeps
  apply setFabStatus_keeps
  assumption
  refine keeps_mk ?_
  apply setFld_keeps
  apply raise_keeps
  apply setFld_keeps
  apply setFabStatus_keeps
  assumption
  apply advanceTo_keeps
  assumption
  assumption

theorem execDiscoveryTimeout_keeps {b : Nat} {s : State} {s₀ : State} (h₀ : Keeps s₀ s) : KeepsO s₀ (execDiscoveryTimeout b s) := by
  unfold execDiscoveryTimeout
  refine keepsO_next ?_
  refine keeps_whenS ?_ ?_
  intro _
  intro _
  dsimp only
  refine keeps_whenS ?_ ?_
  intro _
  intro _
  apply stageFail_keeps
  apply setFabStatus_keeps
  assumption
  apply advanceTo_keeps
  assumption
  assumption

theorem enterReady_keeps {ms : Nat} {s : State} {s₀ : State} (h₀ : Keeps s₀ s) : Keeps s₀ (enterReady ms s) := by
  unfold enterReady
  dsimp only
  apply updStatus_keeps
  refine keeps_mk ?_
  apply setFld_keeps
  apply setFld_keeps
  apply stageDone_keeps
  assumption

theorem activateBoot_keeps {S : Nat} {s : State} {s₀ : State} (h₀ : Keeps s₀ s) : Keeps s₀ (activateBoot S s) := by
  unfold activateBoot
  dsimp only
  apply enterActive_keeps
  apply moveSlots_keeps
  refine keeps_foldl ?_ ?_
  intro _
  intro _
  intro _
  apply startStreams_keeps
  assumption
  refine keeps_foldl ?_ ?_
  intro _
  intro _
  intro _
  refine keeps_ite ?_ ?_
  apply commitDetour_keeps
  assumption
  assumption
  apply advanceTo_keeps
  apply activate_keeps
  apply wr_keeps
  assumption

theorem execStageCalibreLoad_keeps {bad : List Nat} {b : Nat} {s : State} {s₀ : State} (h₀ : Keeps s₀ s) : KeepsO s₀ (execStageCalibreLoad bad b s) := by
  unfold execStageCalibreLoad
  refine keepsO_next ?_
  refine keeps_whenS ?_ ?_
  intro _
  intro _
  dsimp only
  refine keeps_ite ?_ ?_
  apply enterReady_keeps
  apply advanceTo_keeps
  assumption
  split
  apply enterReady_keeps
  refine admitImage_pair (by assumption) ?_
  apply stageImage_keeps
  apply fwWrite_keeps
  apply advanceTo_keeps
  assumption
  apply enterReady_keeps
  apply activateBoot_keeps
  refine admitImage_pair (by assumption) ?_
  apply stageImage_keeps
  apply fwWrite_keeps
  apply advanceTo_keeps
  assumption
  assumption

end Sys2Proof.Machine
end

