-- ==== Sys2Proof/Laws/KeepBru.lean ====
section
/-! SUPPORT. One lemma for each definition of Machine/Bru.lean that answers a state: it keeps the queue and the canonical form. -/
namespace Sys2Proof.Machine

theorem execBruStatus_keeps {rid : Nat} {s : State} {s₀ : State} (h₀ : Keeps s₀ s) : KeepsO s₀ (execBruStatus rid s) := by
  unfold execBruStatus
  refine keepsO_next ?_
  apply serviceRead_keeps
  assumption

theorem execLogExport_keeps {rid a0 a1 a2 : Nat} {s : State} {s₀ : State} (h₀ : Keeps s₀ s) : KeepsO s₀ (execLogExport rid a0 a1 a2 s) := by
  unfold execLogExport
  refine keepsO_next ?_
  apply service_keeps
  intro _
  intro _
  dsimp only
  refine keeps_ite2 ?_ ?_
  refine keeps_pair ?_
  assumption
  refine keeps_pair ?_
  apply fwWrite_keeps
  assumption
  assumption

theorem execFenceMove_keeps {rid l : Nat} {s : State} {s₀ : State} (h₀ : Keeps s₀ s) : KeepsO s₀ (execFenceMove rid l s) := by
  unfold execFenceMove
  refine keepsO_next ?_
  apply service_keeps
  intro _
  intro _
  refine keeps_ite2 ?_ ?_
  refine keeps_pair ?_
  assumption
  refine keeps_ite2 ?_ ?_
  refine keeps_pair ?_
  assumption
  refine keeps_ite2 ?_ ?_
  refine keeps_pair ?_
  assumption
  refine keeps_ite2 ?_ ?_
  refine keeps_pair ?_
  assumption
  refine keeps_pair ?_
  assumption
  assumption

theorem fenceMovePoll_some {c : Call} {s s₀ : State} {a b} {t : State} (e : fenceMovePoll c s = some (a, b, t)) (h₀ : Keeps s₀ s) : Keeps s₀ t := by
  unfold fenceMovePoll at e
  dsimp only at e
  split at e
  · cases e; exact h₀
  · split at e
    · cases e; exact h₀
    · cases e

theorem runFirmware_keeps {type : Nat} {h : List Byte} {s : State} {s₀ : State} (h₀ : Keeps s₀ s) : Keeps s₀ (runFirmware type h s) := by
  unfold runFirmware
  refine keeps_ite ?_ ?_
  assumption
  apply measure_keeps
  refine keeps_mk ?_
  assumption

theorem execFwUpdate_keeps {rid a0 a1 a2 : Nat} {s : State} {s₀ : State} (h₀ : Keeps s₀ s) : KeepsO s₀ (execFwUpdate rid a0 a1 a2 s) := by
  unfold execFwUpdate
  refine keepsO_next ?_
  apply service_keeps
  intro _
  intro _
  refine keeps_ite2 ?_ ?_
  refine keeps_pair ?_
  assumption
  refine keeps_ite2 ?_ ?_
  refine keeps_pair ?_
  assumption
  dsimp only
  refine keeps_ite2 ?_ ?_
  refine keeps_pair ?_
  apply verify_keeps
  assumption
  refine keeps_ite2 ?_ ?_
  refine keeps_ite2 ?_ ?_
  refine keeps_pair ?_
  apply verify_keeps
  assumption
  refine keeps_pair ?_
  refine keeps_mk ?_
  apply setFlash_keeps
  apply verify_keeps
  assumption
  refine keeps_ite2 ?_ ?_
  refine keeps_pair ?_
  apply runFirmware_keeps
  apply setFld_keeps
  apply setFlash_keeps
  apply verify_keeps
  assumption
  refine keeps_pair ?_
  apply runFirmware_keeps
  apply setFlash_keeps
  apply verify_keeps
  assumption
  assumption

theorem loadFreed_keeps {fails : List Nat} {s : State} {s₀ : State} (h₀ : Keeps s₀ s) : Keeps s₀ (loadFreed fails s) := by
  unfold loadFreed
  refine keeps_foldl ?_ ?_
  intro _
  intro _
  intro _
  refine keeps_ite ?_ ?_
  apply setClState_keeps
  refine keeps_mk ?_
  assumption
  assumption
  assumption

theorem execFwRolloutRound_keeps {at_ : Nat} {fails : List Nat} {b : Nat} {s : State} {s₀ : State} (h₀ : Keeps s₀ s) : KeepsO s₀ (execFwRolloutRound at_ fails b s) := by
  unfold execFwRolloutRound
  dsimp only
  refine keepsO_next ?_
  refine keeps_whenS ?_ ?_
  intro _
  intro _
  refine keeps_foldl ?_ ?_
  intro _
  intro _
  intro _
  apply moveOff_keeps
  apply updStatus_keeps
  apply fenceCluster_keeps
  assumption
  apply runFirmware_keeps
  refine keeps_mk ?_
  apply updStatus_keeps
  apply loadFreed_keeps
  assumption
  apply advanceTo_keeps
  assumption

theorem fwPoll_some {s s₀ : State} {a b} {t : State} (e : fwPoll s = some (a, b, t)) (h₀ : Keeps s₀ s) : Keeps s₀ t := by
  unfold fwPoll at e
  split at e
  · cases e; exact keeps_mk (updStatus_keeps (loadFreed_keeps h₀))
  · cases e

end Sys2Proof.Machine
end

