-- ==== Sys2Proof/Laws/KeepObserve.lean ====
section
/-! SUPPORT. One lemma for each definition of Machine/Observe.lean that answers a state: it keeps the queue and the canonical form. -/
namespace Sys2Proof.Machine

theorem freezeAll_keeps {s : State} {s₀ : State} (h₀ : Keeps s₀ s) : Keeps s₀ (freezeAll s) := by
  unfold freezeAll
  dsimp only
  refine keeps_foldl ?_ ?_
  intro _
  intro _
  intro _
  apply traceRec_keeps
  assumption
  apply setFld_keeps
  assumption

theorem clearAll_keeps {s : State} {s₀ : State} (h₀ : Keeps s₀ s) : Keeps s₀ (clearAll s) := by
  unfold clearAll
  dsimp only
  refine keeps_foldl ?_ ?_
  intro _
  intro _
  intro _
  apply setFld_keeps
  assumption
  refine keeps_regs ?_ (tabWf_filter _)
  assumption

theorem runClears_keeps {s : State} {s₀ : State} (h₀ : Keeps s₀ s) : Keeps s₀ (runClears s) := by
  unfold runClears
  refine keeps_ite ?_ ?_
  apply clearAll_keeps
  refine keeps_mk ?_
  assumption
  assumption

theorem execCounterClearBeat_keeps {b : Nat} {s : State} {s₀ : State} (h₀ : Keeps s₀ s) : KeepsO s₀ (execCounterClearBeat b s) := by
  unfold execCounterClearBeat
  refine keepsO_next ?_
  apply runClears_keeps
  apply advanceTo_keeps
  assumption

theorem execCounterThaw_keeps {b : Nat} {s : State} {s₀ : State} (h₀ : Keeps s₀ s) : KeepsO s₀ (execCounterThaw b s) := by
  unfold execCounterThaw
  dsimp only
  refine keepsO_next ?_
  refine keeps_whenS ?_ ?_
  intro _
  intro _
  apply setFld_keeps
  refine keeps_mk ?_
  assumption
  apply runClears_keeps
  apply advanceTo_keeps
  assumption

theorem takeSnapshot_keeps {s : State} {s₀ : State} (h₀ : Keeps s₀ s) : Keeps s₀ (takeSnapshot s) := by
  unfold takeSnapshot
  dsimp only
  refine keeps_mk ?_
  assumption

theorem fwBuf_keeps {n o : Nat} {l : List Byte} {s : State} {s₀ : State} (h₀ : Keeps s₀ s) : Keeps s₀ (fwBuf n o l s) := by
  unfold fwBuf
  split
  apply bufStore_keeps
  assumption
  assumption

theorem execStairSnapshotData_keeps {id off : Nat} {s : State} {s₀ : State} (h₀ : Keeps s₀ s) : KeepsO s₀ (execStairSnapshotData id off s) := by
  unfold execStairSnapshotData
  split
  refine keepsO_next ?_
  assumption
  refine keepsO_ite ?_ ?_
  refine keepsO_next ?_
  assumption
  split
  refine keepsO_next ?_
  assumption
  dsimp only
  refine keepsO_next ?_
  refine keeps_mk ?_
  apply fwBuf_keeps
  assumption

theorem execSnapshotAreaWritten_keeps {s : State} {s₀ : State} (h₀ : Keeps s₀ s) : KeepsO s₀ (execSnapshotAreaWritten s) := by
  unfold execSnapshotAreaWritten
  split
  refine keepsO_next ?_
  assumption
  dsimp only
  refine keepsO_next ?_
  apply setFld_keeps
  apply fwBuf_keeps
  refine keeps_mk ?_
  assumption

theorem drainTrace_keeps {u n : Nat} {s s₀ : State} (h₀ : Keeps s₀ s) : Keeps s₀ (drainTrace u n s) := by
  induction n generalizing s with
  | zero => exact h₀
  | succ n ih =>
    unfold drainTrace
    split
    · exact h₀
    · split
      · exact ih (traceWrite_keeps (setTrace_keeps h₀))
      · exact h₀

theorem execTraceLostRecord_keeps {u : Nat} {s : State} {s₀ : State} (h₀ : Keeps s₀ s) : KeepsO s₀ (execTraceLostRecord u s) := by
  unfold execTraceLostRecord
  refine keepsO_ite ?_ ?_
  refine keepsO_next ?_
  dsimp only
  refine keeps_whenS ?_ ?_
  intro _
  intro _
  apply setTrace_keeps
  apply traceRec_keeps
  assumption
  apply drainTrace_keeps
  assumption
  exact keepsO_fault

theorem trcCtlWrite_keeps {u v : Nat} {s : State} {s₀ : State} (h₀ : Keeps s₀ s) : Keeps s₀ (trcCtlWrite u v s) := by
  unfold trcCtlWrite
  dsimp only
  refine keeps_ite ?_ ?_
  apply drainTrace_keeps
  apply setTrace_keeps
  apply wr_keeps
  assumption
  apply wr_keeps
  assumption

theorem trcDataRead_keeps {u : Nat} {s : State} {s₀ : State} (h₀ : Keeps s₀ s) : Keeps s₀ (trcDataRead u s).2 := by
  unfold trcDataRead
  dsimp only
  apply setFld_keeps
  assumption
theorem trcDataRead_pair {u : Nat} {s : State} {s₀ : State} {a₀} {t₀ : State} (e₀ : trcDataRead u s = (a₀, t₀)) (h₀ : Keeps s₀ s) : Keeps s₀ t₀ := by
  have k := @trcDataRead_keeps u s s₀ h₀
  rw [e₀] at k; exact k

theorem execTrcDataRead_keeps {u : Nat} {s : State} {s₀ : State} (h₀ : Keeps s₀ s) : KeepsO s₀ (execTrcDataRead u s) := by
  unfold execTrcDataRead
  refine keepsO_ite ?_ ?_
  split
  refine keepsO_next ?_
  apply answerWith_keeps
  refine trcDataRead_pair (by assumption) ?_
  assumption
  exact keepsO_fault

theorem noteCycles_keeps {n : Nat} {s : State} {s₀ : State} (h₀ : Keeps s₀ s) : Keeps s₀ (noteCycles n s) := by
  unfold noteCycles
  refine keeps_whenS ?_ ?_
  intro _
  intro _
  apply raise_keeps
  assumption
  assumption

theorem execAutoHangScan_keeps {b : Nat} {s : State} {s₀ : State} (h₀ : Keeps s₀ s) : KeepsO s₀ (execAutoHangScan b s) := by
  unfold execAutoHangScan
  dsimp only
  refine keepsO_next ?_
  refine keeps_whenS ?_ ?_
  intro _
  intro _
  apply noteCycles_keeps
  apply fwBuf_keeps
  refine keeps_mk ?_
  assumption
  apply advanceTo_keeps
  assumption

theorem execObsThaw_keeps {rid a0 : Nat} {s : State} {s₀ : State} (h₀ : Keeps s₀ s) : KeepsO s₀ (execObsThaw rid a0 s) := by
  unfold execObsThaw
  refine keepsO_next ?_
  apply service_keeps
  intro _
  intro _
  refine keeps_ite2 ?_ ?_
  refine keeps_pair ?_
  assumption
  refine keeps_pair ?_
  refine keeps_mk ?_
  assumption
  assumption

theorem execObsClear_keeps {rid a0 : Nat} {s : State} {s₀ : State} (h₀ : Keeps s₀ s) : KeepsO s₀ (execObsClear rid a0 s) := by
  unfold execObsClear
  refine keepsO_next ?_
  apply service_keeps
  intro _
  intro _
  refine keeps_ite2 ?_ ?_
  refine keeps_pair ?_
  assumption
  refine keeps_pair ?_
  refine keeps_mk ?_
  assumption
  assumption

theorem execSnapNow_keeps {rid : Nat} {s : State} {s₀ : State} (h₀ : Keeps s₀ s) : KeepsO s₀ (execSnapNow rid s) := by
  unfold execSnapNow
  refine keepsO_next ?_
  apply service_keeps
  intro _
  intro _
  refine keeps_pair ?_
  refine keeps_mk ?_
  assumption
  assumption

theorem execTraceDump_keeps {rid a0 a1 a2 : Nat} {s : State} {s₀ : State} (h₀ : Keeps s₀ s) : KeepsO s₀ (execTraceDump rid a0 a1 a2 s) := by
  unfold execTraceDump
  refine keepsO_next ?_
  apply service_keeps
  intro _
  intro _
  split
  refine keeps_pair ?_
  assumption
  refine keeps_ite2 ?_ ?_
  refine keeps_pair ?_
  assumption
  dsimp only
  apply fwWrite_keeps
  assumption
  assumption

theorem execHangScan_keeps {rid a0 a1 : Nat} {s : State} {s₀ : State} (h₀ : Keeps s₀ s) : KeepsO s₀ (execHangScan rid a0 a1 s) := by
  unfold execHangScan
  refine keepsO_next ?_
  apply service_keeps
  intro _
  intro _
  refine keeps_ite2 ?_ ?_
  refine keeps_pair ?_
  assumption
  refine keeps_ite2 ?_ ?_
  refine keeps_pair ?_
  assumption
  refine keeps_ite2 ?_ ?_
  refine keeps_pair ?_
  assumption
  refine keeps_pair ?_
  apply setFld_keeps
  assumption
  assumption

theorem hangScanEnd_keeps {a0 a1 : Nat} {s : State} {s₀ : State} (h₀ : Keeps s₀ s) : Keeps s₀ (hangScanEnd a0 a1 s).2 := by
  unfold hangScanEnd
  split
  refine keeps_pair ?_
  apply noteCycles_keeps
  apply fwWrite_keeps
  apply setFld_keeps
  assumption
theorem hangScanEnd_pair {a0 a1 : Nat} {s : State} {s₀ : State} {a₀} {t₀ : State} (e₀ : hangScanEnd a0 a1 s = (a₀, t₀)) (h₀ : Keeps s₀ s) : Keeps s₀ t₀ := by
  have k := @hangScanEnd_keeps a0 a1 s s₀ h₀
  rw [e₀] at k; exact k

end Sys2Proof.Machine
end

