-- ==== Sys2Proof/Laws/KeepEsc.lean ====
section
/-! SUPPORT. One lemma for each definition of Machine/Esc.lean that answers a state: it keeps the queue and the canonical form. -/
namespace Sys2Proof.Machine

theorem updLoaded_keeps {s : State} {s₀ : State} (h₀ : Keeps s₀ s) : Keeps s₀ (updLoaded s) := by
  unfold updLoaded
  apply setFld_keeps
  assumption

theorem setLeaf_keeps {i : Nat} {l : Leaf} {s : State} {s₀ : State} (h₀ : Keeps s₀ s) : Keeps s₀ (setLeaf i l s) := by
  unfold setLeaf
  refine keeps_mk ?_
  assumption

theorem slipped_keeps {i : Nat} {s : State} {s₀ : State} (h₀ : Keeps s₀ s) : Keeps s₀ (slipped i s) := by
  unfold slipped
  dsimp only
  apply addRecord_keeps
  apply setLeaf_keeps
  apply raise_keeps
  apply setFld_keeps
  assumption

theorem execEscMarker_keeps {i behind ahead : Nat} {s : State} {s₀ : State} (h₀ : Keeps s₀ s) : KeepsO s₀ (execEscMarker i behind ahead s) := by
  unfold execEscMarker
  refine keepsO_onUnit ?_ ?_
  intro _
  intro _
  refine keeps_ite ?_ ?_
  apply updLoaded_keeps
  apply setLeaf_keeps
  assumption
  refine keeps_ite ?_ ?_
  assumption
  apply slipped_keeps
  apply elapse_keeps
  assumption
  assumption

theorem finishExchange_keeps {s : State} {s₀ : State} (h₀ : Keeps s₀ s) : Keeps s₀ (finishExchange s) := by
  unfold finishExchange
  split
  assumption
  dsimp only
  apply setFld_keeps
  apply wr_keeps
  apply setFlds_keeps
  refine keeps_mk ?_
  assumption

theorem sendTime_keeps {dst t1 t2 t3 : Nat} {answer : Bool} {s : State} {s₀ : State} (h₀ : Keeps s₀ s) : Keeps s₀ (sendTime dst t1 t2 t3 answer s) := by
  unfold sendTime
  apply transmit_keeps
  assumption

theorem execAlignExchange_keeps {b : Nat} {s : State} {s₀ : State} (h₀ : Keeps s₀ s) : KeepsO s₀ (execAlignExchange b s) := by
  unfold execAlignExchange
  dsimp only
  refine keepsO_next ?_
  refine keeps_ite ?_ ?_
  apply advanceTo_keeps
  assumption
  refine keeps_ite ?_ ?_
  apply finishExchange_keeps
  apply advanceTo_keeps
  assumption
  refine keeps_foldl ?_ ?_
  intro _
  intro _
  intro _
  apply sendTime_keeps
  assumption
  refine keeps_mk ?_
  apply advanceTo_keeps
  assumption

theorem execFabTime_keeps {h : FabHead} {t1 t2 t3 : Nat} {answer : Bool} {s : State} {s₀ : State} (h₀ : Keeps s₀ s) : KeepsO s₀ (execFabTime h t1 t2 t3 answer s) := by
  unfold execFabTime
  dsimp only
  refine keepsO_next ?_
  refine keeps_ite ?_ ?_
  apply forward_keeps
  assumption
  refine keeps_ite ?_ ?_
  refine keeps_ite ?_ ?_
  refine keeps_mk ?_
  apply countBlk_keeps
  assumption
  apply countBlk_keeps
  assumption
  apply sendTime_keeps
  apply countBlk_keeps
  assumption

theorem execAlignLost_keeps {b : Nat} {s : State} {s₀ : State} (h₀ : Keeps s₀ s) : KeepsO s₀ (execAlignLost b s) := by
  unfold execAlignLost
  dsimp only
  refine keepsO_next ?_
  refine keeps_whenS ?_ ?_
  intro _
  intro _
  apply addRecord_keeps
  apply raise_keeps
  apply setFld_keeps
  refine keeps_mk ?_
  assumption
  apply advanceTo_keeps
  assumption

theorem armTrigger_keeps {t beat action : Nat} {s : State} {s₀ : State} (h₀ : Keeps s₀ s) : Keeps s₀ (armTrigger t beat action s) := by
  unfold armTrigger
  apply setFlds_keeps
  apply wr_keeps
  assumption

theorem trigWrite_keeps {t v : Nat} {s : State} {s₀ : State} (h₀ : Keeps s₀ s) : Keeps s₀ (trigWrite t v s).2 := by
  unfold trigWrite
  refine keeps_ite2 ?_ ?_
  refine keeps_pair ?_
  assumption
  refine keeps_pair ?_
  apply wr_keeps
  assumption
theorem trigWrite_pair {t v : Nat} {s : State} {s₀ : State} {a₀} {t₀ : State} (e₀ : trigWrite t v s = (a₀, t₀)) (h₀ : Keeps s₀ s) : Keeps s₀ t₀ := by
  have k := @trigWrite_keeps t v s s₀ h₀
  rw [e₀] at k; exact k

theorem trigCtlWrite_keeps {t v : Nat} {s : State} {s₀ : State} (h₀ : Keeps s₀ s) : Keeps s₀ (trigCtlWrite t v s).2 := by
  unfold trigCtlWrite
  dsimp only
  refine keeps_ite2 ?_ ?_
  refine keeps_pair ?_
  assumption
  refine keeps_ite2 ?_ ?_
  refine keeps_pair ?_
  assumption
  refine keeps_ite2 ?_ ?_
  refine keeps_pair ?_
  assumption
  refine keeps_pair ?_
  refine keeps_ite ?_ ?_
  apply armTrigger_keeps
  refine keeps_ite ?_ ?_
  apply setFld_keeps
  assumption
  assumption
  apply setFld_keeps
  refine keeps_ite ?_ ?_
  apply setFld_keeps
  assumption
  assumption
theorem trigCtlWrite_pair {t v : Nat} {s : State} {s₀ : State} {a₀} {t₀ : State} (e₀ : trigCtlWrite t v s = (a₀, t₀)) (h₀ : Keeps s₀ s) : Keeps s₀ t₀ := by
  have k := @trigCtlWrite_keeps t v s s₀ h₀
  rw [e₀] at k; exact k

theorem trigAct_keeps {action : Nat} {s : State} {s₀ : State} (h₀ : Keeps s₀ s) : Keeps s₀ (trigAct action s) := by
  unfold trigAct
  split
  apply freezeAll_keeps
  assumption
  apply takeSnapshot_keeps
  assumption
  apply send_keeps
  assumption
  assumption

theorem execTriggerFire_keeps {t b : Nat} {s : State} {s₀ : State} (h₀ : Keeps s₀ s) : KeepsO s₀ (execTriggerFire t b s) := by
  unfold execTriggerFire
  refine keepsO_onUnit ?_ ?_
  intro _
  intro _
  dsimp only
  refine keeps_ite ?_ ?_
  split
  refine keeps_ite ?_ ?_
  apply advanceTo_keeps
  assumption
  refine keeps_mk ?_
  apply takeSnapshot_keeps
  refine keeps_mk ?_
  apply advanceTo_keeps
  assumption
  apply advanceTo_keeps
  assumption
  refine keeps_whenS ?_ ?_
  intro _
  intro _
  apply setFlds_keeps
  apply trigAct_keeps
  assumption
  apply advanceTo_keeps
  assumption
  assumption

theorem execEscNow_keeps {rid : Nat} {s : State} {s₀ : State} (h₀ : Keeps s₀ s) : KeepsO s₀ (execEscNow rid s) := by
  unfold execEscNow
  refine keepsO_next ?_
  apply serviceRead_keeps
  assumption

theorem execAlignStatus_keeps {rid : Nat} {s : State} {s₀ : State} (h₀ : Keeps s₀ s) : KeepsO s₀ (execAlignStatus rid s) := by
  unfold execAlignStatus
  refine keepsO_next ?_
  apply serviceRead_keeps
  assumption

theorem execTrigArm_keeps {rid a0 a1 a2 : Nat} {s : State} {s₀ : State} (h₀ : Keeps s₀ s) : KeepsO s₀ (execTrigArm rid a0 a1 a2 s) := by
  unfold execTrigArm
  refine keepsO_next ?_
  apply service_keeps
  intro _
  intro _
  refine keeps_ite2 ?_ ?_
  refine keeps_pair ?_
  assumption
  refine keeps_ite2 ?_ ?_
  refine keeps_pair ?_
  assumption
  refine keeps_pair ?_
  apply armTrigger_keeps
  assumption
  assumption

theorem execTrigCancel_keeps {rid a0 : Nat} {s : State} {s₀ : State} (h₀ : Keeps s₀ s) : KeepsO s₀ (execTrigCancel rid a0 s) := by
  unfold execTrigCancel
  refine keepsO_next ?_
  apply service_keeps
  intro _
  intro _
  refine keeps_ite2 ?_ ?_
  refine keeps_pair ?_
  assumption
  refine keeps_ite2 ?_ ?_
  refine keeps_pair ?_
  assumption
  refine keeps_pair ?_
  apply setFld_keeps
  assumption
  assumption

theorem execEscFaultRead_keeps {rid : Nat} {s : State} {s₀ : State} (h₀ : Keeps s₀ s) : KeepsO s₀ (execEscFaultRead rid s) := by
  unfold execEscFaultRead
  refine keepsO_next ?_
  apply serviceRead_keeps
  assumption

theorem execEscLateMaxRead_keeps {p : Nat} {s : State} {s₀ : State} (h₀ : Keeps s₀ s) : KeepsO s₀ (execEscLateMaxRead p s) := by
  unfold execEscLateMaxRead
  refine keepsO_onUnit ?_ ?_
  intro _
  intro _
  apply answerWith_keeps
  apply wr_keeps
  assumption
  assumption

end Sys2Proof.Machine
end

