-- ==== Sys2Proof/Laws/KeepGroup.lean ====
section
/-! SUPPORT. One lemma for each definition of Machine/Group.lean that answers a state: it keeps the queue and the canonical form. -/
namespace Sys2Proof.Machine

theorem execMemberLost_keeps {t b : Nat} {s : State} {s₀ : State} (h₀ : Keeps s₀ s) : KeepsO s₀ (execMemberLost t b s) := by
  unfold execMemberLost
  refine keepsO_onUnit ?_ ?_
  intro _
  intro _
  dsimp only
  refine keeps_whenS ?_ ?_
  intro _
  intro _
  refine keeps_ite ?_ ?_
  apply modReqs_keeps
  apply dropTo_keeps
  refine keeps_foldl ?_ ?_
  intro _
  intro _
  intro _
  refine keeps_ite ?_ ?_
  apply collFail_keeps
  apply collFailAll_keeps
  assumption
  assumption
  refine keeps_ite ?_ ?_
  apply setFabStatus_keeps
  refine keeps_mk ?_
  assumption
  apply setFld_keeps
  apply setFabStatus_keeps
  refine keeps_mk ?_
  assumption
  apply dropTo_keeps
  refine keeps_foldl ?_ ?_
  intro _
  intro _
  intro _
  refine keeps_ite ?_ ?_
  apply collFail_keeps
  apply collFailAll_keeps
  assumption
  assumption
  refine keeps_ite ?_ ?_
  apply setFabStatus_keeps
  refine keeps_mk ?_
  assumption
  apply setFld_keeps
  apply setFabStatus_keeps
  refine keeps_mk ?_
  assumption
  apply advanceTo_keeps
  assumption
  assumption

theorem updRouted_keeps {s : State} {s₀ : State} (h₀ : Keeps s₀ s) : Keeps s₀ (updRouted s) := by
  unfold updRouted
  refine keeps_foldl ?_ ?_
  intro _
  intro _
  intro _
  apply setFld_keeps
  assumption
  assumption

theorem fabStore_keeps {dst a : Nat} {l : List Byte} {s : State} {s₀ : State} (h₀ : Keeps s₀ s) : Keeps s₀ (fabStore dst a l s) := by
  unfold fabStore
  refine keeps_foldl ?_ ?_
  intro _
  intro _
  intro _
  apply fabSend_keeps
  assumption
  assumption

theorem routeTo_keeps {t : Nat} {r : Routed} {ring log2n area : Nat} {s : State} {s₀ : State} (h₀ : Keeps s₀ s) : Keeps s₀ (routeTo t r ring log2n area s) := by
  unfold routeTo
  dsimp only
  apply updRouted_keeps
  refine keeps_mk ?_
  apply fabStore_keeps
  apply fabStore_keeps
  apply fabStore_keeps
  apply fabStore_keeps
  apply fabStore_keeps
  assumption

theorem execRouteRequest_keeps {ring log2n area : Nat} {s : State} {s₀ : State} (h₀ : Keeps s₀ s) : KeepsO s₀ (execRouteRequest ring log2n area s) := by
  unfold execRouteRequest
  refine keepsO_next ?_
  refine keeps_ite ?_ ?_
  assumption
  split
  assumption
  split
  apply routeTo_keeps
  refine keeps_mk ?_
  assumption
  split
  assumption
  apply routeTo_keeps
  refine keeps_mk ?_
  assumption

theorem execFabAnswer_keeps {h : FabHead} {data : List Byte} {s : State} {s₀ : State} (h₀ : Keeps s₀ s) : KeepsO s₀ (execFabAnswer h data s) := by
  unfold execFabAnswer
  refine keepsO_next ?_
  apply fabRecv_keeps
  intro _
  intro _
  split
  refine keeps_pair ?_
  assumption
  dsimp only
  refine keeps_ite2 ?_ ?_
  refine keeps_pair ?_
  assumption
  refine keeps_ite2 ?_ ?_
  refine keeps_pair ?_
  refine keeps_ite ?_ ?_
  apply readConsumer_keeps
  assumption
  assumption
  refine keeps_pair ?_
  apply updRouted_keeps
  refine keeps_mk ?_
  apply putRecord_keeps
  refine keeps_ite ?_ ?_
  apply readConsumer_keeps
  assumption
  assumption
  assumption

theorem noteDigest_keeps {t set gen step : Nat} {value : List Byte} {s : State} {s₀ : State} (h₀ : Keeps s₀ s) : Keeps s₀ (noteDigest t set gen step value s) := by
  unfold noteDigest
  refine keeps_mk ?_
  assumption

theorem execDigestReport_keeps {b : Nat} {s : State} {s₀ : State} (h₀ : Keeps s₀ s) : KeepsO s₀ (execDigestReport b s) := by
  unfold execDigestReport
  dsimp only
  refine keepsO_next ?_
  refine keeps_ite ?_ ?_
  refine keeps_ite ?_ ?_
  apply ctrlSend_keeps
  apply advanceTo_keeps
  assumption
  apply noteDigest_keeps
  apply advanceTo_keeps
  assumption
  apply advanceTo_keeps
  assumption

theorem execCtrlDigest_keeps {h : FabHead} {set gen step : Nat} {value : List Byte} {s : State} {s₀ : State} (h₀ : Keeps s₀ s) : KeepsO s₀ (execCtrlDigest h set gen step value s) := by
  unfold execCtrlDigest
  refine keepsO_next ?_
  apply fabRecv_keeps
  intro _
  intro _
  refine keeps_pair ?_
  refine keeps_ite ?_ ?_
  apply noteDigest_keeps
  assumption
  assumption
  assumption

theorem expelSlot_keeps {t : Nat} {s : State} {s₀ : State} (h₀ : Keeps s₀ s) : Keeps s₀ (expelSlot t s) := by
  unfold expelSlot
  refine keeps_ite ?_ ?_
  assumption
  dsimp only
  apply updRouted_keeps
  apply ctrlSend_keeps
  refine keeps_mk ?_
  apply setFld_keeps
  assumption

theorem readmit_keeps {t : Nat} {s : State} {s₀ : State} (h₀ : Keeps s₀ s) : Keeps s₀ (readmit t s) := by
  unfold readmit
  dsimp only
  apply ctrlSend_keeps
  apply setFld_keeps
  refine keeps_mk ?_
  assumption

theorem execDigestCompare_keeps {set gen step b : Nat} {s : State} {s₀ : State} (h₀ : Keeps s₀ s) : KeepsO s₀ (execDigestCompare set gen step b s) := by
  unfold execDigestCompare
  dsimp only
  refine keepsO_next ?_
  split
  apply advanceTo_keeps
  assumption
  refine keeps_ite ?_ ?_
  apply advanceTo_keeps
  assumption
  refine keeps_ite ?_ ?_
  refine keeps_foldl ?_ ?_
  intro _
  intro _
  intro _
  apply readmit_keeps
  assumption
  refine keeps_mk ?_
  apply advanceTo_keeps
  assumption
  split
  apply expelSlot_keeps
  apply addRecord_keeps
  refine keeps_mk ?_
  apply advanceTo_keeps
  assumption
  apply addRecord_keeps
  apply fabErr_keeps
  refine keeps_mk ?_
  apply advanceTo_keeps
  assumption

theorem expelledWork_keeps {fails : List Nat} {rb : Nat} {s : State} {s₀ : State} (h₀ : Keeps s₀ s) : Keeps s₀ (expelledWork fails rb s) := by
  unfold expelledWork
  dsimp only
  refine keeps_ite ?_ ?_
  apply addRecord_keeps
  apply setFld_keeps
  refine keeps_ite ?_ ?_
  apply startReplay_keeps
  refine keeps_foldl ?_ ?_
  intro _
  intro _
  intro _
  refine keeps_ite ?_ ?_
  apply trial_keeps
  assumption
  assumption
  assumption
  refine keeps_foldl ?_ ?_
  intro _
  intro _
  intro _
  refine keeps_ite ?_ ?_
  apply trial_keeps
  assumption
  assumption
  assumption
  refine keeps_ite ?_ ?_
  apply startReplay_keeps
  refine keeps_foldl ?_ ?_
  intro _
  intro _
  intro _
  refine keeps_ite ?_ ?_
  apply trial_keeps
  assumption
  assumption
  assumption
  refine keeps_foldl ?_ ?_
  intro _
  intro _
  intro _
  refine keeps_ite ?_ ?_
  apply trial_keeps
  assumption
  assumption
  assumption

theorem execCtrlExpel_keeps {h : FabHead} {expel : Bool} {fails : List Nat} {rb : Nat} {s : State} {s₀ : State} (h₀ : Keeps s₀ s) : KeepsO s₀ (execCtrlExpel h expel fails rb s) := by
  unfold execCtrlExpel
  refine keepsO_next ?_
  apply fabRecv_keeps
  intro _
  intro _
  refine keeps_ite2 ?_ ?_
  refine keeps_pair ?_
  assumption
  refine keeps_ite2 ?_ ?_
  refine keeps_pair ?_
  apply setFabStatus_keeps
  assumption
  refine keeps_ite2 ?_ ?_
  refine keeps_pair ?_
  assumption
  refine keeps_pair ?_
  apply expelledWork_keeps
  apply setFabStatus_keeps
  assumption
  assumption

theorem localSwitch_keeps {rid op gen beat : Nat} {s : State} {s₀ : State} (h₀ : Keeps s₀ s) : Keeps s₀ (localSwitch rid op gen beat s).2 := by
  unfold localSwitch
  refine keeps_ite2 ?_ ?_
  refine keeps_pair ?_
  assumption
  refine keeps_ite2 ?_ ?_
  refine keeps_ite2 ?_ ?_
  refine keeps_pair ?_
  assumption
  refine keeps_ite2 ?_ ?_
  refine keeps_pair ?_
  assumption
  refine keeps_ite2 ?_ ?_
  refine keeps_pair ?_
  assumption
  refine keeps_ite2 ?_ ?_
  refine keeps_pair ?_
  assumption
  refine keeps_pair ?_
  apply armSwitch_keeps
  apply setSlot_keeps
  assumption
  refine keeps_ite2 ?_ ?_
  refine keeps_ite2 ?_ ?_
  refine keeps_pair ?_
  assumption
  refine keeps_ite2 ?_ ?_
  refine keeps_pair ?_
  assumption
  refine keeps_ite2 ?_ ?_
  refine keeps_pair ?_
  assumption
  refine keeps_pair ?_
  apply armSwitch_keeps
  assumption
  refine keeps_ite2 ?_ ?_
  refine keeps_pair ?_
  assumption
  dsimp only
  apply setFlds_keeps
  refine keeps_ite ?_ ?_
  assumption
  apply setSlot_keeps
  assumption
theorem localSwitch_pair {rid op gen beat : Nat} {s : State} {s₀ : State} {a₀} {t₀ : State} (e₀ : localSwitch rid op gen beat s = (a₀, t₀)) (h₀ : Keeps s₀ s) : Keeps s₀ t₀ := by
  have k := @localSwitch_keeps rid op gen beat s s₀ h₀
  rw [e₀] at k; exact k

theorem execCtrlSwitch_keeps {h : FabHead} {op gen beat : Nat} {s : State} {s₀ : State} (h₀ : Keeps s₀ s) : KeepsO s₀ (execCtrlSwitch h op gen beat s) := by
  unfold execCtrlSwitch
  refine keepsO_next ?_
  apply fabRecv_keeps
  intro _
  intro _
  refine keeps_ite2 ?_ ?_
  refine keeps_pair ?_
  assumption
  split
  refine keeps_pair ?_
  refine keeps_ite ?_ ?_
  refine localSwitch_pair (by assumption) ?_
  assumption
  apply ctrlSend_keeps
  refine localSwitch_pair (by assumption) ?_
  assumption
  assumption

theorem execCtrlSwitchAck_keeps {h : FabHead} {status gen : Nat} {s : State} {s₀ : State} (h₀ : Keeps s₀ s) : KeepsO s₀ (execCtrlSwitchAck h status gen s) := by
  unfold execCtrlSwitchAck
  refine keepsO_next ?_
  apply fabRecv_keeps
  intro _
  intro _
  dsimp only
  refine keeps_ite2 ?_ ?_
  refine keeps_pair ?_
  assumption
  refine keeps_pair ?_
  refine keeps_mk ?_
  assumption
  assumption

theorem sendSwitch_keeps {op gen beat : Nat} {t : Nat} {s : State} {s₀ : State} (h₀ : Keeps s₀ s) : Keeps s₀ (sendSwitch op gen beat t s) := by
  unfold sendSwitch
  apply ctrlSend_keeps
  assumption

theorem groupPoll_some {rid gen beat : Nat} {slots : List Nat} {s s₀ : State} {a b} {t : State} (e : groupPoll rid gen beat slots s = some (a, b, t)) (h₀ : Keeps s₀ s) : Keeps s₀ t := by
  unfold groupPoll at e
  split at e
  · cases e
  · dsimp only at e
    split at e
    · cases e; exact keeps_mk h₀
    · cases e
      refine keeps_ite ?_ ?_
      refine keeps_foldl ?_ ?_
      intro _
      intro _
      intro _
      apply sendSwitch_keeps
      assumption
      assumption
      apply localSwitch_keeps
      refine keeps_foldl ?_ ?_
      intro _
      intro _
      intro _
      apply sendSwitch_keeps
      assumption
      assumption

theorem groupStart_keeps {rid op gen beat : Nat} {s s₀ : State} (h₀ : Keeps s₀ s) : Keeps s₀ (groupStart rid op gen beat s).2 := by
  unfold groupStart
  split
  · exact h₀
  · dsimp only
    split
    · rename_i e
      refine groupPoll_some e ?_
      refine keeps_foldl ?_ ?_
      intro _
      intro _
      intro _
      apply sendSwitch_keeps
      assumption
      refine keeps_mk ?_
      apply localSwitch_keeps
      assumption
    · refine keeps_pair ?_
      refine keeps_foldl ?_ ?_
      intro _
      intro _
      intro _
      apply sendSwitch_keeps
      assumption
      refine keeps_mk ?_
      apply localSwitch_keeps
      assumption

theorem execGroupSwitch_keeps {rid d a0 a1 : Nat} {s : State} {s₀ : State} (h₀ : Keeps s₀ s) : KeepsO s₀ (execGroupSwitch rid d a0 a1 s) := by
  unfold execGroupSwitch
  refine keepsO_onUnit ?_ ?_
  intro _
  intro _
  apply fabService_keeps
  intro _
  intro _
  apply groupStart_keeps
  assumption
  assumption
  assumption

theorem execGroupRollback_keeps {rid d a0 : Nat} {s : State} {s₀ : State} (h₀ : Keeps s₀ s) : KeepsO s₀ (execGroupRollback rid d a0 s) := by
  unfold execGroupRollback
  refine keepsO_onUnit ?_ ?_
  intro _
  intro _
  apply fabService_keeps
  intro _
  intro _
  apply groupStart_keeps
  assumption
  assumption
  assumption

theorem execFabExpel_keeps {rid d a0 : Nat} {s : State} {s₀ : State} (h₀ : Keeps s₀ s) : KeepsO s₀ (execFabExpel rid d a0 s) := by
  unfold execFabExpel
  refine keepsO_onUnit ?_ ?_
  intro _
  intro _
  apply fabService_keeps
  intro _
  intro _
  refine keeps_ite2 ?_ ?_
  refine keeps_pair ?_
  assumption
  refine keeps_ite2 ?_ ?_
  refine keeps_pair ?_
  assumption
  refine keeps_ite2 ?_ ?_
  refine keeps_pair ?_
  assumption
  refine keeps_pair ?_
  apply expelSlot_keeps
  assumption
  assumption
  assumption

theorem execRejoin_keeps {rid d a0 : Nat} {s : State} {s₀ : State} (h₀ : Keeps s₀ s) : KeepsO s₀ (execRejoin rid d a0 s) := by
  unfold execRejoin
  refine keepsO_onUnit ?_ ?_
  intro _
  intro _
  apply fabService_keeps
  intro _
  intro _
  refine keeps_ite2 ?_ ?_
  refine keeps_pair ?_
  assumption
  refine keeps_ite2 ?_ ?_
  refine keeps_pair ?_
  assumption
  refine keeps_ite2 ?_ ?_
  refine keeps_pair ?_
  assumption
  refine keeps_ite2 ?_ ?_
  refine keeps_pair ?_
  assumption
  refine keeps_pair ?_
  refine keeps_mk ?_
  assumption
  assumption
  assumption

end Sys2Proof.Machine
end

