-- ==== Sys2Proof/Laws/KeepControl.lean ====
section
/-! SUPPORT. One lemma for each definition of Machine/Control.lean that answers a state: it keeps the queue and the canonical form. -/
namespace Sys2Proof.Machine

theorem regRead_keeps {k : Nat} {s : State} {s₀ : State} (h₀ : Keeps s₀ s) : Keeps s₀ (regRead k s).2 := by
  unfold regRead
  split
  apply trcDataRead_keeps
  assumption
  refine keeps_ite2 ?_ ?_
  refine keeps_pair ?_
  apply wr_keeps
  assumption
  refine keeps_pair ?_
  assumption
theorem regRead_pair {k : Nat} {s : State} {s₀ : State} {a₀} {t₀ : State} (e₀ : regRead k s = (a₀, t₀)) (h₀ : Keeps s₀ s) : Keeps s₀ t₀ := by
  have k := @regRead_keeps k s s₀ h₀
  rw [e₀] at k; exact k

theorem csRead_some {o size : Nat} {s s₀ : State} {a b} {t : State} (e : csRead o size s = some (a, b, t)) (h₀ : Keeps s₀ s) : Keeps s₀ t := by
  unfold csRead at e
  split at e
  · cases e
  · split at e
    · cases e; exact h₀
    · dsimp only at e
      split at e
      · cases e; exact h₀
      · split at e
        · cases e; exact regRead_keeps h₀
        · cases e; exact regRead_keeps h₀
        · cases e; exact h₀
        · cases e; exact h₀

theorem stateOf_keeps {o : Host.Outcome State Fault Refusal} {s s₀ : State} (ho : KeepsO s₀ o) (h₀ : Keeps s₀ s) : Keeps s₀ (stateOf o s) := by
  unfold stateOf
  split
  · exact ho _ rfl
  · exact h₀

theorem callCl_some {l rid code : Nat} {a : Nat → Nat} {s s₀ : State} {o : Host.Outcome State Fault Refusal} (e : callCl l rid code a s = some o) (h₀ : Keeps s₀ s) : KeepsO s₀ o := by
  unfold callCl at e
  split at e
  · cases e; exact execStreamStatus_keeps h₀
  · cases e; exact execStreamResume_keeps h₀
  · cases e; exact execStreamStop_keeps h₀
  · cases e; exact execCtxClear_keeps h₀
  · cases e; exact execMbxSemSet_keeps h₀
  · cases e; exact execClErrRead_keeps h₀
  · cases e; exact execWinOpen_keeps h₀
  · cases e; exact execWinClose_keeps h₀
  · cases e; exact execWinStatus_keeps h₀
  · cases e; exact execRangeSet_keeps h₀
  · cases e; exact execEccRead_keeps h₀
  · cases e

theorem callMsd_some {l rid code : Nat} {a : Nat → Nat} {s s₀ : State} {o : Host.Outcome State Fault Refusal} (e : callMsd l rid code a s = some o) (h₀ : Keeps s₀ s) : KeepsO s₀ o := by
  unfold callMsd at e
  split at e
  · cases e; exact execMsdStatus_keeps h₀
  · cases e; exact execOffline_keeps h₀
  · cases e; exact execOnline_keeps h₀
  · cases e; exact execQueueClear_keeps h₀
  · cases e; exact execParityMode_keeps h₀
  · cases e; exact execMsdErrRead_keeps h₀
  · cases e

theorem callFab_some {l rid code : Nat} {a : Nat → Nat} {s s₀ : State} {o : Host.Outcome State Fault Refusal} (e : callFab l rid code a s = some o) (h₀ : Keeps s₀ s) : KeepsO s₀ o := by
  unfold callFab at e
  split at e
  · cases e; exact execLgStatus_keeps h₀
  · cases e; exact execFabErrRead_keeps h₀
  · cases e; exact execCollClear_keeps h₀
  · cases e; exact execGroupSwitch_keeps h₀
  · cases e; exact execGroupRollback_keeps h₀
  · cases e; exact execFabExpel_keeps h₀
  · cases e; exact execRejoin_keeps h₀
  · cases e; exact execFabMembersStatus_keeps h₀
  · cases e

theorem callCalSvc_some {l rid code : Nat} {a : Nat → Nat} {s s₀ : State} {o : Host.Outcome State Fault Refusal} (e : callCalSvc l rid code a s = some o) (h₀ : Keeps s₀ s) : KeepsO s₀ o := by
  unfold callCalSvc at e
  split at e
  · split at e
    · cases e; exact execImageLoad_keeps h₀
    · cases e; exact execImageDiscard_keeps h₀
    · cases e; exact execImageSwitch_keeps h₀
    · cases e; exact execCalCancel_keeps h₀
    · cases e; exact execImageRollback_keeps h₀
    · cases e; exact execConfirm_keeps h₀
    · cases e; exact execHealthFail_keeps h₀
    · cases e; exact execReleasePrevious_keeps h₀
    · cases e; exact execStoreBoot_keeps h₀
    · cases e; exact execCalStatus_keeps h₀
    · cases e
  · split at e
    · cases e; exact execRingOpen_keeps h₀
    · cases e; exact execRingClose_keeps h₀
    · cases e; exact execRingStatus_keeps h₀
    · cases e; exact execTokLoad_keeps h₀
    · cases e; exact execTokUnload_keeps h₀
    · cases e; exact execSvcCancel_keeps h₀
    · cases e; exact execReqStatus_keeps h₀
    · cases e; exact execSvcAdmit_keeps h₀
    · cases e; exact execPrefixFlush_keeps h₀
    · cases e; exact execSvcStats_keeps h₀
    · cases e

theorem callPower_some {l rid code : Nat} {a : Nat → Nat} {s s₀ : State} {o : Host.Outcome State Fault Refusal} (e : callPower l rid code a s = some o) (h₀ : Keeps s₀ s) : KeepsO s₀ o := by
  unfold callPower at e
  split at e
  · cases e; exact execEscNow_keeps h₀
  · cases e; exact execAlignStatus_keeps h₀
  · cases e; exact execTrigArm_keeps h₀
  · cases e; exact execTrigCancel_keeps h₀
  · cases e; exact execEscFaultRead_keeps h₀
  · cases e; exact execCapService_keeps h₀
  · cases e; exact execPwrStatus_keeps h₀
  · cases e; exact execThrRead_keeps h₀
  · cases e; exact execGalPark_keeps h₀
  · cases e; exact execGalUnpark_keeps h₀
  · cases e; exact execGalRestore_keeps h₀
  · cases e; exact execCalLoad_keeps h₀
  · cases e; exact execPwrFaultRead_keeps h₀
  · cases e; exact execTemps_keeps h₀
  · cases e; exact execThmFaultRead_keeps h₀
  · cases e; exact execClkFreq_keeps h₀
  · cases e; exact execClkFmax_keeps h₀
  · cases e

theorem callRest_some {l rid code : Nat} {a : Nat → Nat} {s s₀ : State} {o : Host.Outcome State Fault Refusal} (e : callRest l rid code a s = some o) (h₀ : Keeps s₀ s) : KeepsO s₀ o := by
  unfold callRest at e
  split at e
  · cases e; exact execAttest_keeps h₀
  · cases e; exact execCertRead_keeps h₀
  · cases e; exact execLogRead_keeps h₀
  · cases e; exact execExtend_keeps h₀
  · cases e; exact execSvnCommit_keeps h₀
  · cases e; exact execRevoke_keeps h₀
  · cases e; exact execPortStatus_keeps h₀
  · cases e; exact execDetach_keeps h₀
  · cases e; exact execAttach_keeps h₀
  · cases e; exact execOwnerStatus_keeps h₀
  · cases e; exact execFilterStatus_keeps h₀
  · cases e; exact execBruStatus_keeps h₀
  · cases e; exact execLogExport_keeps h₀
  · cases e; exact execFenceMove_keeps h₀
  · cases e; exact execTrialService_keeps (takeFree_keeps (w := 2) h₀)
  · cases e; exact execDmapLoad_keeps h₀
  · cases e; exact execFwUpdate_keeps h₀
  · cases e; exact execBruReset_keeps (takeFree_keeps (w := 1) h₀)
  · cases e; exact execFuseRead_keeps h₀
  · cases e; exact execObsThaw_keeps h₀
  · cases e; exact execObsClear_keeps h₀
  · cases e; exact execSnapNow_keeps h₀
  · cases e; exact execTraceDump_keeps h₀
  · cases e; exact execHangScan_keeps h₀
  · cases e

theorem goCall_keeps {page rid code : Nat} {s s₀ : State} (h₀ : Keeps s₀ s) : Keeps s₀ (goCall page rid code s) := by
  have h2 : ∀ {o : Host.Outcome State Fault Refusal}, (if 0x10000000 ≤ page then callCl ((page - 0x10000000) / 0x80000) rid code (fun i => rdN s (mbxArg page i)) s
    else if 0x1000000 ≤ page then callMsd ((page - 0x1000000) / 0x100000) rid code (fun i => rdN s (mbxArg page i)) s
    else if page = mbFab 0 then callFab 0 rid code (fun i => rdN s (mbxArg page i)) s
    else if page = mbFab 1 then callFab 1 rid code (fun i => rdN s (mbxArg page i)) s
    else if page = mbCal ∨ page = mbSvc then callCalSvc page rid code (fun i => rdN s (mbxArg page i)) s
    else (callPower page rid code (fun i => rdN s (mbxArg page i)) s).orElse (fun _ => callRest page rid code (fun i => rdN s (mbxArg page i)) s)) = some o → KeepsO s₀ o := by
    intro o e
    split at e
    · exact callCl_some e h₀
    · split at e
      · exact callMsd_some e h₀
      · split at e
        · exact callFab_some e h₀
        · split at e
          · exact callFab_some e h₀
          · split at e
            · exact callCalSvc_some e h₀
            · cases hp : callPower page rid code (fun i => rdN s (mbxArg page i)) s with
              | none => rw [hp] at e; dsimp only [Option.orElse] at e; exact callRest_some e h₀
              | some x => rw [hp] at e; dsimp only [Option.orElse] at e; rw [← Option.some.inj e]; exact callPower_some hp h₀
  unfold goCall
  dsimp only
  split
  · rename_i e
    exact stateOf_keeps (h2 e) h₀
  · apply service_keeps
    intro _
    intro _
    refine keeps_pair ?_
    assumption
    assumption

theorem mailboxWrite_keeps {rid page i v : Nat} {s : State} {s₀ : State} (h₀ : Keeps s₀ s) : Keeps s₀ (mailboxWrite rid page i v s).2 := by
  unfold mailboxWrite
  refine keeps_ite2 ?_ ?_
  refine keeps_ite2 ?_ ?_
  dsimp only
  apply goCall_keeps
  assumption
  refine keeps_pair ?_
  apply wr_keeps
  assumption
  refine keeps_ite2 ?_ ?_
  refine keeps_pair ?_
  refine keeps_ite ?_ ?_
  apply wr_keeps
  assumption
  assumption
  refine keeps_ite2 ?_ ?_
  refine keeps_pair ?_
  refine keeps_ite ?_ ?_
  apply wr_keeps
  assumption
  assumption
  refine keeps_ite2 ?_ ?_
  refine keeps_pair ?_
  refine keeps_ite ?_ ?_
  assumption
  apply wr_keeps
  assumption
  refine keeps_ite2 ?_ ?_
  refine keeps_pair ?_
  apply wr_keeps
  assumption
  refine keeps_pair ?_
  assumption
theorem mailboxWrite_pair {rid page i v : Nat} {s : State} {s₀ : State} {a₀} {t₀ : State} (e₀ : mailboxWrite rid page i v s = (a₀, t₀)) (h₀ : Keeps s₀ s) : Keeps s₀ t₀ := by
  have k := @mailboxWrite_keeps rid page i v s s₀ h₀
  rw [e₀] at k; exact k

theorem plainWrite_keeps {specs : List RegSpec} {base k v : Nat} {s : State} {s₀ : State} (h₀ : Keeps s₀ s) : Keeps s₀ (plainWrite specs base k v s) := by
  unfold plainWrite
  dsimp only
  split
  assumption
  refine keeps_ite ?_ ?_
  refine keeps_ite ?_ ?_
  apply wr_keeps
  assumption
  assumption
  apply wr_keeps
  assumption

theorem cntCfgWrite_keeps {bank : Nat} {specs : List RegSpec} {base k v : Nat} {s : State} {s₀ : State} (h₀ : Keeps s₀ s) : Keeps s₀ (cntCfgWrite bank specs base k v s).2 := by
  unfold cntCfgWrite
  refine keeps_ite2 ?_ ?_
  refine keeps_pair ?_
  apply plainWrite_keeps
  assumption
  refine keeps_pair ?_
  assumption
theorem cntCfgWrite_pair {bank : Nat} {specs : List RegSpec} {base k v : Nat} {s : State} {s₀ : State} {a₀} {t₀ : State} (e₀ : cntCfgWrite bank specs base k v s = (a₀, t₀)) (h₀ : Keeps s₀ s) : Keeps s₀ t₀ := by
  have k := @cntCfgWrite_keeps bank specs base k v s s₀ h₀
  rw [e₀] at k; exact k

theorem clWrite_keeps {p o v : Nat} {s : State} {s₀ : State} (h₀ : Keeps s₀ s) : Keeps s₀ (clWrite p o v s).2 := by
  unfold clWrite
  dsimp only
  refine keeps_ite2 ?_ ?_
  apply streamCtlWrite_keeps
  assumption
  refine keeps_ite2 ?_ ?_
  apply semWrite_keeps
  assumption
  refine keeps_ite2 ?_ ?_
  apply ctxClrWrite_keeps
  assumption
  refine keeps_ite2 ?_ ?_
  apply rangeCtl_keeps
  assumption
  refine keeps_ite2 ?_ ?_
  refine keeps_ite2 ?_ ?_
  refine keeps_pair ?_
  assumption
  refine keeps_pair ?_
  apply plainWrite_keeps
  assumption
  refine keeps_ite2 ?_ ?_
  apply winOpenWrite_keeps
  assumption
  refine keeps_ite2 ?_ ?_
  apply winCloseWrite_keeps
  assumption
  refine keeps_ite2 ?_ ?_
  apply detourWrite_keeps
  assumption
  refine keeps_ite2 ?_ ?_
  apply commitWrite_keeps
  assumption
  refine keeps_ite2 ?_ ?_
  apply cntCfgWrite_keeps
  assumption
  refine keeps_ite2 ?_ ?_
  refine keeps_pair ?_
  apply trcCtlWrite_keeps
  assumption
  refine keeps_pair ?_
  apply plainWrite_keeps
  assumption
theorem clWrite_pair {p o v : Nat} {s : State} {s₀ : State} {a₀} {t₀ : State} (e₀ : clWrite p o v s = (a₀, t₀)) (h₀ : Keeps s₀ s) : Keeps s₀ t₀ := by
  have k := @clWrite_keeps p o v s s₀ h₀
  rw [e₀] at k; exact k

theorem msdWrite_keeps {n o v : Nat} {s : State} {s₀ : State} (h₀ : Keeps s₀ s) : Keeps s₀ (msdWrite n o v s).2 := by
  unfold msdWrite
  dsimp only
  refine keeps_ite2 ?_ ?_
  apply slotCtlWrite_keeps
  assumption
  refine keeps_ite2 ?_ ?_
  apply cntCfgWrite_keeps
  assumption
  refine keeps_ite2 ?_ ?_
  refine keeps_pair ?_
  apply trcCtlWrite_keeps
  assumption
  refine keeps_pair ?_
  apply plainWrite_keeps
  assumption
theorem msdWrite_pair {n o v : Nat} {s : State} {s₀ : State} {a₀} {t₀ : State} (e₀ : msdWrite n o v s = (a₀, t₀)) (h₀ : Keeps s₀ s) : Keeps s₀ t₀ := by
  have k := @msdWrite_keeps n o v s s₀ h₀
  rw [e₀] at k; exact k

theorem fabWrite_keeps {d o v : Nat} {s : State} {s₀ : State} (h₀ : Keeps s₀ s) : Keeps s₀ (fabWrite d o v s).2 := by
  unfold fabWrite
  dsimp only
  refine keeps_ite2 ?_ ?_
  apply cntCfgWrite_keeps
  assumption
  refine keeps_ite2 ?_ ?_
  refine keeps_pair ?_
  apply trcCtlWrite_keeps
  assumption
  refine keeps_pair ?_
  apply plainWrite_keeps
  assumption
theorem fabWrite_pair {d o v : Nat} {s : State} {s₀ : State} {a₀} {t₀ : State} (e₀ : fabWrite d o v s = (a₀, t₀)) (h₀ : Keeps s₀ s) : Keeps s₀ t₀ := by
  have k := @fabWrite_keeps d o v s s₀ h₀
  rw [e₀] at k; exact k

theorem rootWrite_keeps {rid k v : Nat} {s : State} {s₀ : State} (h₀ : Keeps s₀ s) : Keeps s₀ (rootWrite rid k v s).2 := by
  unfold rootWrite
  dsimp only
  split
  refine keeps_pair ?_
  apply plainWrite_keeps
  assumption
  refine keeps_ite2 ?_ ?_
  apply ownCmd_keeps
  assumption
  refine keeps_ite2 ?_ ?_
  apply cohWrite_keeps
  assumption
  refine keeps_ite2 ?_ ?_
  apply grantWrite_keeps
  assumption
  refine keeps_pair ?_
  apply plainWrite_keeps
  assumption
  apply fabWrite_keeps
  assumption
  apply fabWrite_keeps
  assumption
  refine keeps_pair ?_
  apply plainWrite_keeps
  assumption
  refine keeps_ite2 ?_ ?_
  refine keeps_ite2 ?_ ?_
  apply trigWrite_keeps
  assumption
  apply trigCtlWrite_keeps
  assumption
  refine keeps_pair ?_
  apply plainWrite_keeps
  assumption
  refine keeps_ite2 ?_ ?_
  apply capSet_keeps
  assumption
  refine keeps_pair ?_
  apply plainWrite_keeps
  assumption
  refine keeps_pair ?_
  apply plainWrite_keeps
  assumption
  refine keeps_ite2 ?_ ?_
  apply clkModeWrite_keeps
  assumption
  refine keeps_ite2 ?_ ?_
  apply fsetWrite_keeps
  assumption
  refine keeps_pair ?_
  apply plainWrite_keeps
  assumption
  refine keeps_pair ?_
  apply plainWrite_keeps
  assumption
  refine keeps_ite2 ?_ ?_
  apply cntCfgWrite_keeps
  assumption
  refine keeps_pair ?_
  apply plainWrite_keeps
  assumption
  refine keeps_pair ?_
  apply plainWrite_keeps
  assumption
  refine keeps_pair ?_
  assumption
theorem rootWrite_pair {rid k v : Nat} {s : State} {s₀ : State} {a₀} {t₀ : State} (e₀ : rootWrite rid k v s = (a₀, t₀)) (h₀ : Keeps s₀ s) : Keeps s₀ t₀ := by
  have k := @rootWrite_keeps rid k v s s₀ h₀
  rw [e₀] at k; exact k

theorem regWrite_keeps {rid k v : Nat} {s : State} {s₀ : State} (h₀ : Keeps s₀ s) : Keeps s₀ (regWrite rid k v s).2 := by
  unfold regWrite
  refine keeps_ite2 ?_ ?_
  apply clWrite_keeps
  assumption
  refine keeps_ite2 ?_ ?_
  apply msdWrite_keeps
  assumption
  apply rootWrite_keeps
  assumption
theorem regWrite_pair {rid k v : Nat} {s : State} {s₀ : State} {a₀} {t₀ : State} (e₀ : regWrite rid k v s = (a₀, t₀)) (h₀ : Keeps s₀ s) : Keeps s₀ t₀ := by
  have k := @regWrite_keeps rid k v s s₀ h₀
  rw [e₀] at k; exact k

theorem csWrite_some {rid o size v : Nat} {s s₀ : State} {a} {t : State} (e : csWrite rid o size v s = some (a, t)) (h₀ : Keeps s₀ s) : Keeps s₀ t := by
  have out : ∀ {x : Nat × State}, Keeps s₀ x.2 → some x = some (a, t) → Keeps s₀ t := by
    intro x h e; cases e; exact h
  unfold csWrite at e
  split at e
  · cases e
  · split at e
    · exact out h₀ e
    · split at e
      · exact out h₀ e
      · split at e
        · refine out ?_ e
          refine keeps_ite2 ?_ ?_
          apply mailboxWrite_keeps
          assumption
          refine keeps_pair ?_
          assumption
        · refine out ?_ e
          refine keeps_ite2 ?_ ?_
          refine keeps_pair ?_
          assumption
          refine keeps_ite2 ?_ ?_
          refine keeps_pair ?_
          assumption
          apply regWrite_keeps
          assumption
        · refine out ?_ e
          refine keeps_ite2 ?_ ?_
          apply ownCmd_keeps
          assumption
          refine keeps_ite2 ?_ ?_
          refine keeps_pair ?_
          assumption
          refine keeps_ite2 ?_ ?_
          refine keeps_pair ?_
          assumption
          apply regWrite_keeps
          assumption
        · refine out ?_ e
          refine keeps_ite2 ?_ ?_
          refine keeps_pair ?_
          assumption
          refine keeps_ite2 ?_ ?_
          refine keeps_pair ?_
          assumption
          refine keeps_pair ?_
          assumption
        · exact out h₀ e

theorem csStore_keeps {rid o size v : Nat} {s : State} {s₀ : State} (h₀ : Keeps s₀ s) : Keeps s₀ (csStore rid o size v s) := by
  unfold csStore
  split
  assumption
  apply answerWith_keeps
  refine csWrite_some (by assumption) ?_
  assumption

theorem execControlRegisterWrite_keeps {rid o size v : Nat} {s : State} {s₀ : State} (h₀ : Keeps s₀ s) : KeepsO s₀ (execControlRegisterWrite rid o size v s) := by
  unfold execControlRegisterWrite
  refine keepsO_next ?_
  apply csStore_keeps
  assumption

theorem clStore_keeps {rid l r v : Nat} {s : State} {s₀ : State} (h₀ : Keeps s₀ s) : KeepsO s₀ (clStore rid l r v s) := by
  unfold clStore
  refine keepsO_onUnit ?_ ?_
  intro _
  intro _
  apply csStore_keeps
  assumption
  assumption

theorem execClStreamCtlResume_keeps {rid l st pc : Nat} {s : State} {s₀ : State} (h₀ : Keeps s₀ s) : KeepsO s₀ (execClStreamCtlResume rid l st pc s) := by
  unfold execClStreamCtlResume
  refine keepsO_onUnits ?_ ?_
  intro _
  intro _
  apply csStore_keeps
  assumption
  assumption

theorem execClStreamCtlStop_keeps {rid l st : Nat} {s : State} {s₀ : State} (h₀ : Keeps s₀ s) : KeepsO s₀ (execClStreamCtlStop rid l st s) := by
  unfold execClStreamCtlStop
  refine keepsO_onUnits ?_ ?_
  intro _
  intro _
  apply csStore_keeps
  assumption
  assumption

theorem execClSemWrite_keeps {rid l i v : Nat} {s : State} {s₀ : State} (h₀ : Keeps s₀ s) : KeepsO s₀ (execClSemWrite rid l i v s) := by
  unfold execClSemWrite
  refine keepsO_onUnits ?_ ?_
  intro _
  intro _
  apply csStore_keeps
  assumption
  assumption

theorem execDmaCtxClrWrite_keeps {rid l mask : Nat} {s : State} {s₀ : State} (h₀ : Keeps s₀ s) : KeepsO s₀ (execDmaCtxClrWrite rid l mask s) := by
  unfold execDmaCtxClrWrite
  apply clStore_keeps
  assumption

theorem execMatCtrlWrite_keeps {rid l v : Nat} {s : State} {s₀ : State} (h₀ : Keeps s₀ s) : KeepsO s₀ (execMatCtrlWrite rid l v s) := by
  unfold execMatCtrlWrite
  apply clStore_keeps
  assumption

theorem execArithCtrlWrite_keeps {rid l repro : Nat} {s : State} {s₀ : State} (h₀ : Keeps s₀ s) : KeepsO s₀ (execArithCtrlWrite rid l repro s) := by
  unfold execArithCtrlWrite
  apply clStore_keeps
  assumption

theorem execRangeClose_keeps {rid l mask : Nat} {s : State} {s₀ : State} (h₀ : Keeps s₀ s) : KeepsO s₀ (execRangeClose rid l mask s) := by
  unfold execRangeClose
  apply clStore_keeps
  assumption

theorem execRangeOpen_keeps {rid l mask : Nat} {s : State} {s₀ : State} (h₀ : Keeps s₀ s) : KeepsO s₀ (execRangeOpen rid l mask s) := by
  unfold execRangeOpen
  apply clStore_keeps
  assumption

theorem execRangeOff_keeps {rid l mask : Nat} {s : State} {s₀ : State} (h₀ : Keeps s₀ s) : KeepsO s₀ (execRangeOff rid l mask s) := by
  unfold execRangeOff
  apply clStore_keeps
  assumption

theorem execRangeOn_keeps {rid l mask : Nat} {s : State} {s₀ : State} (h₀ : Keeps s₀ s) : KeepsO s₀ (execRangeOn rid l mask s) := by
  unfold execRangeOn
  apply clStore_keeps
  assumption

theorem execWinOpenWrite_keeps {rid l mask : Nat} {s : State} {s₀ : State} (h₀ : Keeps s₀ s) : KeepsO s₀ (execWinOpenWrite rid l mask s) := by
  unfold execWinOpenWrite
  apply clStore_keeps
  assumption

theorem execWinCloseWrite_keeps {rid l mask : Nat} {s : State} {s₀ : State} (h₀ : Keeps s₀ s) : KeepsO s₀ (execWinCloseWrite rid l mask s) := by
  unfold execWinCloseWrite
  apply clStore_keeps
  assumption

theorem execDetourWrite_keeps {rid l e v : Nat} {s : State} {s₀ : State} (h₀ : Keeps s₀ s) : KeepsO s₀ (execDetourWrite rid l e v s) := by
  unfold execDetourWrite
  refine keepsO_onUnits ?_ ?_
  intro _
  intro _
  apply csStore_keeps
  assumption
  assumption

theorem execRtrCommitArm_keeps {rid l beat : Nat} {s : State} {s₀ : State} (h₀ : Keeps s₀ s) : KeepsO s₀ (execRtrCommitArm rid l beat s) := by
  unfold execRtrCommitArm
  apply clStore_keeps
  assumption

theorem execSlotApplyWrite_keeps {rid n wc : Nat} {s : State} {s₀ : State} (h₀ : Keeps s₀ s) : KeepsO s₀ (execSlotApplyWrite rid n wc s) := by
  unfold execSlotApplyWrite
  refine keepsO_onUnit ?_ ?_
  intro _
  intro _
  apply csStore_keeps
  assumption
  assumption

theorem execTrigCtlArm_keeps {rid t action : Nat} {s : State} {s₀ : State} (h₀ : Keeps s₀ s) : KeepsO s₀ (execTrigCtlArm rid t action s) := by
  unfold execTrigCtlArm
  refine keepsO_onUnit ?_ ?_
  intro _
  intro _
  apply csStore_keeps
  assumption
  assumption

theorem execTrcRearm_keeps {rid u v : Nat} {s : State} {s₀ : State} (h₀ : Keeps s₀ s) : KeepsO s₀ (execTrcRearm rid u v s) := by
  unfold execTrcRearm
  refine keepsO_ite ?_ ?_
  refine keepsO_next ?_
  apply csStore_keeps
  assumption
  exact keepsO_fault

theorem execAdmitCtlWrite_keeps {rid on : Nat} {s : State} {s₀ : State} (h₀ : Keeps s₀ s) : KeepsO s₀ (execAdmitCtlWrite rid on s) := by
  unfold execAdmitCtlWrite
  refine keepsO_next ?_
  apply csStore_keeps
  assumption

theorem execSerCohWrite_keeps {rid v : Nat} {s : State} {s₀ : State} (h₀ : Keeps s₀ s) : KeepsO s₀ (execSerCohWrite rid v s) := by
  unfold execSerCohWrite
  refine keepsO_next ?_
  apply csStore_keeps
  assumption

theorem execGrantWrite_keeps {rid g v : Nat} {s : State} {s₀ : State} (h₀ : Keeps s₀ s) : KeepsO s₀ (execGrantWrite rid g v s) := by
  unfold execGrantWrite
  refine keepsO_onUnit ?_ ?_
  intro _
  intro _
  apply csStore_keeps
  assumption
  assumption

theorem execCapSetWrite_keeps {rid w : Nat} {s : State} {s₀ : State} (h₀ : Keeps s₀ s) : KeepsO s₀ (execCapSetWrite rid w s) := by
  unfold execCapSetWrite
  refine keepsO_next ?_
  apply csStore_keeps
  assumption

theorem execClkModeWrite_keeps {rid m : Nat} {s : State} {s₀ : State} (h₀ : Keeps s₀ s) : KeepsO s₀ (execClkModeWrite rid m s) := by
  unfold execClkModeWrite
  refine keepsO_next ?_
  apply csStore_keeps
  assumption

theorem execFsetWrite_keeps {rid p f : Nat} {s : State} {s₀ : State} (h₀ : Keeps s₀ s) : KeepsO s₀ (execFsetWrite rid p f s) := by
  unfold execFsetWrite
  refine keepsO_onUnit ?_ ?_
  intro _
  intro _
  apply csStore_keeps
  assumption
  assumption

theorem callPoll_some {p : Nat} {c : Call} {s s₀ : State} {a b} {t : State} (e : callPoll p c s = some (a, b, t)) (h₀ : Keeps s₀ s) : Keeps s₀ t := by
  have here : ∀ {r : Option (Nat × List Nat)}, r.map (fun e => (e.1, e.2, s)) = some (a, b, t) → Keeps s₀ t := by
    intro r e
    rw [Option.map_eq_some_iff] at e
    obtain ⟨x, _, h⟩ := e
    cases h; exact h₀
  have same : ∀ {x : Nat × List Nat}, some (x.1, x.2, s) = some (a, b, t) → Keeps s₀ t := by
    intro x e; cases e; exact h₀
  unfold callPoll at e
  dsimp only at e
  split at e
  · exact here e
  · exact here e
  · split at e <;> cases e; exact h₀
  · split at e <;> cases e; exact h₀
  · split at e
    · rename_i e2
      cases e
      exact detachPoll_pair e2 h₀
    · cases e
  · split at e <;> cases e; exact h₀
  · exact groupPoll_some e h₀
  · exact groupPoll_some e h₀
  · split at e <;> cases e; exact h₀
  · exact here e
  · exact here e
  · exact fenceMovePoll_some e h₀
  · exact fwPoll_some e h₀
  · exact here e
  · cases e; exact hangScanEnd_keeps h₀
  · cases e

theorem execMailboxCallComplete_keeps {page b : Nat} {s : State} {s₀ : State} (h₀ : Keeps s₀ s) : KeepsO s₀ (execMailboxCallComplete page b s) := by
  unfold execMailboxCallComplete
  refine keepsO_next ?_
  dsimp only
  split
  apply advanceTo_keeps
  assumption
  split
  apply advanceTo_keeps
  assumption
  apply endCall_keeps
  refine callPoll_some (by assumption) ?_
  apply advanceTo_keeps
  assumption

theorem cmpData_keeps {port tag a : Nat} {l : List Byte} {s : State} {s₀ : State} (h₀ : Keeps s₀ s) : Keeps s₀ (cmpData port tag a l s) := by
  unfold cmpData
  apply answerWith_keeps
  apply serSend_keeps
  assumption

theorem serAccept_keeps {port tag : Nat} {f : State → State} {s s₀ : State}
    (hf : ∀ s, Keeps s₀ s → Keeps s₀ (f s)) (h₀ : Keeps s₀ s) : Keeps s₀ (serAccept port tag f s) := by
  unfold serAccept
  refine keeps_ite ?_ ?_
  assumption
  refine keeps_ite ?_ ?_
  apply serErrAnswer_keeps
  assumption
  apply hf
  assumption

theorem rdNc_keeps {port tag src a lg : Nat} {s : State} {s₀ : State} (h₀ : Keeps s₀ s) : Keeps s₀ (rdNc port tag src a lg s) := by
  unfold rdNc
  dsimp only
  split
  split
  assumption
  refine keeps_ite ?_ ?_
  apply cmpData_keeps
  refine csRead_some (by assumption) ?_
  assumption
  apply serErrAnswer_keeps
  refine csRead_some (by assumption) ?_
  assumption
  refine keeps_ite ?_ ?_
  apply serErrAnswer_keeps
  assumption
  refine keeps_ite ?_ ?_
  apply homePut_keeps
  assumption
  split
  apply cmpData_keeps
  refine hbmRead_pair (by assumption) ?_
  assumption
  apply serErrAnswer_keeps
  refine hbmRead_pair (by assumption) ?_
  assumption
  refine keeps_ite ?_ ?_
  apply serErrAnswer_keeps
  assumption
  split
  apply serErrAnswer_keeps
  assumption
  apply cmpData_keeps
  assumption
  split
  apply cmpData_keeps
  refine addrDo_pair (by assumption) ?_
  assumption
  apply serErrAnswer_keeps
  refine addrDo_pair (by assumption) ?_
  assumption
  apply serErrAnswer_keeps
  assumption

theorem execRdNc_keeps {port tag src a lg : Nat} {s : State} {s₀ : State} (h₀ : Keeps s₀ s) : KeepsO s₀ (execRdNc port tag src a lg s) := by
  unfold execRdNc
  refine keepsO_onUnit ?_ ?_
  intro _
  intro _
  apply serAccept_keeps
  intro _
  intro _
  apply rdNc_keeps
  assumption
  assumption
  assumption

theorem writeRuns_keeps {src : Source} {a m : Nat} {d : List Byte} {s s₀ : State} (h₀ : Keeps s₀ s) : Keeps s₀ (writeRuns src a m d s).2 := by
  have h2 : ∀ (l : List (Nat × Nat)) (q : Nat × State), Keeps s₀ q.2 → Keeps s₀ (l.foldl (fun (acc : Nat × State) (e : Nat × Nat) =>
    if acc.1 ≠ 0 then acc
    else match devWrite src 0 (a + e.1) (slice e.1 e.2 d) acc.2 with
      | (.ok _, s) => (0, s)
      | (.no c, s) => (c, s)
      | (.wait, s) => (0, s)) q).2 := by
    intro l q hq
    refine keeps_foldl2 ?_ hq
    intro _
    intro _
    intro _
    refine keeps_ite2 ?_ ?_
    assumption
    split
    refine keeps_pair ?_
    refine devWrite_pair (by assumption) ?_
    assumption
    refine keeps_pair ?_
    refine devWrite_pair (by assumption) ?_
    assumption
    refine keeps_pair ?_
    refine devWrite_pair (by assumption) ?_
    assumption
  unfold writeRuns
  dsimp only
  split
  · exact h2 _ _ h₀
  · have h3 := h2 (maskRuns m) (0, s) h₀
    exact ⟨h3.queue, fun c => ⟨(h3.canon c).1, (h₀.canon c).2.1, (h3.canon c).2.2.1, (h₀.canon c).2.2.2⟩⟩
theorem writeRuns_pair {src : Source} {a m : Nat} {d : List Byte} {s s₀ : State} {a₀} {t₀ : State} (e₀ : writeRuns src a m d s = (a₀, t₀)) (h₀ : Keeps s₀ s) : Keeps s₀ t₀ := by
  have k := @writeRuns_keeps src a m d s s₀ h₀
  rw [e₀] at k; exact k

theorem wrNc_keeps {port tag src a mask : Nat} {data : List Byte} {s : State} {s₀ : State} (h₀ : Keeps s₀ s) : Keeps s₀ (wrNc port tag src a mask data s) := by
  unfold wrNc
  dsimp only
  split
  split
  assumption
  refine keeps_ite ?_ ?_
  apply answerWith_keeps
  apply serSend_keeps
  refine csWrite_some (by assumption) ?_
  assumption
  apply serErrAnswer_keeps
  refine csWrite_some (by assumption) ?_
  assumption
  refine keeps_ite ?_ ?_
  apply serErrAnswer_keeps
  assumption
  refine keeps_ite ?_ ?_
  apply homePut_keeps
  assumption
  refine keeps_ite ?_ ?_
  apply answerWith_keeps
  apply serSend_keeps
  apply hbmMask_keeps
  assumption
  apply serErrAnswer_keeps
  apply hbmMask_keeps
  assumption
  refine keeps_ite ?_ ?_
  apply answerWith_keeps
  apply serSend_keeps
  apply writeRuns_keeps
  assumption
  apply serErrAnswer_keeps
  apply writeRuns_keeps
  assumption
  refine keeps_ite ?_ ?_
  apply answerWith_keeps
  apply serSend_keeps
  apply writeRuns_keeps
  assumption
  apply serErrAnswer_keeps
  apply writeRuns_keeps
  assumption
  apply serErrAnswer_keeps
  assumption

theorem execWrLine_keeps {port tag src line : Nat} {data : List Byte} {s : State} {s₀ : State} (h₀ : Keeps s₀ s) : KeepsO s₀ (execWrLine port tag src line data s) := by
  unfold execWrLine
  refine keepsO_onUnit ?_ ?_
  intro _
  intro _
  apply serAccept_keeps
  intro _
  intro _
  apply wrNc_keeps
  assumption
  assumption
  assumption

theorem execWrPart_keeps {port tag src line mask : Nat} {data : List Byte} {s : State} {s₀ : State} (h₀ : Keeps s₀ s) : KeepsO s₀ (execWrPart port tag src line mask data s) := by
  unfold execWrPart
  refine keepsO_onUnit ?_ ?_
  intro _
  intro _
  apply serAccept_keeps
  intro _
  intro _
  apply wrNc_keeps
  assumption
  assumption
  assumption

end Sys2Proof.Machine
end

