-- ==== Sys2Proof/Laws/KeepStair.lean ====
section
/-! SUPPORT. One lemma for each definition of Machine/Stair.lean that answers a state: it keeps the queue and the canonical form. -/
namespace Sys2Proof.Machine

theorem stairAnswer_keeps {tag code st v : Nat} {s : State} {s₀ : State} (h₀ : Keeps s₀ s) : Keeps s₀ (stairAnswer tag code st v s) := by
  unfold stairAnswer
  refine keeps_mk ?_
  assumption

theorem execStairRead_keeps {tag o : Nat} {s : State} {s₀ : State} (h₀ : Keeps s₀ s) : KeepsO s₀ (execStairRead tag o s) := by
  unfold execStairRead
  refine keepsO_next ?_
  split
  assumption
  apply stairAnswer_keeps
  refine csRead_some (by assumption) ?_
  assumption

theorem execStairWrite_keeps {tag rid o v : Nat} {s : State} {s₀ : State} (h₀ : Keeps s₀ s) : KeepsO s₀ (execStairWrite tag rid o v s) := by
  unfold execStairWrite
  refine keepsO_next ?_
  split
  assumption
  apply stairAnswer_keeps
  refine csWrite_some (by assumption) ?_
  assumption

theorem execStairResponse_keeps {tag unit : Nat} {s : State} {s₀ : State} (h₀ : Keeps s₀ s) : KeepsO s₀ (execStairResponse tag unit s) := by
  unfold execStairResponse
  refine keepsO_next ?_
  split
  assumption
  refine keeps_ite ?_ ?_
  assumption
  apply answerWith_keeps
  refine keeps_mk ?_
  assumption

theorem frameDown_keeps {node quad unit : Nat} {f : State → State} {s s₀ : State}
    (hf : ∀ s, Keeps s₀ s → Keeps s₀ (f s)) (h₀ : Keeps s₀ s) : Keeps s₀ (frameDown node quad unit f s) := by
  unfold frameDown
  refine keeps_whenS ?_ ?_
  intro _
  intro _
  apply hf
  assumption
  assumption

theorem execStairFence_keeps {node quad unit : Nat} {s : State} {s₀ : State} (h₀ : Keeps s₀ s) : KeepsO s₀ (execStairFence node quad unit s) := by
  unfold execStairFence
  refine keepsO_onUnits ?_ ?_
  intro _
  intro _
  apply frameDown_keeps
  intro _
  intro _
  split
  assumption
  refine keeps_ite ?_ ?_
  assumption
  apply updStatus_keeps
  apply fenceCluster_keeps
  assumption
  assumption
  assumption

theorem execStairUnfence_keeps {node quad unit : Nat} {s : State} {s₀ : State} (h₀ : Keeps s₀ s) : KeepsO s₀ (execStairUnfence node quad unit s) := by
  unfold execStairUnfence
  refine keepsO_onUnits ?_ ?_
  intro _
  intro _
  apply frameDown_keeps
  intro _
  intro _
  split
  assumption
  refine keeps_ite ?_ ?_
  apply updStatus_keeps
  apply setClState_keeps
  assumption
  assumption
  assumption
  assumption

theorem execStairPark_keeps {node quad : Nat} {s : State} {s₀ : State} (h₀ : Keeps s₀ s) : KeepsO s₀ (execStairPark node quad s) := by
  unfold execStairPark
  refine keepsO_onUnits ?_ ?_
  intro _
  intro _
  dsimp only
  apply frameDown_keeps
  intro _
  intro _
  refine keeps_ite ?_ ?_
  apply parkGal_keeps
  assumption
  assumption
  assumption
  assumption

theorem execStairUnpark_keeps {node quad : Nat} {s : State} {s₀ : State} (h₀ : Keeps s₀ s) : KeepsO s₀ (execStairUnpark node quad s) := by
  unfold execStairUnpark
  refine keepsO_onUnits ?_ ?_
  intro _
  intro _
  dsimp only
  apply frameDown_keeps
  intro _
  intro _
  refine keeps_ite ?_ ?_
  apply askPower_keeps
  assumption
  assumption
  assumption
  assumption

theorem execStairReport_keeps {kind unit cause unitCause at_ b : Nat} {s : State} {s₀ : State} (h₀ : Keeps s₀ s) : KeepsO s₀ (execStairReport kind unit cause unitCause at_ b s) := by
  unfold execStairReport
  refine keepsO_next ?_
  dsimp only
  refine keeps_whenS ?_ ?_
  intro _
  intro _
  apply faultRecovery_keeps
  assumption
  apply advanceTo_keeps
  assumption

theorem execStairFrameCrcFail_keeps {k : Nat} {again : Bool} {s : State} {s₀ : State} (h₀ : Keeps s₀ s) : KeepsO s₀ (execStairFrameCrcFail k again s) := by
  unfold execStairFrameCrcFail
  refine keepsO_next ?_
  dsimp only
  refine keeps_ite ?_ ?_
  assumption
  refine keeps_ite ?_ ?_
  refine keeps_mk ?_
  assumption
  refine keeps_mk ?_
  assumption

theorem execStairLinkRetrain_keeps {k : Nat} {s : State} {s₀ : State} (h₀ : Keeps s₀ s) : KeepsO s₀ (execStairLinkRetrain k s) := by
  unfold execStairLinkRetrain
  refine keepsO_next ?_
  refine keeps_mk ?_
  assumption

theorem execStairReservedOp_keeps {s : State} {s₀ : State} (h₀ : Keeps s₀ s) : KeepsO s₀ (execStairReservedOp s) := by
  unfold execStairReservedOp
  refine keepsO_next ?_
  assumption

end Sys2Proof.Machine
end

