-- ==== Sys2Proof/Laws/KeepModule.lean ====
section
/-! SUPPORT. One lemma for each definition of Machine/Module.lean that answers a state: it keeps the queue and the canonical form. -/
namespace Sys2Proof.Machine

theorem execPrsntAssert_keeps {us : Nat} {s : State} {s₀ : State} (h₀ : Keeps s₀ s) : KeepsO s₀ (execPrsntAssert us s) := by
  unfold execPrsntAssert
  refine keepsO_next ?_
  refine keeps_mk ?_
  assumption

theorem execInputStageClose_keeps {us vin bus : Nat} {s : State} {s₀ : State} (h₀ : Keeps s₀ s) : KeepsO s₀ (execInputStageClose us vin bus s) := by
  unfold execInputStageClose
  refine keepsO_next ?_
  refine keeps_whenS ?_ ?_
  intro _
  intro _
  apply resetPart_keeps
  refine keeps_mk ?_
  assumption
  assumption

theorem openInput_keeps {s : State} {s₀ : State} (h₀ : Keeps s₀ s) : Keeps s₀ (openInput s) := by
  unfold openInput
  apply resetPart_keeps
  refine keeps_mk ?_
  assumption

theorem execPrsntRemove_keeps {us : Nat} {s : State} {s₀ : State} (h₀ : Keeps s₀ s) : KeepsO s₀ (execPrsntRemove us s) := by
  unfold execPrsntRemove
  refine keepsO_next ?_
  dsimp only
  refine keeps_ite ?_ ?_
  refine keeps_ite ?_ ?_
  refine keeps_mk ?_
  assumption
  assumption
  refine keeps_ite ?_ ?_
  refine keeps_mk ?_
  assumption
  apply openInput_keeps
  refine keeps_mk ?_
  assumption

theorem moduleTrip_keeps {cause : Nat} {s : State} {s₀ : State} (h₀ : Keeps s₀ s) : Keeps s₀ (moduleTrip cause s) := by
  unfold moduleTrip
  apply openInput_keeps
  refine keeps_mk ?_
  assumption

theorem execModuleTrip_keeps {cause : Nat} {s : State} {s₀ : State} (h₀ : Keeps s₀ s) : KeepsO s₀ (execModuleTrip cause s) := by
  unfold execModuleTrip
  refine keepsO_next ?_
  refine keeps_whenS ?_ ?_
  intro _
  intro _
  apply moduleTrip_keeps
  assumption
  assumption

theorem execThermalTrip_keeps {u : Nat} {s : State} {s₀ : State} (h₀ : Keeps s₀ s) : KeepsO s₀ (execThermalTrip u s) := by
  unfold execThermalTrip
  refine keepsO_onUnit ?_ ?_
  intro _
  intro _
  refine keeps_whenS ?_ ?_
  intro _
  intro _
  dsimp only
  refine keeps_ite ?_ ?_
  refine keeps_ite ?_ ?_
  apply thmFault_keeps
  assumption
  apply darken_keeps
  apply thmFault_keeps
  assumption
  refine keeps_ite ?_ ?_
  apply failMsd_keeps
  apply thmFault_keeps
  assumption
  refine keeps_ite ?_ ?_
  apply moduleTrip_keeps
  apply thmFault_keeps
  assumption
  refine keeps_foldl ?_ ?_
  intro _
  intro _
  intro _
  refine keeps_ite ?_ ?_
  assumption
  apply failLink_keeps
  assumption
  apply thmFault_keeps
  assumption
  assumption
  assumption

theorem execRefclkLost_keeps {us : Nat} {s : State} {s₀ : State} (h₀ : Keeps s₀ s) : KeepsO s₀ (execRefclkLost us s) := by
  unfold execRefclkLost
  refine keepsO_next ?_
  refine keeps_whenS ?_ ?_
  intro _
  intro _
  dsimp only
  refine keeps_mk ?_
  apply addRecord_keeps
  assumption
  assumption

theorem i3cAnswer_keeps {st : Nat} {l : List Byte} {s : State} {s₀ : State} (h₀ : Keeps s₀ s) : Keeps s₀ (i3cAnswer st l s) := by
  unfold i3cAnswer
  apply answerWith_keeps
  apply send_keeps
  assumption

theorem execI3cCsRead_keeps {a : Nat} {s : State} {s₀ : State} (h₀ : Keeps s₀ s) : KeepsO s₀ (execI3cCsRead a s) := by
  unfold execI3cCsRead
  refine keepsO_next ?_
  refine keeps_ite ?_ ?_
  refine keeps_whenS ?_ ?_
  intro _
  intro _
  apply i3cAnswer_keeps
  assumption
  assumption
  split
  assumption
  apply i3cAnswer_keeps
  refine csRead_some (by assumption) ?_
  assumption

theorem execI3cCsWrite_keeps {a v : Nat} {s : State} {s₀ : State} (h₀ : Keeps s₀ s) : KeepsO s₀ (execI3cCsWrite a v s) := by
  unfold execI3cCsWrite
  refine keepsO_next ?_
  refine keeps_ite ?_ ?_
  refine keeps_whenS ?_ ?_
  intro _
  intro _
  apply i3cAnswer_keeps
  assumption
  assumption
  split
  assumption
  apply i3cAnswer_keeps
  refine csWrite_some (by assumption) ?_
  assumption

theorem execI3cRecNext_keeps {s : State} {s₀ : State} (h₀ : Keeps s₀ s) : KeepsO s₀ (execI3cRecNext s) := by
  unfold execI3cRecNext
  refine keepsO_next ?_
  refine keeps_whenS ?_ ?_
  intro _
  intro _
  split
  apply i3cAnswer_keeps
  assumption
  apply i3cAnswer_keeps
  refine keeps_mk ?_
  assumption
  assumption

theorem execI3cRecAck_keeps {n : Nat} {s : State} {s₀ : State} (h₀ : Keeps s₀ s) : KeepsO s₀ (execI3cRecAck n s) := by
  unfold execI3cRecAck
  refine keepsO_next ?_
  refine keeps_whenS ?_ ?_
  intro _
  intro _
  refine keeps_ite ?_ ?_
  apply i3cAnswer_keeps
  assumption
  dsimp only
  apply i3cAnswer_keeps
  refine keeps_mk ?_
  assumption
  assumption

theorem execI3cStatus_keeps {s : State} {s₀ : State} (h₀ : Keeps s₀ s) : KeepsO s₀ (execI3cStatus s) := by
  unfold execI3cStatus
  refine keepsO_next ?_
  refine keeps_whenS ?_ ?_
  intro _
  intro _
  apply i3cAnswer_keeps
  assumption
  assumption

theorem execI3cOtherOp_keeps {op : Nat} {s : State} {s₀ : State} (h₀ : Keeps s₀ s) : KeepsO s₀ (execI3cOtherOp op s) := by
  unfold execI3cOtherOp
  refine keepsO_next ?_
  refine keeps_whenS ?_ ?_
  intro _
  intro _
  apply i3cAnswer_keeps
  assumption
  assumption

theorem linear11_keeps {num : Int} {den : Nat} {s : State} {s₀ : State} (h₀ : Keeps s₀ s) : Keeps s₀ (linear11 num den s).2 := by
  unfold linear11
  dsimp only
  refine keeps_ite2 ?_ ?_
  refine keeps_pair ?_
  assumption
  apply takeFree_keeps
  assumption
theorem linear11_pair {num : Int} {den : Nat} {s : State} {s₀ : State} {a₀} {t₀ : State} (e₀ : linear11 num den s = (a₀, t₀)) (h₀ : Keeps s₀ s) : Keeps s₀ t₀ := by
  have k := @linear11_keeps num den s s₀ h₀
  rw [e₀] at k; exact k

theorem pmWord_keeps {num : Int} {den : Nat} {s : State} {s₀ : State} (h₀ : Keeps s₀ s) : KeepsO s₀ (pmWord num den s) := by
  unfold pmWord
  refine keepsO_next ?_
  refine keeps_whenS ?_ ?_
  intro _
  intro _
  split
  apply answerWith_keeps
  apply send_keeps
  refine linear11_pair (by assumption) ?_
  assumption
  assumption

theorem pmBlock_keeps {l : List Byte} {s : State} {s₀ : State} (h₀ : Keeps s₀ s) : KeepsO s₀ (pmBlock l s) := by
  unfold pmBlock
  refine keepsO_next ?_
  refine keeps_whenS ?_ ?_
  intro _
  intro _
  apply answerWith_keeps
  apply send_keeps
  assumption
  assumption

theorem pmRefuse_keeps {s : State} {s₀ : State} (h₀ : Keeps s₀ s) : Keeps s₀ (pmRefuse s) := by
  unfold pmRefuse
  apply answerWith_keeps
  refine keeps_mk ?_
  assumption

theorem execPmbusClearFaults_keeps {s : State} {s₀ : State} (h₀ : Keeps s₀ s) : KeepsO s₀ (execPmbusClearFaults s) := by
  unfold execPmbusClearFaults
  refine keepsO_next ?_
  refine keeps_whenS ?_ ?_
  intro _
  intro _
  apply answerWith_keeps
  refine keeps_mk ?_
  assumption
  assumption

theorem execPmbusStatusWord_keeps {s : State} {s₀ : State} (h₀ : Keeps s₀ s) : KeepsO s₀ (execPmbusStatusWord s) := by
  unfold execPmbusStatusWord
  refine keepsO_next ?_
  refine keeps_whenS ?_ ?_
  intro _
  intro _
  dsimp only
  apply answerWith_keeps
  apply send_keeps
  assumption
  assumption

theorem execPmbusReadVin_keeps {s : State} {s₀ : State} (h₀ : Keeps s₀ s) : KeepsO s₀ (execPmbusReadVin s) := by
  unfold execPmbusReadVin
  apply pmWord_keeps
  assumption

theorem execPmbusReadIin_keeps {s : State} {s₀ : State} (h₀ : Keeps s₀ s) : KeepsO s₀ (execPmbusReadIin s) := by
  unfold execPmbusReadIin
  apply pmWord_keeps
  assumption

theorem execPmbusReadPin_keeps {s : State} {s₀ : State} (h₀ : Keeps s₀ s) : KeepsO s₀ (execPmbusReadPin s) := by
  unfold execPmbusReadPin
  apply pmWord_keeps
  assumption

theorem execPmbusReadTemperature1_keeps {s : State} {s₀ : State} (h₀ : Keeps s₀ s) : KeepsO s₀ (execPmbusReadTemperature1 s) := by
  unfold execPmbusReadTemperature1
  apply pmWord_keeps
  assumption

theorem execPmbusReadTemperature2_keeps {s : State} {s₀ : State} (h₀ : Keeps s₀ s) : KeepsO s₀ (execPmbusReadTemperature2 s) := by
  unfold execPmbusReadTemperature2
  apply pmWord_keeps
  assumption

theorem execPmbusMfrId_keeps {s : State} {s₀ : State} (h₀ : Keeps s₀ s) : KeepsO s₀ (execPmbusMfrId s) := by
  unfold execPmbusMfrId
  apply pmBlock_keeps
  assumption

theorem execPmbusMfrModel_keeps {s : State} {s₀ : State} (h₀ : Keeps s₀ s) : KeepsO s₀ (execPmbusMfrModel s) := by
  unfold execPmbusMfrModel
  apply pmBlock_keeps
  assumption

theorem execPmbusPowerLimit_keeps {write : Bool} {w : Nat} {s : State} {s₀ : State} (h₀ : Keeps s₀ s) : KeepsO s₀ (execPmbusPowerLimit write w s) := by
  unfold execPmbusPowerLimit
  refine keepsO_ite ?_ ?_
  refine keepsO_next ?_
  refine keeps_whenS ?_ ?_
  intro _
  intro _
  dsimp only
  refine keeps_ite ?_ ?_
  apply pmRefuse_keeps
  assumption
  apply answerWith_keeps
  apply setFld_keeps
  assumption
  assumption
  apply pmWord_keeps
  assumption

theorem execPmbusOtherCommand_keeps {code : Nat} {s : State} {s₀ : State} (h₀ : Keeps s₀ s) : KeepsO s₀ (execPmbusOtherCommand code s) := by
  unfold execPmbusOtherCommand
  refine keepsO_next ?_
  refine keeps_whenS ?_ ?_
  intro _
  intro _
  apply pmRefuse_keeps
  assumption
  assumption

theorem jtagLoad_keeps {d ir drive : Nat} {s : State} {s₀ : State} (h₀ : Keeps s₀ s) : Keeps s₀ (jtagLoad d ir drive s) := by
  unfold jtagLoad
  refine keeps_mk ?_
  assumption

theorem jtagTest_keeps {d ir drive : Nat} {low : Bool} {s : State} {s₀ : State} (h₀ : Keeps s₀ s) : Keeps s₀ (jtagTest d ir drive low s) := by
  unfold jtagTest
  refine keeps_ite ?_ ?_
  apply jtagLoad_keeps
  assumption
  apply jtagLoad_keeps
  assumption

theorem jtagDo_keeps {d : Nat} {f : State → State} {s s₀ : State}
    (hf : ∀ s, Keeps s₀ s → Keeps s₀ (f s)) (h₀ : Keeps s₀ s) : KeepsO s₀ (jtagDo d f s) := by
  unfold jtagDo
  refine keepsO_onUnit ?_ ?_
  intro _
  intro _
  refine keeps_whenS ?_ ?_
  intro _
  intro _
  apply hf
  assumption
  assumption
  assumption

theorem execJtagExtest_keeps {d : Nat} {low : Bool} {pins shift : List Bool} {s : State} {s₀ : State} (h₀ : Keeps s₀ s) : KeepsO s₀ (execJtagExtest d low pins shift s) := by
  unfold execJtagExtest
  apply jtagDo_keeps
  intro _
  intro _
  dsimp only
  refine keeps_ite ?_ ?_
  apply answerWith_keeps
  refine keeps_mk ?_
  apply jtagTest_keeps
  assumption
  apply jtagTest_keeps
  assumption
  assumption

theorem execJtagIdcode_keeps {d : Nat} {s : State} {s₀ : State} (h₀ : Keeps s₀ s) : KeepsO s₀ (execJtagIdcode d s) := by
  unfold execJtagIdcode
  apply jtagDo_keeps
  intro _
  intro _
  apply answerWith_keeps
  apply jtagLoad_keeps
  assumption
  assumption

theorem execJtagSamplePreload_keeps {d : Nat} {pins shift : List Bool} {s : State} {s₀ : State} (h₀ : Keeps s₀ s) : KeepsO s₀ (execJtagSamplePreload d pins shift s) := by
  unfold execJtagSamplePreload
  apply jtagDo_keeps
  intro _
  intro _
  dsimp only
  apply answerWith_keeps
  refine keeps_mk ?_
  apply jtagLoad_keeps
  assumption
  assumption

theorem execJtagClamp_keeps {d : Nat} {low : Bool} {s : State} {s₀ : State} (h₀ : Keeps s₀ s) : KeepsO s₀ (execJtagClamp d low s) := by
  unfold execJtagClamp
  apply jtagDo_keeps
  intro _
  intro _
  apply jtagTest_keeps
  assumption
  assumption

theorem execJtagHighz_keeps {d : Nat} {low : Bool} {s : State} {s₀ : State} (h₀ : Keeps s₀ s) : KeepsO s₀ (execJtagHighz d low s) := by
  unfold execJtagHighz
  apply jtagDo_keeps
  intro _
  intro _
  apply jtagTest_keeps
  assumption
  assumption

theorem execJtagBypass_keeps {d : Nat} {s : State} {s₀ : State} (h₀ : Keeps s₀ s) : KeepsO s₀ (execJtagBypass d s) := by
  unfold execJtagBypass
  apply jtagDo_keeps
  intro _
  intro _
  apply jtagLoad_keeps
  assumption
  assumption

end Sys2Proof.Machine
end

