-- ==== Sys2Proof/Laws/Launch.lean ====
section
/-! SUPPORT. What a launch does before the launched command's own effect, and what its completion does (04 R117, R119). -/
namespace Sys2Proof.Machine

/-- The registers a launch may write. -/
def LaunchedReg (p st k : Nat) : Prop :=
  Tally k ∨ k = rClStream p st ∨ k = rClEscLate p ∨ k = rClEscLateCnt p ∨ k = rClEscLateBy p ∨ k = rClEscLateMax p

/-- What is the same after a step of a launch of cluster `p`, and what its cluster holds then. -/
structure LaunchStep (p st : Nat) (s t : State) : Prop where
  regs : ∀ k, ¬ LaunchedReg p st k → rd t k = rd s k
  mem : t.spm = s.spm ∧ t.hbm = s.hbm ∧ t.buf = s.buf ∧ t.lmap = s.lmap
  others : ∀ q, q ≠ p → cluster t q = cluster s q
  mine : ∃ z c n, cluster t p = { cluster s p with streams := z, cmdMem := c, nLaunch := n }
  told : t.answer = s.answer ∧ t.sent = s.sent

theorem LaunchStep.refl (p st : Nat) (s : State) : LaunchStep p st s s :=
  ⟨fun _ _ => rfl, ⟨rfl, rfl, rfl, rfl⟩, fun _ _ => rfl, ⟨_, _, _, rfl⟩, ⟨rfl, rfl⟩⟩

theorem LaunchStep.trans {p st : Nat} {s t u : State} (h : LaunchStep p st s t) (g : LaunchStep p st t u) : LaunchStep p st s u := by
  refine ⟨fun k hk => (g.regs k hk).trans (h.regs k hk), ?_, fun q hq => (g.others q hq).trans (h.others q hq), ?_,
    ⟨g.told.1.trans h.told.1, g.told.2.trans h.told.2⟩⟩
  · exact ⟨g.mem.1.trans h.mem.1, g.mem.2.1.trans h.mem.2.1, g.mem.2.2.1.trans h.mem.2.2.1, g.mem.2.2.2.trans h.mem.2.2.2⟩
  · obtain ⟨z, c, n, e⟩ := h.mine
    obtain ⟨z', c', n', e'⟩ := g.mine
    exact ⟨z', c', n', by rw [e', e]⟩

theorem LaunchStep.ite {p st : Nat} {s a b : State} {c : Prop} [Decidable c] (ha : LaunchStep p st s a) (hb : LaunchStep p st s b) :
    LaunchStep p st s (if c then a else b) := by
  split
  · exact ha
  · exact hb

theorem LaunchStep.of_quiet {p st : Nat} {s t : State} (h : Quiet s t) : LaunchStep p st s t :=
  ⟨fun k hk => h.regs k (fun hT => hk (.inl hT)), ⟨h.mem.1, h.mem.2.1, h.mem.2.2, h.units.1⟩, fun q _ => h.cluster_eq q,
   ⟨_, _, _, h.cluster_eq p⟩, h.told⟩

theorem LaunchStep.of_wr {p st k : Nat} (hk : LaunchedReg p st k) (v : Word) (s : State) : LaunchStep p st s (wr k v s) :=
  ⟨fun j hj => rd_wr_other (fun e => hj (by rw [← e]; exact hk)) v s, ⟨rfl, rfl, rfl, rfl⟩, fun _ _ => rfl, ⟨_, _, _, rfl⟩, ⟨rfl, rfl⟩⟩

theorem cluster_modCluster_other {p q : Nat} (h : q ≠ p) (f : Cluster → Cluster) (s : State) :
    cluster (modCluster p f s) q = cluster s q := by
  unfold modCluster
  rw [cluster_setCluster, if_neg (Ne.symm h)]

theorem LaunchStep.of_cl {p st : Nat} {f : Cluster → Cluster} (s : State)
    (hf : ∃ z c n, f (cluster s p) = { cluster s p with streams := z, cmdMem := c, nLaunch := n }) :
    LaunchStep p st s (modCluster p f s) := by
  refine ⟨fun _ _ => rfl, ⟨rfl, rfl, rfl, rfl⟩, fun q hq => cluster_modCluster_other hq f s, ?_, ⟨rfl, rfl⟩⟩
  rw [cluster_modCluster_same]
  exact hf

theorem launchStep_modStream (p st : Nat) (f : Stream → Stream) (s : State) : LaunchStep p st s (modStream p st f s) := by
  unfold modStream
  exact LaunchStep.of_cl s ⟨_, _, _, rfl⟩

theorem launchStep_leaveHead (p st : Nat) (h : Head) (s : State) : LaunchStep p st s (leaveHead p st h s) := by
  have h1 : ∀ v u, LaunchStep p st u (wr (rClStream p st) v u) := fun v u => LaunchStep.of_wr (.inr (.inl rfl)) v u
  have h2 : LaunchStep p st s (if h.inBlock then modStream p st (fun z => { z with block := z.block.tail }) s else s) := by
    split
    · exact launchStep_modStream p st _ s
    · exact LaunchStep.refl p st s
  unfold leaveHead
  dsimp only
  generalize (if h.inBlock = true then modStream p st (fun z => { z with block := z.block.tail }) s else s) = u at h2 ⊢
  split
  · exact h2.trans (h1 _ _)
  · exact (h2.trans (h1 _ _)).trans (h1 _ _)

theorem launchStep_addPeriod (p st : Nat) (h : Head) (s : State) : LaunchStep p st s (addPeriod p h s) := by
  unfold addPeriod
  dsimp only
  split
  · exact LaunchStep.refl p st s
  · refine ⟨fun _ _ => rfl, ⟨rfl, rfl, rfl, rfl⟩, fun q hq => ?_, ⟨_, _, _, cluster_setCluster_same _ _ _⟩, ⟨rfl, rfl⟩⟩
    rw [cluster_setCluster, if_neg (Ne.symm hq)]

theorem launchStep_lateLaunch {p : Nat} (hp : p < 864) (st : Nat) (l : Launched) (n : Nat) (s : State) :
    LaunchStep p st s (lateLaunch p l n s) := by
  have w1 : ∀ v u, LaunchStep p st u (wr (rClEscLate p) v u) := fun v u => LaunchStep.of_wr (.inr (.inr (.inl rfl))) v u
  have w2 : ∀ v u, LaunchStep p st u (wr (rClEscLateCnt p) v u) := fun v u => LaunchStep.of_wr (.inr (.inr (.inr (.inl rfl)))) v u
  have w3 : ∀ v u, LaunchStep p st u (wr (rClEscLateBy p) v u) :=
    fun v u => LaunchStep.of_wr (.inr (.inr (.inr (.inr (.inl rfl))))) v u
  have w4 : ∀ v u, LaunchStep p st u (wr (rClEscLateMax p) v u) :=
    fun v u => LaunchStep.of_wr (.inr (.inr (.inr (.inr (.inr rfl))))) v u
  have hu : TraceUnit p := .inl (by omega)
  have w5 : ∀ u : State, LaunchStep p st u { u with lateSince := u.lateSince + 1 } :=
    fun u => ⟨fun _ _ => rfl, ⟨rfl, rfl, rfl, rfl⟩, fun _ _ => rfl, ⟨_, _, _, rfl⟩, ⟨rfl, rfl⟩⟩
  unfold lateLaunch
  dsimp only
  refine LaunchStep.trans ?_ (w5 _)
  refine LaunchStep.trans ?_ (.of_quiet (quiet_traceRec hu _ _ _ _ _))
  refine LaunchStep.trans ?_ (.of_quiet (quiet_countCl _ _ _ _ _))
  split
  · exact (((w1 _ _).trans ((w1 _ _).trans (w2 _ _))).trans (w3 _ _)).trans (w4 _ _)
  · exact ((w1 _ _).trans ((w1 _ _).trans (w2 _ _))).trans (w3 _ _)

/-- The state in which a launched command's own effect begins. -/
def launchedAt (p st : Nat) (h : Head) (s : State) : State :=
  let c := h.cmd
  let leaf := leafCount s (leafCl p)
  let l : Launched := ⟨(cluster s p).nLaunch, st, h.idx, c, leaf⟩
  let by_ := if cLaunch c ≠ 1 ∨ fld s (rClStream p st) fClStreamWaitKind = 1 then 0 else leaf - cBeat c
  let s := modCluster p (fun k => { k with nLaunch := k.nLaunch + 1 }) s
  let s := addPeriod p h (leaveHead p st h s)
  let s := countCl p 0x03 (cIds c) 1 s
  let s := if cUnit c = 1 then countLaunch p matEvents (cIds c) s
    else if cUnit c = 2 then countLaunch p vecEvents (cIds c) s else s
  let s := if cTrace c then traceRec p 1 st (cIds c)
    (natLe 4 (min by_ 0xFFFFFFFF) ++ natLe 1 (cUnit c) ++ natLe 1 (cLaunch c) ++ natLe 2 h.idx) s else s
  if cLaunch c = 1 ∧ cSlack c < by_ then lateLaunch p l by_ s else s

/-- The launched command of a head. -/
def launchedCmd (p st : Nat) (h : Head) (s : State) : Launched := ⟨(cluster s p).nLaunch, st, h.idx, h.cmd, leafCount s (leafCl p)⟩

/-- A head command that launches, of an accepted opcode and with room at its unit, has its own effect from there. -/
theorem launch_eq {s : State} {p st o : Nat} {h : Head} (hl : Launches s p st o h) {op : Nat → Bool} (ho : op o = true)
    {room : State → Cmd → Option (Nat × Nat)} (hr : room s h.cmd = none) (act : Launched → State → State) :
    launch p st op room act s = act (launchedCmd p st h s) (launchedAt p st h s) := by
  obtain ⟨h1, h2, h3, h4, h5, h6, h7, h8⟩ := hl
  have h3' : (streamState s p st == ssRunning || streamState s p st == ssWaiting) = true := by simpa using h3
  unfold launch
  rw [h1]
  dsimp only
  rw [if_neg (by simp [h2, h3', h4, ho]), if_neg (by simp [h5]), if_neg (by simpa using h6), if_neg (by rintro ⟨a, b⟩; exact absurd (h7 a) (by omega)),
    if_neg (by rintro ⟨a, b⟩; rw [h8 a] at b; cases b), hr]
  rfl

theorem launchStep_launchedAt {p : Nat} (hp : p < 864) (st : Nat) (h : Head) (s : State) : LaunchStep p st s (launchedAt p st h s) := by
  have hu : TraceUnit p := .inl (by omega)
  have q : ∀ {u v : State}, Quiet u v → LaunchStep p st u v := fun h => .of_quiet h
  have h0 : LaunchStep p st s (modCluster p (fun k => { k with nLaunch := k.nLaunch + 1 }) s) := .of_cl s ⟨_, _, _, rfl⟩
  have h1 := ((h0.trans (launchStep_leaveHead p st h _)).trans (launchStep_addPeriod p st h _)).trans
    (q (quiet_countCl p 0x03 (cIds h.cmd) 1 _))
  unfold launchedAt
  dsimp only
  have h2 : ∀ u, LaunchStep p st u (if cUnit h.cmd = 1 then countLaunch p matEvents (cIds h.cmd) u
    else if cUnit h.cmd = 2 then countLaunch p vecEvents (cIds h.cmd) u else u) := by
    intro u
    split
    · exact q (quiet_countLaunch p _ _ u)
    · split
      · exact q (quiet_countLaunch p _ _ u)
      · exact LaunchStep.refl p st u
  have h3 : ∀ u l, LaunchStep p st u (if cTrace h.cmd then traceRec p 1 st (cIds h.cmd) l u else u) := by
    intro u l
    split
    · exact q (quiet_traceRec hu _ _ _ _ u)
    · exact LaunchStep.refl p st u
  have h4 := (h1.trans (h2 _)).trans (h3 _ (natLe 4 (min (if cLaunch h.cmd ≠ 1 ∨ fld s (rClStream p st) fClStreamWaitKind = 1 then 0
      else leafCount s (leafCl p) - cBeat h.cmd) 0xFFFFFFFF) ++ natLe 1 (cUnit h.cmd) ++ natLe 1 (cLaunch h.cmd) ++ natLe 2 h.idx))
  exact .ite (h4.trans (launchStep_lateLaunch hp st _ _ _)) h4

/-! ### The stream past its head -/

theorem tally_stream {p st : Nat} (h : st < 32) : ¬ Tally (rClStream p st) := by
  simp only [rClStream, clBase, Tally]
  omega

theorem stream_late {p st : Nat} (h : st < 32) : rClEscLate p ≠ rClStream p st ∧ rClEscLateCnt p ≠ rClStream p st ∧
    rClEscLateBy p ≠ rClStream p st ∧ rClEscLateMax p ≠ rClStream p st := by
  simp only [rClStream, rClEscLate, rClEscLateCnt, rClEscLateBy, rClEscLateMax, clBase]
  omega

/-- The stream's own state is the same. -/
def StreamSame (p st : Nat) (s t : State) : Prop :=
  rd t (rClStream p st) = rd s (rClStream p st) ∧ streamOf t p st = streamOf s p st

theorem StreamSame.trans {p st : Nat} {s t u : State} (h : StreamSame p st s t) (g : StreamSame p st t u) : StreamSame p st s u :=
  ⟨g.1.trans h.1, g.2.trans h.2⟩

theorem StreamSame.of_quiet {p st : Nat} (hs : st < 32) {s t : State} (h : Quiet s t) : StreamSame p st s t := by
  refine ⟨h.regs _ (tally_stream hs), ?_⟩
  unfold streamOf
  rw [h.cluster_eq]

theorem StreamSame.of_wr {p st k : Nat} (h : k ≠ rClStream p st) (v : Word) (s : State) : StreamSame p st s (wr k v s) :=
  ⟨rd_wr_other h v s, rfl⟩

theorem StreamSame.ite {p st : Nat} {s a b : State} {c : Prop} [Decidable c] (ha : StreamSame p st s a) (hb : StreamSame p st s b) :
    StreamSame p st s (if c then a else b) := by
  split
  · exact ha
  · exact hb

theorem streamSame_addPeriod (p st : Nat) (h : Head) (s : State) : StreamSame p st s (addPeriod p h s) := by
  unfold addPeriod
  dsimp only
  split
  · exact ⟨rfl, rfl⟩
  · refine ⟨rfl, ?_⟩
    unfold streamOf
    rw [cluster_setCluster_same]

theorem streamSame_lateLaunch {p st : Nat} (hp : p < 864) (hs : st < 32) (l : Launched) (n : Nat) (s : State) :
    StreamSame p st s (lateLaunch p l n s) := by
  obtain ⟨h1, h2, h3, h4⟩ := stream_late (p := p) hs
  have w5 : ∀ u : State, StreamSame p st u { u with lateSince := u.lateSince + 1 } := fun _ => ⟨rfl, rfl⟩
  unfold lateLaunch
  dsimp only
  refine StreamSame.trans ?_ (w5 _)
  refine StreamSame.trans ?_ (.of_quiet hs (quiet_traceRec (.inl (by omega)) _ _ _ _ _))
  refine StreamSame.trans ?_ (.of_quiet hs (quiet_countCl _ _ _ _ _))
  have w : StreamSame p st s (wr (rClEscLateBy p) (BitVec.ofNat 64 n) (raise (rClEscLate p) 0 (rClEscLateCnt p)
      (setFlds (rClEscLate p) [(fClEscLateOpId, (cIds l.cmd).op), (fClEscLateLayerId, (cIds l.cmd).layer), (fClEscLateSeq, (cIds l.cmd).seq),
        (fClEscLateStream, l.stream)] s))) :=
    (((StreamSame.of_wr h1 _ s).trans (.of_wr h1 _ _)).trans (.of_wr h2 _ _)).trans (.of_wr h3 _ _)
  exact .ite (w.trans (.of_wr h4 _ _)) w

theorem streamOf_modStream_same (p st : Nat) (f : Stream → Stream) (s : State) :
    streamOf (modStream p st f s) p st = f (streamOf s p st) := by
  unfold modStream
  dsimp only
  unfold streamOf
  rw [cluster_modCluster_same]
  dsimp only
  rw [tabGet_tabSet, if_pos rfl]

theorem streamState_setStreamState (p st x : Nat) (s : State) : streamState (setStreamState p st x s) p st = x % 16 := by
  unfold streamState setStreamState setFlds fld
  rw [rd_wr_same]
  simp only [List.foldl]
  rw [fget_fset_other _ _ _ _ (by decide), fget_fset_other _ _ _ _ (by decide), fget_fset_other _ _ _ _ (by decide),
    fget_fset _ _ _ (by decide)]
  rfl

theorem streamPc_setStreamState (p st x : Nat) (s : State) : streamPc (setStreamState p st x s) p st = streamPc s p st := by
  unfold streamPc setStreamState setFlds fld
  rw [rd_wr_same]
  simp only [List.foldl]
  rw [fget_fset_other _ _ _ _ (by decide), fget_fset_other _ _ _ _ (by decide), fget_fset_other _ _ _ _ (by decide),
    fget_fset_other _ _ _ _ (by decide)]

theorem streamPc_setPc (p st x : Nat) (s : State) : streamPc (setPc p st x s) p st = x % 2 ^ 13 := by
  unfold streamPc setPc
  exact fld_setFld s _ _ x (by decide)

theorem past_leaveHead (p st : Nat) (h : Head) (s : State) : PastHead s (leaveHead p st h s) p st h := by
  have e : ∀ u : State, streamOf u p st = (if h.inBlock then { streamOf s p st with block := (streamOf s p st).block.tail } else streamOf s p st) →
      PastHead s (if (!(streamOf u p st).block.isEmpty) = true then setStreamState p st ssRunning u
        else setStreamState p st (if h.idx + 1 < (streamOf (setPc p st (h.idx + 1) u) p st).last then ssRunning else ssHalted)
          (setPc p st (h.idx + 1) u)) p st h := by
    intro u hu
    have hb : (streamOf u p st).block = (if h.inBlock then (streamOf s p st).block.tail else (streamOf s p st).block) := by
      rw [hu]; split <;> rfl
    have hl : (streamOf u p st).last = (streamOf s p st).last := by
      rw [hu]; split <;> rfl
    unfold PastHead
    dsimp only
    rw [← hb]
    split
    · rename_i hne
      have hne' : (streamOf u p st).block ≠ [] := by simpa using hne
      refine ⟨rfl, ?_, fun h => absurd h hne'⟩
      rw [streamState_setStreamState, if_pos (.inl hne')]
      rfl
    · rename_i hne
      have hne' : (streamOf u p st).block = [] := by simpa using hne
      refine ⟨rfl, ?_, fun _ => ?_⟩
      · rw [streamState_setStreamState]
        have e2 : (streamOf (setPc p st (h.idx + 1) u) p st).last = (streamOf s p st).last := hl
        rw [e2]
        by_cases hlt : h.idx + 1 < (streamOf s p st).last
        · rw [if_pos hlt, if_pos (.inr hlt)]
          rfl
        · rw [if_neg hlt, if_neg (by rintro (h | h); exact h hne'; exact hlt h)]
          rfl
      · rw [streamPc_setStreamState, streamPc_setPc]
  unfold leaveHead
  refine e _ ?_
  split
  · exact streamOf_modStream_same p st _ s
  · rfl

theorem stream_leaveHead (p st : Nat) (h : Head) (s : State) : streamOf (leaveHead p st h s) p st =
    (if h.inBlock then { streamOf s p st with block := (streamOf s p st).block.tail } else streamOf s p st) := by
  have e : ∀ u : State, streamOf (if (!(streamOf u p st).block.isEmpty) = true then setStreamState p st ssRunning u
        else setStreamState p st (if h.idx + 1 < (streamOf (setPc p st (h.idx + 1) u) p st).last then ssRunning else ssHalted)
          (setPc p st (h.idx + 1) u)) p st = streamOf u p st := by
    intro u
    split <;> rfl
  unfold leaveHead
  refine (e _).trans ?_
  split
  · exact streamOf_modStream_same p st _ s
  · rfl

/-- The stream's own state, carried over what leaves it alone. -/
theorem PastHead.mono {s t u : State} {p st : Nat} {h : Head} (hp : PastHead s t p st h) (e : StreamSame p st t u) : PastHead s u p st h := by
  obtain ⟨h1, h2, h3⟩ := hp
  refine ⟨by rw [e.2]; exact h1, ?_, fun hb => ?_⟩
  · unfold streamState fld
    rw [e.1]
    exact h2
  · unfold streamPc fld
    rw [e.1]
    exact h3 hb

/-- Once its head is left, the rest of a launch leaves a stream alone. -/
theorem streamSame_launchedAt {p st : Nat} (hp : p < 864) (hs : st < 32) (h : Head) (s : State) :
    StreamSame p st (leaveHead p st h (modCluster p (fun k => { k with nLaunch := k.nLaunch + 1 }) s)) (launchedAt p st h s) := by
  have q : ∀ {u v : State}, Quiet u v → StreamSame p st u v := fun h => .of_quiet hs h
  have hu : TraceUnit p := .inl (by omega)
  unfold launchedAt
  dsimp only
  have h1 := (streamSame_addPeriod p st h (leaveHead p st h (modCluster p (fun k => { k with nLaunch := k.nLaunch + 1 }) s))).trans
    (q (quiet_countCl p 0x03 (cIds h.cmd) 1 _))
  have h2 : ∀ u, StreamSame p st u (if cUnit h.cmd = 1 then countLaunch p matEvents (cIds h.cmd) u
    else if cUnit h.cmd = 2 then countLaunch p vecEvents (cIds h.cmd) u else u) :=
    fun u => .ite (q (quiet_countLaunch p _ _ u)) (.ite (q (quiet_countLaunch p _ _ u)) ⟨rfl, rfl⟩)
  have h3 : ∀ u l, StreamSame p st u (if cTrace h.cmd then traceRec p 1 st (cIds h.cmd) l u else u) :=
    fun u l => .ite (q (quiet_traceRec hu _ _ _ _ u)) ⟨rfl, rfl⟩
  exact ((h1.trans (h2 _)).trans (h3 _ _)).trans (.ite (streamSame_lateLaunch hp hs _ _ _) ⟨rfl, rfl⟩)

theorem streamOf_nLaunch (p st : Nat) (s : State) :
    streamOf (modCluster p (fun k => { k with nLaunch := k.nLaunch + 1 }) s) p st = streamOf s p st := by
  unfold streamOf
  rw [cluster_modCluster_same]

/-- After a launch the stream stands past its head. -/
theorem past_launchedAt {p st : Nat} (hp : p < 864) (hs : st < 32) (h : Head) (s : State) : PastHead s (launchedAt p st h s) p st h := by
  refine PastHead.mono ?_ (streamSame_launchedAt hp hs h s)
  have h1 := past_leaveHead p st h (modCluster p (fun k => { k with nLaunch := k.nLaunch + 1 }) s)
  unfold PastHead at h1 ⊢
  rw [streamOf_nLaunch] at h1
  exact h1

/-- What the stream holds beside its register after a launch. -/
theorem stream_launchedAt {p st : Nat} (hp : p < 864) (hs : st < 32) (h : Head) (s : State) : streamOf (launchedAt p st h s) p st =
    (if h.inBlock then { streamOf s p st with block := (streamOf s p st).block.tail } else streamOf s p st) := by
  rw [(streamSame_launchedAt hp hs h s).2, stream_leaveHead, streamOf_nLaunch]

/-! ### Completion -/

theorem semOf_semSet (p i v : Nat) (s : State) : semOf (semSet p i v s) p i = v % 2 ^ 32 := by
  unfold semOf semSet
  exact fld_setFld s _ _ v (by decide)

theorem semOf_lt (s : State) (p i : Nat) : semOf s p i < 2 ^ 32 := by
  unfold semOf fld fget
  rw [BitVec.toNat_and]
  exact Nat.lt_of_le_of_lt Nat.and_le_right (by decide)

theorem tally_sem {p i : Nat} (h : i < 64) : ¬ Tally (rClSem p i) := by
  simp only [rClSem, clBase, Tally]
  omega

theorem doneSem_lt (c : Cmd) : cDoneSem c < 64 := by
  unfold cDoneSem bitsAt
  exact Nat.mod_lt _ (by decide)

/-- What a completion changes: the semaphore of done_add, and what counts and traces. -/
structure Completed (p : Nat) (c : Cmd) (s t : State) : Prop where
  regs : ∀ k, ¬ Tally k → k ≠ rClSem p (cDoneSem c) → rd t k = rd s k
  mem : t.spm = s.spm ∧ t.hbm = s.hbm ∧ t.buf = s.buf ∧ t.lmap = s.lmap
  units : ∀ q, cluster t q = cluster s q
  done : DoneAdded s t p c
  told : t.answer = s.answer ∧ t.sent = s.sent

theorem completed_complete {p : Nat} (hp : p < 864) (l : Launched) (s : State) : Completed p l.cmd s (complete p l s) := by
  have hu : TraceUnit p := .inl (by omega)
  have hd := doneSem_lt l.cmd
  have h0 : Completed p l.cmd s (if cDoneAdd l.cmd = 0 then s else semAdd p (cDoneSem l.cmd) (cDoneAdd l.cmd) s) := by
    split
    · rename_i h
      refine ⟨fun _ _ _ => rfl, ⟨rfl, rfl, rfl, rfl⟩, fun _ => rfl, ?_, ⟨rfl, rfl⟩⟩
      unfold DoneAdded
      rw [h, Nat.add_zero, Nat.mod_eq_of_lt (semOf_lt _ _ _)]
    · refine ⟨fun k _ hk => rd_wr_other (Ne.symm hk) _ s, ⟨rfl, rfl, rfl, rfl⟩, fun _ => rfl, ?_, ⟨rfl, rfl⟩⟩
      unfold DoneAdded semAdd
      rw [semOf_semSet, Nat.mod_mod]
  have h1 : ∀ {u v : State}, Completed p l.cmd s u → Quiet u v → Completed p l.cmd s v := by
    intro u v h q
    refine ⟨fun k hk hk2 => (q.regs k hk).trans (h.regs k hk hk2), ?_, fun x => (q.cluster_eq x).trans (h.units x), ?_,
      ⟨q.told.1.trans h.told.1, q.told.2.trans h.told.2⟩⟩
    · exact ⟨q.mem.1.trans h.mem.1, q.mem.2.1.trans h.mem.2.1, q.mem.2.2.trans h.mem.2.2.1, q.units.1.trans h.mem.2.2.2⟩
    · have e := h.done
      unfold DoneAdded at e ⊢
      have e2 : semOf v p (cDoneSem l.cmd) = semOf u p (cDoneSem l.cmd) := q.fld_eq (tally_sem hd) _
      rw [e2]
      exact e
  unfold complete
  dsimp only
  generalize (if cDoneAdd l.cmd = 0 then s else semAdd p (cDoneSem l.cmd) (cDoneAdd l.cmd) s) = u at h0 ⊢
  have h2 := h1 h0 (quiet_countDone p (cIds l.cmd) _)
  split
  · exact h1 (h1 h2 (quiet_takeFree 32 _)) (quiet_traceRec hu _ _ _ _ _)
  · exact h2

end Sys2Proof.Machine
end

