-- ==== Sys2Proof/Laws/PerInstr.lean ====
section
/-! SUPPORT. Per command: the checks of well-formedness refuse no command altogether, and exec gives it its own mnemonic's arm. -/
namespace Sys2Proof.Laws.WellFormedness

/-- Some command of the same row passes the checks. -/
def Statement (i : Instr) : Prop := ∃ j : Instr, j.ctorIdx = i.ctorIdx ∧ j.wf = true

theorem controlRegisterWrite (rid : Nat) (o : Nat) (size : Nat) (v : Nat) : Statement (.controlRegisterWrite rid o size v) := ⟨.controlRegisterWrite 0 0 0 0, rfl, by decide⟩
theorem mailboxCallComplete (page : Nat) (b : Nat) : Statement (.mailboxCallComplete page b) := ⟨.mailboxCallComplete 0 0, rfl, by decide⟩
theorem escLateMaxRead (p : Nat) : Statement (.escLateMaxRead p) := ⟨.escLateMaxRead 0, rfl, by decide⟩
theorem rstNReset (us : Nat) (vinOk : Bool) : Statement (.rstNReset us vinOk) := ⟨.rstNReset 0 false, rfl, by decide⟩
theorem stagePower (straps : Nat) (refclk : Bool) (shorts : List Nat) (ms : Nat) : Statement (.stagePower straps refclk shorts ms) := ⟨.stagePower 0 false [] 0, rfl, by decide⟩
theorem stageSecureBoot (b : Nat) : Statement (.stageSecureBoot b) := ⟨.stageSecureBoot 0, rfl, by decide⟩
theorem stageFusesRead (b : Nat) : Statement (.stageFusesRead b) := ⟨.stageFusesRead 0, rfl, by decide⟩
theorem stageDefectMerge (b : Nat) : Statement (.stageDefectMerge b) := ⟨.stageDefectMerge 0, rfl, by decide⟩
theorem stageMemoryTraining (failed : List Nat) (b : Nat) : Statement (.stageMemoryTraining failed b) := ⟨.stageMemoryTraining [] 0, rfl, by decide⟩
theorem stageSelfTests (fails : List Nat) (b : Nat) : Statement (.stageSelfTests fails b) := ⟨.stageSelfTests [] 0, rfl, by decide⟩
theorem stageTopologyDiscovery (refBeat : Nat) (b : Nat) : Statement (.stageTopologyDiscovery refBeat b) := ⟨.stageTopologyDiscovery 0 0, rfl, by decide⟩
theorem discoveryTimeout (b : Nat) : Statement (.discoveryTimeout b) := ⟨.discoveryTimeout 0, rfl, by decide⟩
theorem stageCalibreLoad (bad : List Nat) (b : Nat) : Statement (.stageCalibreLoad bad b) := ⟨.stageCalibreLoad [] 0, rfl, by decide⟩
theorem stairRead (tag : Nat) (o : Nat) : Statement (.stairRead tag o) := ⟨.stairRead 0 0, rfl, by decide⟩
theorem stairWrite (tag : Nat) (rid : Nat) (o : Nat) (v : Nat) : Statement (.stairWrite tag rid o v) := ⟨.stairWrite 0 0 0 0, rfl, by decide⟩
theorem stairResponse (tag : Nat) (unit : Nat) : Statement (.stairResponse tag unit) := ⟨.stairResponse 0 0, rfl, by decide⟩
theorem stairFence (node : Nat) (quad : Nat) (unit : Nat) : Statement (.stairFence node quad unit) := ⟨.stairFence 0 0 0, rfl, by decide⟩
theorem stairUnfence (node : Nat) (quad : Nat) (unit : Nat) : Statement (.stairUnfence node quad unit) := ⟨.stairUnfence 0 0 0, rfl, by decide⟩
theorem stairPark (node : Nat) (quad : Nat) : Statement (.stairPark node quad) := ⟨.stairPark 0 0, rfl, by decide⟩
theorem stairUnpark (node : Nat) (quad : Nat) : Statement (.stairUnpark node quad) := ⟨.stairUnpark 0 0, rfl, by decide⟩
theorem stairReport (kind : Nat) (unit : Nat) (cause : Nat) (unitCause : Nat) (at_ : Nat) (b : Nat) : Statement (.stairReport kind unit cause unitCause at_ b) := ⟨.stairReport 0 0 0 0 0 0, rfl, by decide⟩
theorem stairSnapshotData (id : Nat) (off : Nat) : Statement (.stairSnapshotData id off) := ⟨.stairSnapshotData 0 0, rfl, by decide⟩
theorem stairFrameCrcFail (k : Nat) (again : Bool) : Statement (.stairFrameCrcFail k again) := ⟨.stairFrameCrcFail 0 false, rfl, by decide⟩
theorem ctlNop (p : Nat) (st : Nat) (b : Nat) : Statement (.ctlNop p st b) := ⟨.ctlNop 0 0 0, rfl, by decide⟩
theorem ctlMark (p : Nat) (st : Nat) (b : Nat) : Statement (.ctlMark p st b) := ⟨.ctlMark 0 0 0, rfl, by decide⟩
theorem ctlJump (p : Nat) (st : Nat) (b : Nat) : Statement (.ctlJump p st b) := ⟨.ctlJump 0 0 0, rfl, by decide⟩
theorem ctlLoopSet (p : Nat) (st : Nat) (b : Nat) : Statement (.ctlLoopSet p st b) := ⟨.ctlLoopSet 0 0 0, rfl, by decide⟩
theorem ctlLoop (p : Nat) (st : Nat) (b : Nat) : Statement (.ctlLoop p st b) := ⟨.ctlLoop 0 0 0, rfl, by decide⟩
theorem ctlExec (p : Nat) (st : Nat) (b : Nat) : Statement (.ctlExec p st b) := ⟨.ctlExec 0 0 0, rfl, by decide⟩
theorem ctlHalt (p : Nat) (st : Nat) (b : Nat) : Statement (.ctlHalt p st b) := ⟨.ctlHalt 0 0 0, rfl, by decide⟩
theorem semSet (p : Nat) (st : Nat) (b : Nat) : Statement (.semSet p st b) := ⟨.semSet 0 0 0, rfl, by decide⟩
theorem semAdd (p : Nat) (st : Nat) (b : Nat) : Statement (.semAdd p st b) := ⟨.semAdd 0 0 0, rfl, by decide⟩
theorem semSignal (p : Nat) (st : Nat) (b : Nat) : Statement (.semSignal p st b) := ⟨.semSignal 0 0 0, rfl, by decide⟩
theorem semSignalArrive (t : Nat) (sem : Nat) (n : Nat) (dev : Nat) (src : Nat) (tag : Nat) : Statement (.semSignalArrive t sem n dev src tag) := ⟨.semSignalArrive 0 0 0 0 0 0, rfl, by decide⟩
theorem signalAck (p : Nat) (tag : Nat) (status : Nat) : Statement (.signalAck p tag status) := ⟨.signalAck 0 0 0, rfl, by decide⟩
theorem fenceRel (p : Nat) (st : Nat) (b : Nat) : Statement (.fenceRel p st b) := ⟨.fenceRel 0 0 0, rfl, by decide⟩
theorem fenceRelComplete (p : Nat) (st : Nat) : Statement (.fenceRelComplete p st) := ⟨.fenceRelComplete 0 0, rfl, by decide⟩
theorem fenceAcq (p : Nat) (st : Nat) (b : Nat) : Statement (.fenceAcq p st b) := ⟨.fenceAcq 0 0 0, rfl, by decide⟩
theorem matRun (p : Nat) (st : Nat) (b : Nat) : Statement (.matRun p st b) := ⟨.matRun 0 0 0, rfl, by decide⟩
theorem matDescArrive (p : Nat) : Statement (.matDescArrive p) := ⟨.matDescArrive 0, rfl, by decide⟩
theorem feederLineArrive (p : Nat) (r : Nat) : Statement (.feederLineArrive p r) := ⟨.feederLineArrive 0 0, rfl, by decide⟩
theorem actLineArrive (p : Nat) : Statement (.actLineArrive p) := ⟨.actLineArrive 0, rfl, by decide⟩
theorem matPassStart (p : Nat) : Statement (.matPassStart p) := ⟨.matPassStart 0, rfl, by decide⟩
theorem matSlotUpdate (p : Nat) : Statement (.matSlotUpdate p) := ⟨.matSlotUpdate 0, rfl, by decide⟩
theorem matRunComplete (p : Nat) : Statement (.matRunComplete p) := ⟨.matRunComplete 0, rfl, by decide⟩
theorem matReadout (p : Nat) (st : Nat) (b : Nat) : Statement (.matReadout p st b) := ⟨.matReadout 0 0 0, rfl, by decide⟩
theorem matReadoutCopy (p : Nat) (bad : List Nat) : Statement (.matReadoutCopy p bad) := ⟨.matReadoutCopy 0 [], rfl, by decide⟩
theorem matReadoutDrain (p : Nat) : Statement (.matReadoutDrain p) := ⟨.matReadoutDrain 0, rfl, by decide⟩
theorem matReadoutComplete (p : Nat) : Statement (.matReadoutComplete p) := ⟨.matReadoutComplete 0, rfl, by decide⟩
theorem matClear (p : Nat) (st : Nat) (b : Nat) : Statement (.matClear p st b) := ⟨.matClear 0 0 0, rfl, by decide⟩
theorem matCtrlWrite (rid : Nat) (l : Nat) (v : Nat) : Statement (.matCtrlWrite rid l v) := ⟨.matCtrlWrite 0 0 0, rfl, by decide⟩
theorem arithCtrlWrite (rid : Nat) (l : Nat) (repro : Nat) : Statement (.arithCtrlWrite rid l repro) := ⟨.arithCtrlWrite 0 0 0, rfl, by decide⟩
theorem vecEw (p : Nat) (st : Nat) (b : Nat) : Statement (.vecEw p st b) := ⟨.vecEw 0 0 0, rfl, by decide⟩
theorem vecSfu (p : Nat) (st : Nat) (b : Nat) : Statement (.vecSfu p st b) := ⟨.vecSfu 0 0 0, rfl, by decide⟩
theorem vecRed (p : Nat) (st : Nat) (b : Nat) : Statement (.vecRed p st b) := ⟨.vecRed 0 0 0, rfl, by decide⟩
theorem vecSmax (p : Nat) (st : Nat) (b : Nat) : Statement (.vecSmax p st b) := ⟨.vecSmax 0 0 0, rfl, by decide⟩
theorem vecNorm (p : Nat) (st : Nat) (b : Nat) : Statement (.vecNorm p st b) := ⟨.vecNorm 0 0 0, rfl, by decide⟩
theorem vecCvt (p : Nat) (st : Nat) (b : Nat) : Statement (.vecCvt p st b) := ⟨.vecCvt 0 0 0, rfl, by decide⟩
theorem vecMove (p : Nat) (st : Nat) (b : Nat) : Statement (.vecMove p st b) := ⟨.vecMove 0 0 0, rfl, by decide⟩
theorem vecComplete (p : Nat) : Statement (.vecComplete p) := ⟨.vecComplete 0, rfl, by decide⟩
theorem dmaSubmit (p : Nat) (st : Nat) (b : Nat) : Statement (.dmaSubmit p st b) := ⟨.dmaSubmit 0 0 0, rfl, by decide⟩
theorem dmaDescStart (p : Nat) (c : Nat) (j : Nat) : Statement (.dmaDescStart p c j) := ⟨.dmaDescStart 0 0 0, rfl, by decide⟩
theorem dmaDescComplete (p : Nat) (c : Nat) (j : Nat) : Statement (.dmaDescComplete p c j) := ⟨.dmaDescComplete 0 0 0, rfl, by decide⟩
theorem dmaDescFail (p : Nat) (c : Nat) (j : Nat) : Statement (.dmaDescFail p c j) := ⟨.dmaDescFail 0 0 0, rfl, by decide⟩
theorem clStreamCtlResume (rid : Nat) (l : Nat) (st : Nat) (pc : Nat) : Statement (.clStreamCtlResume rid l st pc) := ⟨.clStreamCtlResume 0 0 0 0, rfl, by decide⟩
theorem clStreamCtlStop (rid : Nat) (l : Nat) (st : Nat) : Statement (.clStreamCtlStop rid l st) := ⟨.clStreamCtlStop 0 0 0, rfl, by decide⟩
theorem clSemWrite (rid : Nat) (l : Nat) (sem : Nat) (v : Nat) : Statement (.clSemWrite rid l sem v) := ⟨.clSemWrite 0 0 0 0, rfl, by decide⟩
theorem dmaCtxClrWrite (rid : Nat) (l : Nat) (mask : Nat) : Statement (.dmaCtxClrWrite rid l mask) := ⟨.dmaCtxClrWrite 0 0 0, rfl, by decide⟩
theorem streamStatus (rid : Nat) (l : Nat) (a0 : Nat) : Statement (.streamStatus rid l a0) := ⟨.streamStatus 0 0 0, rfl, by decide⟩
theorem streamResume (rid : Nat) (l : Nat) (a0 : Nat) (a1 : Nat) : Statement (.streamResume rid l a0 a1) := ⟨.streamResume 0 0 0 0, rfl, by decide⟩
theorem streamStop (rid : Nat) (l : Nat) (a0 : Nat) : Statement (.streamStop rid l a0) := ⟨.streamStop 0 0 0, rfl, by decide⟩
theorem ctxClear (rid : Nat) (l : Nat) (a0 : Nat) : Statement (.ctxClear rid l a0) := ⟨.ctxClear 0 0 0, rfl, by decide⟩
theorem mbxSemSet (rid : Nat) (l : Nat) (a0 : Nat) (a1 : Nat) : Statement (.mbxSemSet rid l a0 a1) := ⟨.mbxSemSet 0 0 0 0, rfl, by decide⟩
theorem clErrRead (rid : Nat) (l : Nat) : Statement (.clErrRead rid l) := ⟨.clErrRead 0 0, rfl, by decide⟩
theorem spmAccess (p : Nat) (reqs : List SpmReq) (ecc : Nat) (ew : Nat) : Statement (.spmAccess p reqs ecc ew) := ⟨.spmAccess 0 [] 0 0, rfl, by decide⟩
theorem eccWriteback (p : Nat) (word : Nat) : Statement (.eccWriteback p word) := ⟨.eccWriteback 0 0, rfl, by decide⟩
theorem scrubRead (p : Nat) (bank : Nat) (ecc : Nat) (ew : Nat) (displaced : List Nat) : Statement (.scrubRead p bank ecc ew displaced) := ⟨.scrubRead 0 0 0 0 [], rfl, by decide⟩
theorem rangeClose (rid : Nat) (l : Nat) (mask : Nat) : Statement (.rangeClose rid l mask) := ⟨.rangeClose 0 0 0, rfl, by decide⟩
theorem rangeOpen (rid : Nat) (l : Nat) (mask : Nat) : Statement (.rangeOpen rid l mask) := ⟨.rangeOpen 0 0 0, rfl, by decide⟩
theorem rangeOff (rid : Nat) (l : Nat) (mask : Nat) : Statement (.rangeOff rid l mask) := ⟨.rangeOff 0 0 0, rfl, by decide⟩
theorem rangeOn (rid : Nat) (l : Nat) (mask : Nat) : Statement (.rangeOn rid l mask) := ⟨.rangeOn 0 0 0, rfl, by decide⟩
theorem rangePowerDown (p : Nat) (k : Nat) : Statement (.rangePowerDown p k) := ⟨.rangePowerDown 0 0, rfl, by decide⟩
theorem rangeOnComplete (p : Nat) (k : Nat) : Statement (.rangeOnComplete p k) := ⟨.rangeOnComplete 0 0, rfl, by decide⟩
theorem windowAccess (src : Source) (tag : Nat) (l : Nat) (w : Nat) (gen : Nat) (off : Nat) (size : Nat) (write : Bool) (data : List Byte) : Statement (.windowAccess src tag l w gen off size write data) := ⟨.windowAccess ⟨0, 0, 0, false, 0⟩ 0 0 0 0 0 0 false [], rfl, by decide⟩
theorem spmAddrAccess (src : Source) (tag : Nat) (l : Nat) (off : Nat) (size : Nat) (write : Bool) (data : List Byte) : Statement (.spmAddrAccess src tag l off size write data) := ⟨.spmAddrAccess ⟨0, 0, 0, false, 0⟩ 0 0 0 0 false [], rfl, by decide⟩
theorem winOpenWrite (rid : Nat) (l : Nat) (mask : Nat) : Statement (.winOpenWrite rid l mask) := ⟨.winOpenWrite 0 0 0, rfl, by decide⟩
theorem winCloseWrite (rid : Nat) (l : Nat) (mask : Nat) : Statement (.winCloseWrite rid l mask) := ⟨.winCloseWrite 0 0 0, rfl, by decide⟩
theorem windowDrained (p : Nat) (w : Nat) : Statement (.windowDrained p w) := ⟨.windowDrained 0 0, rfl, by decide⟩
theorem winOpen (rid : Nat) (l : Nat) (a0 : Nat) (a1 : Nat) (a2 : Nat) : Statement (.winOpen rid l a0 a1 a2) := ⟨.winOpen 0 0 0 0 0, rfl, by decide⟩
theorem winClose (rid : Nat) (l : Nat) (a0 : Nat) : Statement (.winClose rid l a0) := ⟨.winClose 0 0 0, rfl, by decide⟩
theorem winStatus (rid : Nat) (l : Nat) (a0 : Nat) : Statement (.winStatus rid l a0) := ⟨.winStatus 0 0 0, rfl, by decide⟩
theorem rangeSet (rid : Nat) (l : Nat) (a0 : Nat) (a1 : Nat) : Statement (.rangeSet rid l a0 a1) := ⟨.rangeSet 0 0 0 0, rfl, by decide⟩
theorem eccRead (rid : Nat) (l : Nat) : Statement (.eccRead rid l) := ⟨.eccRead 0 0, rfl, by decide⟩
theorem meshPacketInject (p : Nat) (dst : Nat) (vc : Nat) (flits : Nat) (tag : Nat) : Statement (.meshPacketInject p dst vc flits tag) := ⟨.meshPacketInject 0 0 0 1 0, rfl, by decide⟩
theorem meshFlitRetry (p : Nat) (port : Nat) (again : Bool) : Statement (.meshFlitRetry p port again) := ⟨.meshFlitRetry 0 0 false, rfl, by decide⟩
theorem responderRefuse (p : Nat) (kind : Nat) (tag : Nat) : Statement (.responderRefuse p kind tag) := ⟨.responderRefuse 0 0 0, rfl, by decide⟩
theorem meshRequestTimeout (p : Nat) (tag : Nat) : Statement (.meshRequestTimeout p tag) := ⟨.meshRequestTimeout 0 0, rfl, by decide⟩
theorem landingHandshakeEnter (p : Nat) (port : Nat) (offset : Nat) : Statement (.landingHandshakeEnter p port offset) := ⟨.landingHandshakeEnter 0 0 0, rfl, by decide⟩
theorem landingRecentre (p : Nat) (port : Nat) (offset : Nat) : Statement (.landingRecentre p port offset) := ⟨.landingRecentre 0 0 0, rfl, by decide⟩
theorem detourWrite (rid : Nat) (l : Nat) (e : Nat) (v : Nat) : Statement (.detourWrite rid l e v) := ⟨.detourWrite 0 0 0 0, rfl, by decide⟩
theorem rtrCommitArm (rid : Nat) (l : Nat) (beat : Nat) : Statement (.rtrCommitArm rid l beat) := ⟨.rtrCommitArm 0 0 0, rfl, by decide⟩
theorem rtrCommit (p : Nat) (b : Nat) : Statement (.rtrCommit p b) := ⟨.rtrCommit 0 0, rfl, by decide⟩
theorem mapChange (b : Nat) : Statement (.mapChange b) := ⟨.mapChange 0, rfl, by decide⟩
theorem distPublish : Statement (.distPublish) := ⟨.distPublish, rfl, by decide⟩
theorem hbmRead (req : Nat) (a : Nat) (size : Nat) : Statement (.hbmRead req a size) := ⟨.hbmRead 0 0 0, rfl, by decide⟩
theorem hbmReadData (a : Nat) (sev : Nat) : Statement (.hbmReadData a sev) := ⟨.hbmReadData 0 0, rfl, by decide⟩
theorem combineExpire (a : Nat) : Statement (.combineExpire a) := ⟨.combineExpire 0, rfl, by decide⟩
theorem hbmWrite (req : Nat) (a : Nat) (data : List Byte) : Statement (.hbmWrite req a data) := ⟨.hbmWrite 0 0 [], rfl, by decide⟩
theorem parityDelta (a : Nat) : Statement (.parityDelta a) := ⟨.parityDelta 0, rfl, by decide⟩
theorem parityAck (a : Nat) : Statement (.parityAck a) := ⟨.parityAck 0, rfl, by decide⟩
theorem lineReconstruct (a : Nat) : Statement (.lineReconstruct a) := ⟨.lineReconstruct 0, rfl, by decide⟩
theorem refresh (n : Nat) (pc : Nat) : Statement (.refresh n pc) := ⟨.refresh 0 0, rfl, by decide⟩
theorem dramTempRead (n : Nat) (t : Nat) : Statement (.dramTempRead n t) := ⟨.dramTempRead 0 0, rfl, by decide⟩
theorem msdFail (n : Nat) (why : Nat) : Statement (.msdFail n why) := ⟨.msdFail 0 0, rfl, by decide⟩
theorem proxyInstall (n : Nat) (b : Nat) : Statement (.proxyInstall n b) := ⟨.proxyInstall 0 0, rfl, by decide⟩
theorem rebuildComplete (n : Nat) (b : Nat) : Statement (.rebuildComplete n b) := ⟨.rebuildComplete 0 0, rfl, by decide⟩
theorem patrolScrub (n : Nat) (o : Nat) (sev : Nat) : Statement (.patrolScrub n o sev) := ⟨.patrolScrub 0 0 0, rfl, by decide⟩
theorem engineDoorbell (src : Source) (n : Nat) (q : Nat) (idx : Nat) : Statement (.engineDoorbell src n q idx) := ⟨.engineDoorbell ⟨0, 0, 0, false, 0⟩ 0 0 0, rfl, by decide⟩
theorem seCommandStart (n : Nat) (q : Nat) : Statement (.seCommandStart n q) := ⟨.seCommandStart 0 0, rfl, by decide⟩
theorem seNop (n : Nat) (q : Nat) : Statement (.seNop n q) := ⟨.seNop 0 0, rfl, by decide⟩
theorem seAttn (n : Nat) (q : Nat) : Statement (.seAttn n q) := ⟨.seAttn 0 0, rfl, by decide⟩
theorem seGather (n : Nat) (q : Nat) : Statement (.seGather n q) := ⟨.seGather 0 0, rfl, by decide⟩
theorem seTopk (n : Nat) (q : Nat) : Statement (.seTopk n q) := ⟨.seTopk 0 0, rfl, by decide⟩
theorem seDigest (n : Nat) (q : Nat) : Statement (.seDigest n q) := ⟨.seDigest 0 0, rfl, by decide⟩
theorem seFence (n : Nat) (q : Nat) : Statement (.seFence n q) := ⟨.seFence 0 0, rfl, by decide⟩
theorem seCommandComplete (n : Nat) (q : Nat) : Statement (.seCommandComplete n q) := ⟨.seCommandComplete 0 0, rfl, by decide⟩
theorem slotApplyWrite (rid : Nat) (n : Nat) (wc : Nat) : Statement (.slotApplyWrite rid n wc) := ⟨.slotApplyWrite 0 0 0, rfl, by decide⟩
theorem slotTableSwitch (n : Nat) : Statement (.slotTableSwitch n) := ⟨.slotTableSwitch 0, rfl, by decide⟩
theorem msdStatus (rid : Nat) (n : Nat) : Statement (.msdStatus rid n) := ⟨.msdStatus 0 0, rfl, by decide⟩
theorem offline (rid : Nat) (n : Nat) : Statement (.offline rid n) := ⟨.offline 0 0, rfl, by decide⟩
theorem online (rid : Nat) (n : Nat) : Statement (.online rid n) := ⟨.online 0 0, rfl, by decide⟩
theorem queueClear (rid : Nat) (n : Nat) (q : Nat) : Statement (.queueClear rid n q) := ⟨.queueClear 0 0 0, rfl, by decide⟩
theorem parityMode (rid : Nat) (n : Nat) (on : Nat) : Statement (.parityMode rid n on) := ⟨.parityMode 0 0 0, rfl, by decide⟩
theorem msdErrRead (rid : Nat) (n : Nat) : Statement (.msdErrRead rid n) := ⟨.msdErrRead 0 0, rfl, by decide⟩
theorem imageLoad (rid : Nat) (a0 : Nat) (a1 : Nat) : Statement (.imageLoad rid a0 a1) := ⟨.imageLoad 0 0 0, rfl, by decide⟩
theorem admissionComplete (bad : List Nat) : Statement (.admissionComplete bad) := ⟨.admissionComplete [], rfl, by decide⟩
theorem imageDiscard (rid : Nat) : Statement (.imageDiscard rid) := ⟨.imageDiscard 0, rfl, by decide⟩
theorem imageSwitch (rid : Nat) (a0 : Nat) : Statement (.imageSwitch rid a0) := ⟨.imageSwitch 0 0, rfl, by decide⟩
theorem calCancel (rid : Nat) : Statement (.calCancel rid) := ⟨.calCancel 0, rfl, by decide⟩
theorem imageRollback (rid : Nat) (a0 : Nat) : Statement (.imageRollback rid a0) := ⟨.imageRollback 0 0, rfl, by decide⟩
theorem confirm (rid : Nat) : Statement (.confirm rid) := ⟨.confirm 0, rfl, by decide⟩
theorem healthFail (rid : Nat) : Statement (.healthFail rid) := ⟨.healthFail 0, rfl, by decide⟩
theorem releasePrevious (rid : Nat) : Statement (.releasePrevious rid) := ⟨.releasePrevious 0, rfl, by decide⟩
theorem storeBoot (rid : Nat) (a0 : Nat) : Statement (.storeBoot rid a0) := ⟨.storeBoot 0 0, rfl, by decide⟩
theorem calStatus (rid : Nat) : Statement (.calStatus rid) := ⟨.calStatus 0, rfl, by decide⟩
theorem switchStopBeat (b : Nat) : Statement (.switchStopBeat b) := ⟨.switchStopBeat 0, rfl, by decide⟩
theorem switchDrained : Statement (.switchDrained) := ⟨.switchDrained, rfl, by decide⟩
theorem switchActivationStart (b : Nat) (bad : List Nat) : Statement (.switchActivationStart b bad) := ⟨.switchActivationStart 0 [], rfl, by decide⟩
theorem switchBeat (b : Nat) : Statement (.switchBeat b) := ⟨.switchBeat 0, rfl, by decide⟩
theorem watchEnd (b : Nat) : Statement (.watchEnd b) := ⟨.watchEnd 0, rfl, by decide⟩
theorem watchFail (c : Nat) (b : Nat) : Statement (.watchFail c b) := ⟨.watchFail 0 0, rfl, by decide⟩
theorem escMarker (leaf : Nat) (behind : Nat) (ahead : Nat) : Statement (.escMarker leaf behind ahead) := ⟨.escMarker 0 0 0, rfl, by decide⟩
theorem alignExchange (b : Nat) : Statement (.alignExchange b) := ⟨.alignExchange 0, rfl, by decide⟩
theorem alignLost (b : Nat) : Statement (.alignLost b) := ⟨.alignLost 0, rfl, by decide⟩
theorem trigCtlArm (rid : Nat) (t : Nat) (action : Nat) : Statement (.trigCtlArm rid t action) := ⟨.trigCtlArm 0 0 0, rfl, by decide⟩
theorem triggerFire (t : Nat) (b : Nat) : Statement (.triggerFire t b) := ⟨.triggerFire 0 0, rfl, by decide⟩
theorem escNow (rid : Nat) : Statement (.escNow rid) := ⟨.escNow 0, rfl, by decide⟩
theorem alignStatus (rid : Nat) : Statement (.alignStatus rid) := ⟨.alignStatus 0, rfl, by decide⟩
theorem trigArm (rid : Nat) (a0 : Nat) (a1 : Nat) (a2 : Nat) : Statement (.trigArm rid a0 a1 a2) := ⟨.trigArm 0 0 0 0, rfl, by decide⟩
theorem trigCancel (rid : Nat) (a0 : Nat) : Statement (.trigCancel rid a0) := ⟨.trigCancel 0 0, rfl, by decide⟩
theorem escFaultRead (rid : Nat) : Statement (.escFaultRead rid) := ⟨.escFaultRead 0, rfl, by decide⟩
theorem intakeDescriptor (r : Nat) : Statement (.intakeDescriptor r) := ⟨.intakeDescriptor 0, rfl, by decide⟩
theorem reqSubmit : Statement (.reqSubmit) := ⟨.reqSubmit, rfl, by decide⟩
theorem reqCancel : Statement (.reqCancel) := ⟨.reqCancel, rfl, by decide⟩
theorem stepBoundary (b : Nat) : Statement (.stepBoundary b) := ⟨.stepBoundary 0, rfl, by decide⟩
theorem waitLimitTimeout (b : Nat) : Statement (.waitLimitTimeout b) := ⟨.waitLimitTimeout 0, rfl, by decide⟩
theorem answerRecordWrite (ring : Nat) (id : Nat) : Statement (.answerRecordWrite ring id) := ⟨.answerRecordWrite 0 0, rfl, by decide⟩
theorem answerFlushTimeout (ring : Nat) (id : Nat) (b : Nat) : Statement (.answerFlushTimeout ring id b) := ⟨.answerFlushTimeout 0 0 0, rfl, by decide⟩
theorem answerIndexWrite (ans : Nat) : Statement (.answerIndexWrite ans) := ⟨.answerIndexWrite 0, rfl, by decide⟩
theorem answerStallTimeout (ring : Nat) (id : Nat) (b : Nat) : Statement (.answerStallTimeout ring id b) := ⟨.answerStallTimeout 0 0 0, rfl, by decide⟩
theorem coreFail (k : Nat) : Statement (.coreFail k) := ⟨.coreFail 0, rfl, by decide⟩
theorem admitCtlWrite (rid : Nat) (on : Nat) : Statement (.admitCtlWrite rid on) := ⟨.admitCtlWrite 0 0, rfl, by decide⟩
theorem ringOpen (rid : Nat) (a0 : Nat) (a1 : Nat) (a2 : Nat) (a3 : Nat) : Statement (.ringOpen rid a0 a1 a2 a3) := ⟨.ringOpen 0 0 0 0 0, rfl, by decide⟩
theorem ringClose (rid : Nat) (a0 : Nat) (a1 : Nat) : Statement (.ringClose rid a0 a1) := ⟨.ringClose 0 0 0, rfl, by decide⟩
theorem ringStatus (rid : Nat) (a0 : Nat) (a1 : Nat) : Statement (.ringStatus rid a0 a1) := ⟨.ringStatus 0 0 0, rfl, by decide⟩
theorem tokLoad (rid : Nat) (a0 : Nat) (a1 : Nat) (a2 : Nat) : Statement (.tokLoad rid a0 a1 a2) := ⟨.tokLoad 0 0 0 0, rfl, by decide⟩
theorem tokUnload (rid : Nat) (a0 : Nat) : Statement (.tokUnload rid a0) := ⟨.tokUnload 0 0, rfl, by decide⟩
theorem svcCancel (rid : Nat) (a0 : Nat) (a1 : Nat) : Statement (.svcCancel rid a0 a1) := ⟨.svcCancel 0 0 0, rfl, by decide⟩
theorem reqStatus (rid : Nat) (a0 : Nat) (a1 : Nat) : Statement (.reqStatus rid a0 a1) := ⟨.reqStatus 0 0 0, rfl, by decide⟩
theorem svcAdmit (rid : Nat) (a0 : Nat) : Statement (.svcAdmit rid a0) := ⟨.svcAdmit 0 0, rfl, by decide⟩
theorem prefixFlush (rid : Nat) : Statement (.prefixFlush rid) := ⟨.prefixFlush 0, rfl, by decide⟩
theorem svcStats (rid : Nat) : Statement (.svcStats rid) := ⟨.svcStats 0, rfl, by decide⟩
theorem serPortTrain (port : Nat) (width : Nat) (rate : Nat) (reversed : Nat) : Statement (.serPortTrain port width rate reversed) := ⟨.serPortTrain 0 0 0 0, rfl, by decide⟩
theorem serInitFlit (port : Nat) (version : Nat) (flags : Nat) (node : Nat) (req : Nat) (snp : Nat) (data : Nat) : Statement (.serInitFlit port version flags node req snp data) := ⟨.serInitFlit 0 0 0 0 0 0 0, rfl, by decide⟩
theorem serPortDown (port : Nat) : Statement (.serPortDown port) := ⟨.serPortDown 0, rfl, by decide⟩
theorem serProtocolError (port : Nat) : Statement (.serProtocolError port) := ⟨.serProtocolError 0, rfl, by decide⟩
theorem rdShared (port : Nat) (tag : Nat) (line : Nat) : Statement (.rdShared port tag line) := ⟨.rdShared 0 0 0, rfl, by decide⟩
theorem rdOwn (port : Nat) (tag : Nat) (line : Nat) : Statement (.rdOwn port tag line) := ⟨.rdOwn 0 0 0, rfl, by decide⟩
theorem upgrade (port : Nat) (tag : Nat) (line : Nat) : Statement (.upgrade port tag line) := ⟨.upgrade 0 0 0, rfl, by decide⟩
theorem evictDirty (port : Nat) (tag : Nat) (line : Nat) (data : List Byte) : Statement (.evictDirty port tag line data) := ⟨.evictDirty 0 0 0 (List.replicate 64 0), rfl, by decide⟩
theorem evictClean (port : Nat) (tag : Nat) (line : Nat) : Statement (.evictClean port tag line) := ⟨.evictClean 0 0 0, rfl, by decide⟩
theorem rdNc (port : Nat) (tag : Nat) (src : Nat) (a : Nat) (lg : Nat) : Statement (.rdNc port tag src a lg) := ⟨.rdNc 0 0 0 0 2, rfl, by decide⟩
theorem wrLine (port : Nat) (tag : Nat) (src : Nat) (line : Nat) (data : List Byte) : Statement (.wrLine port tag src line data) := ⟨.wrLine 0 0 0 0 (List.replicate 64 0), rfl, by decide⟩
theorem wrPart (port : Nat) (tag : Nat) (src : Nat) (line : Nat) (mask : Nat) (data : List Byte) : Statement (.wrPart port tag src line mask data) := ⟨.wrPart 0 0 0 0 0 (List.replicate 64 0), rfl, by decide⟩
theorem cmp (port : Nat) (tag : Nat) : Statement (.cmp port tag) := ⟨.cmp 0 0, rfl, by decide⟩
theorem cmpData (port : Nat) (tag : Nat) (state : Nat) (data : List Byte) : Statement (.cmpData port tag state data) := ⟨.cmpData 0 0 0 (List.replicate 64 0), rfl, by decide⟩
theorem errResponse (port : Nat) (tag : Nat) (status : Nat) : Statement (.errResponse port tag status) := ⟨.errResponse 0 0 0, rfl, by decide⟩
theorem snpAck (port : Nat) (tag : Nat) (line : Nat) (state : Nat) : Statement (.snpAck port tag line state) := ⟨.snpAck 0 0 0 0, rfl, by decide⟩
theorem snpData (port : Nat) (tag : Nat) (line : Nat) (state : Nat) (data : List Byte) : Statement (.snpData port tag line state data) := ⟨.snpData 0 0 0 0 (List.replicate 64 0), rfl, by decide⟩
theorem snpInv (port : Nat) (tag : Nat) (line : Nat) : Statement (.snpInv port tag line) := ⟨.snpInv 0 0 0, rfl, by decide⟩
theorem snpShare (port : Nat) (tag : Nat) (line : Nat) : Statement (.snpShare port tag line) := ⟨.snpShare 0 0 0, rfl, by decide⟩
theorem homeAgentAccess (src : Source) (tag : Nat) (a : Nat) (size : Nat) (write : Bool) (data : List Byte) : Statement (.homeAgentAccess src tag a size write data) := ⟨.homeAgentAccess ⟨0, 0, 0, false, 0⟩ 0 0 0 false [], rfl, by decide⟩
theorem serRequestTimeout (port : Nat) (tag : Nat) : Statement (.serRequestTimeout port tag) := ⟨.serRequestTimeout 0 0, rfl, by decide⟩
theorem snoopEvictTimeout (line : Nat) : Statement (.snoopEvictTimeout line) := ⟨.snoopEvictTimeout 0, rfl, by decide⟩
theorem ownStand (rid : Nat) (prio : Nat) (b : Nat) : Statement (.ownStand rid prio b) := ⟨.ownStand 0 0 0, rfl, by decide⟩
theorem ownWithdraw (rid : Nat) (b : Nat) : Statement (.ownWithdraw rid b) := ⟨.ownWithdraw 0 0, rfl, by decide⟩
theorem ownRenew (rid : Nat) (b : Nat) : Statement (.ownRenew rid b) := ⟨.ownRenew 0 0, rfl, by decide⟩
theorem ownResign (rid : Nat) (b : Nat) : Statement (.ownResign rid b) := ⟨.ownResign 0 0, rfl, by decide⟩
theorem ownOffer (rid : Nat) (cand : Nat) (b : Nat) : Statement (.ownOffer rid cand b) := ⟨.ownOffer 0 0 0, rfl, by decide⟩
theorem ownAccept (rid : Nat) (b : Nat) : Statement (.ownAccept rid b) := ⟨.ownAccept 0 0, rfl, by decide⟩
theorem electionClose (b : Nat) : Statement (.electionClose b) := ⟨.electionClose 0, rfl, by decide⟩
theorem leaseEnd (b : Nat) : Statement (.leaseEnd b) := ⟨.leaseEnd 0, rfl, by decide⟩
theorem offerExpire (b : Nat) : Statement (.offerExpire b) := ⟨.offerExpire 0, rfl, by decide⟩
theorem serCohWrite (rid : Nat) (v : Nat) : Statement (.serCohWrite rid v) := ⟨.serCohWrite 0 0, rfl, by decide⟩
theorem grantWrite (rid : Nat) (g : Nat) (v : Nat) : Statement (.grantWrite rid g v) := ⟨.grantWrite 0 0 0, rfl, by decide⟩
theorem portStatus (rid : Nat) (p : Nat) : Statement (.portStatus rid p) := ⟨.portStatus 0 0, rfl, by decide⟩
theorem detach (rid : Nat) (p : Nat) : Statement (.detach rid p) := ⟨.detach 0 0, rfl, by decide⟩
theorem attach (rid : Nat) (p : Nat) : Statement (.attach rid p) := ⟨.attach 0 0, rfl, by decide⟩
theorem attachTimeout (b : Nat) : Statement (.attachTimeout b) := ⟨.attachTimeout 0, rfl, by decide⟩
theorem ownerStatus (rid : Nat) : Statement (.ownerStatus rid) := ⟨.ownerStatus 0, rfl, by decide⟩
theorem filterStatus (rid : Nat) : Statement (.filterStatus rid) := ⟨.filterStatus 0, rfl, by decide⟩
theorem fabHello (lg : Nat) (lane : Nat) (dev : Nat) (plg : Nat) (plane : Nat) (role : Nat) (n : Nat) (g : Nat) : Statement (.fabHello lg lane dev plg plane role n g) := ⟨.fabHello 0 0 0 0 0 0 0 0, rfl, by decide⟩
theorem helloSendTick : Statement (.helloSendTick) := ⟨.helloSendTick, rfl, by decide⟩
theorem linkAbsentTimeout : Statement (.linkAbsentTimeout) := ⟨.linkAbsentTimeout, rfl, by decide⟩
theorem ctrlMembers (h : FabHead) (mask : Nat) : Statement (.ctrlMembers h mask) := ⟨.ctrlMembers ⟨8, 2, 0, 0, 0, 0, 0, 0, 0, 0, 0, 0, 0, 0, 0, 0⟩ 0, rfl, by decide⟩
theorem ctrlGroups (h : FabHead) (mask : Nat) : Statement (.ctrlGroups h mask) := ⟨.ctrlGroups ⟨8, 2, 0, 0, 0, 0, 0, 0, 0, 0, 0, 0, 0, 0, 0, 0⟩ 0, rfl, by decide⟩
theorem fabWrite (h : FabHead) (cl : Nat) (data : List Byte) : Statement (.fabWrite h cl data) := ⟨.fabWrite ⟨1, 0, 0, 0, 0, 0, 0, 0, 0, 0, 0, 0, 0, 0, 0, 0⟩ 0 [], rfl, by decide⟩
theorem fabSignal (h : FabHead) : Statement (.fabSignal h) := ⟨.fabSignal ⟨2, 0, 0, 0, 0, 0, 0, 0, 0, 0, 0, 0, 0, 0, 0, 0⟩, rfl, by decide⟩
theorem fabAck (h : FabHead) : Statement (.fabAck h) := ⟨.fabAck ⟨3, 0, 0, 0, 0, 0, 0, 0, 0, 0, 0, 0, 0, 0, 0, 0⟩, rfl, by decide⟩
theorem fabNak (h : FabHead) : Statement (.fabNak h) := ⟨.fabNak ⟨4, 0, 0, 0, 0, 0, 0, 0, 0, 0, 0, 0, 0, 0, 0, 0⟩, rfl, by decide⟩
theorem fabAckTick : Statement (.fabAckTick) := ⟨.fabAckTick, rfl, by decide⟩
theorem e2eRetryTimeout (dev : Nat) (ch : Nat) : Statement (.e2eRetryTimeout dev ch) := ⟨.e2eRetryTimeout 0 0, rfl, by decide⟩
theorem fabFlitRetry (lg : Nat) (n : Nat) (again : Bool) : Statement (.fabFlitRetry lg n again) := ⟨.fabFlitRetry 0 0 false, rfl, by decide⟩
theorem fabCollPacket (h : FabHead) (data : List Byte) : Statement (.fabCollPacket h data) := ⟨.fabCollPacket ⟨5, 1, 0, 0, 0, 0, 0, 0, 0, 0, 0, 0, 0, 0, 0, 0⟩ [], rfl, by decide⟩
theorem fabBarrier (h : FabHead) : Statement (.fabBarrier h) := ⟨.fabBarrier ⟨6, 2, 0, 0, 0, 0, 0, 0, 0, 0, 0, 0, 0, 0, 0, 0⟩, rfl, by decide⟩
theorem fabRelease (h : FabHead) : Statement (.fabRelease h) := ⟨.fabRelease ⟨7, 2, 0, 0, 0, 0, 0, 0, 0, 0, 0, 0, 0, 0, 0, 0⟩, rfl, by decide⟩
theorem fabTime (h : FabHead) (t1 : Nat) (t2 : Nat) (t3 : Nat) (answer : Bool) : Statement (.fabTime h t1 t2 t3 answer) := ⟨.fabTime ⟨0xA, 2, 0, 0, 0, 0, 0, 0, 0, 0, 0, 0, 0, 0, 0, 0⟩ 0 0 0 false, rfl, by decide⟩
theorem fabAnswer (h : FabHead) (data : List Byte) : Statement (.fabAnswer h data) := ⟨.fabAnswer ⟨11, 0, 0, 0, 0, 0, 0, 0, 0, 0, 0, 0, 0, 0, 0, 0⟩ [], rfl, by decide⟩
theorem ctrlHeartbeat (h : FabHead) (gen : Nat) (aligned : Nat) : Statement (.ctrlHeartbeat h gen aligned) := ⟨.ctrlHeartbeat ⟨8, 2, 0, 0, 0, 0, 0, 0, 0, 0, 0, 0, 0, 0, 0, 0⟩ 0 0, rfl, by decide⟩
theorem heartbeatTick : Statement (.heartbeatTick) := ⟨.heartbeatTick, rfl, by decide⟩
theorem memberLost (t : Nat) (b : Nat) : Statement (.memberLost t b) := ⟨.memberLost 0 0, rfl, by decide⟩
theorem ctrlDigest (h : FabHead) (set : Nat) (gen : Nat) (step : Nat) (value : List Byte) : Statement (.ctrlDigest h set gen step value) := ⟨.ctrlDigest ⟨8, 2, 0, 0, 0, 0, 0, 0, 0, 0, 0, 0, 0, 0, 0, 0⟩ 0 0 0 [], rfl, by decide⟩
theorem digestReport (b : Nat) : Statement (.digestReport b) := ⟨.digestReport 0, rfl, by decide⟩
theorem digestCompare (set : Nat) (gen : Nat) (step : Nat) (b : Nat) : Statement (.digestCompare set gen step b) := ⟨.digestCompare 0 0 0 0, rfl, by decide⟩
theorem ctrlExpel (h : FabHead) (expel : Bool) (fails : List Nat) (rb : Nat) : Statement (.ctrlExpel h expel fails rb) := ⟨.ctrlExpel ⟨8, 2, 0, 0, 0, 0, 0, 0, 0, 0, 0, 0, 0, 0, 0, 0⟩ false [] 0, rfl, by decide⟩
theorem ctrlSwitch (h : FabHead) (op : Nat) (gen : Nat) (beat : Nat) : Statement (.ctrlSwitch h op gen beat) := ⟨.ctrlSwitch ⟨8, 2, 0, 0, 0, 0, 0, 0, 0, 0, 0, 0, 0, 0, 0, 0⟩ 0 0 0, rfl, by decide⟩
theorem ctrlSwitchAck (h : FabHead) (status : Nat) (gen : Nat) : Statement (.ctrlSwitchAck h status gen) := ⟨.ctrlSwitchAck ⟨8, 2, 0, 0, 0, 0, 0, 0, 0, 0, 0, 0, 0, 0, 0, 0⟩ 0 0, rfl, by decide⟩
theorem ctrlCollFail (h : FabHead) (id : Nat) (cause : Nat) : Statement (.ctrlCollFail h id cause) := ⟨.ctrlCollFail ⟨8, 2, 0, 0, 0, 0, 0, 0, 0, 0, 0, 0, 0, 0, 0, 0⟩ 0 0, rfl, by decide⟩
theorem routeRequest (ring : Nat) (log2n : Nat) (area : Nat) : Statement (.routeRequest ring log2n area) := ⟨.routeRequest 0 0 0, rfl, by decide⟩
theorem laneFail (lg : Nat) (lane : Nat) : Statement (.laneFail lg lane) := ⟨.laneFail 0 0, rfl, by decide⟩
theorem relayInstall (dev : Nat) (up : List Nat) : Statement (.relayInstall dev up) := ⟨.relayInstall 0 [], rfl, by decide⟩
theorem collDoorbellPoll : Statement (.collDoorbellPoll) := ⟨.collDoorbellPoll, rfl, by decide⟩
theorem collAllReduce (q : Nat) : Statement (.collAllReduce q) := ⟨.collAllReduce 0, rfl, by decide⟩
theorem collReduceScatter (q : Nat) : Statement (.collReduceScatter q) := ⟨.collReduceScatter 0, rfl, by decide⟩
theorem collAllGather (q : Nat) : Statement (.collAllGather q) := ⟨.collAllGather 0, rfl, by decide⟩
theorem collBroadcast (q : Nat) : Statement (.collBroadcast q) := ⟨.collBroadcast 0, rfl, by decide⟩
theorem collBarrier (q : Nat) : Statement (.collBarrier q) := ⟨.collBarrier 0, rfl, by decide⟩
theorem collComplete (q : Nat) : Statement (.collComplete q) := ⟨.collComplete 0, rfl, by decide⟩
theorem lgStatus (rid : Nat) (d : Nat) (a0 : Nat) : Statement (.lgStatus rid d a0) := ⟨.lgStatus 0 0 0, rfl, by decide⟩
theorem fabErrRead (rid : Nat) (d : Nat) : Statement (.fabErrRead rid d) := ⟨.fabErrRead 0 0, rfl, by decide⟩
theorem collClear (rid : Nat) (d : Nat) (q : Nat) : Statement (.collClear rid d q) := ⟨.collClear 0 0 0, rfl, by decide⟩
theorem groupSwitch (rid : Nat) (d : Nat) (a0 : Nat) (a1 : Nat) : Statement (.groupSwitch rid d a0 a1) := ⟨.groupSwitch 0 0 0 0, rfl, by decide⟩
theorem groupRollback (rid : Nat) (d : Nat) (a0 : Nat) : Statement (.groupRollback rid d a0) := ⟨.groupRollback 0 0 0, rfl, by decide⟩
theorem fabExpel (rid : Nat) (d : Nat) (a0 : Nat) : Statement (.fabExpel rid d a0) := ⟨.fabExpel 0 0 0, rfl, by decide⟩
theorem rejoin (rid : Nat) (d : Nat) (a0 : Nat) : Statement (.rejoin rid d a0) := ⟨.rejoin 0 0 0, rfl, by decide⟩
theorem fabMembersStatus (rid : Nat) (d : Nat) : Statement (.fabMembersStatus rid d) := ⟨.fabMembersStatus 0 0, rfl, by decide⟩
theorem phaseLost (g : Nat) (phase : Nat) : Statement (.phaseLost g phase) := ⟨.phaseLost 0 0, rfl, by decide⟩
theorem crackDetect (g : Nat) (excess : Nat) (b : Nat) : Statement (.crackDetect g excess b) := ⟨.crackDetect 0 0 0, rfl, by decide⟩
theorem crackPersist (g : Nat) (b : Nat) : Statement (.crackPersist g b) := ⟨.crackPersist 0 0, rfl, by decide⟩
theorem shortDetect (g : Nat) : Statement (.shortDetect g) := ⟨.shortDetect 0, rfl, by decide⟩
theorem efuseOpen (g : Nat) : Statement (.efuseOpen g) := ⟨.efuseOpen 0, rfl, by decide⟩
theorem capTick (p10 : Nat) (vin : Nat) (iin : Nat) (b : Nat) : Statement (.capTick p10 vin iin b) := ⟨.capTick 0 0 0 0, rfl, by decide⟩
theorem galleryCurrentTick (g : Nat) (iout : Nat) (low : Bool) : Statement (.galleryCurrentTick g iout low) := ⟨.galleryCurrentTick 0 0 false, rfl, by decide⟩
theorem sensorRead (u : Nat) (l : List Nat) (b : Nat) : Statement (.sensorRead u l b) := ⟨.sensorRead 0 (List.replicate 4 0) 0, rfl, by decide⟩
theorem thermalSoftTick (g : Nat) : Statement (.thermalSoftTick g) := ⟨.thermalSoftTick 0, rfl, by decide⟩
theorem heatPark (g : Nat) (b : Nat) : Statement (.heatPark g b) := ⟨.heatPark 0 0, rfl, by decide⟩
theorem heatUnpark (g : Nat) (b : Nat) : Statement (.heatUnpark g b) := ⟨.heatUnpark 0 0, rfl, by decide⟩
theorem thermalTrip (u : Nat) : Statement (.thermalTrip u) := ⟨.thermalTrip 0, rfl, by decide⟩
theorem moduleTrip (cause : Nat) : Statement (.moduleTrip cause) := ⟨.moduleTrip 1, rfl, by decide⟩
theorem marginAlert (p : Nat) (alert : Bool) (b : Nat) : Statement (.marginAlert p alert b) := ⟨.marginAlert 0 false 0, rfl, by decide⟩
theorem alertHoldEnd (p : Nat) (b : Nat) : Statement (.alertHoldEnd p b) := ⟨.alertHoldEnd 0 0, rfl, by decide⟩
theorem fmaxRefine (p : Nat) (b : Nat) : Statement (.fmaxRefine p b) := ⟨.fmaxRefine 0 0, rfl, by decide⟩
theorem galPowerRequest (g : Nat) (b : Nat) : Statement (.galPowerRequest g b) := ⟨.galPowerRequest 0 0, rfl, by decide⟩
theorem galGrant (b : Nat) : Statement (.galGrant b) := ⟨.galGrant 0, rfl, by decide⟩
theorem galRampDone (g : Nat) (b : Nat) : Statement (.galRampDone g b) := ⟨.galRampDone 0 0, rfl, by decide⟩
theorem galOn (g : Nat) (passes : Nat) (b : Nat) : Statement (.galOn g passes b) := ⟨.galOn 0 0 0, rfl, by decide⟩
theorem pmbusPowerLimit (write : Bool) (w : Nat) : Statement (.pmbusPowerLimit write w) := ⟨.pmbusPowerLimit false 0, rfl, by decide⟩
theorem throtAssert : Statement (.throtAssert) := ⟨.throtAssert, rfl, by decide⟩
theorem throtRelease : Statement (.throtRelease) := ⟨.throtRelease, rfl, by decide⟩
theorem capSetWrite (rid : Nat) (w : Nat) : Statement (.capSetWrite rid w) := ⟨.capSetWrite 0 0, rfl, by decide⟩
theorem clkModeWrite (rid : Nat) (m : Nat) : Statement (.clkModeWrite rid m) := ⟨.clkModeWrite 0 0, rfl, by decide⟩
theorem fsetWrite (rid : Nat) (p : Nat) (f : Nat) : Statement (.fsetWrite rid p f) := ⟨.fsetWrite 0 0 0, rfl, by decide⟩
theorem calTableApply (b : Nat) : Statement (.calTableApply b) := ⟨.calTableApply 0, rfl, by decide⟩
theorem capService (rid : Nat) (w : Nat) : Statement (.capService rid w) := ⟨.capService 0 0, rfl, by decide⟩
theorem pwrStatus (rid : Nat) : Statement (.pwrStatus rid) := ⟨.pwrStatus 0, rfl, by decide⟩
theorem thrRead (rid : Nat) : Statement (.thrRead rid) := ⟨.thrRead 0, rfl, by decide⟩
theorem galPark (rid : Nat) (g : Nat) : Statement (.galPark rid g) := ⟨.galPark 0 0, rfl, by decide⟩
theorem galUnpark (rid : Nat) (g : Nat) : Statement (.galUnpark rid g) := ⟨.galUnpark 0 0, rfl, by decide⟩
theorem galRestore (rid : Nat) (g : Nat) : Statement (.galRestore rid g) := ⟨.galRestore 0 0, rfl, by decide⟩
theorem calLoad (rid : Nat) (a0 : Nat) (a1 : Nat) : Statement (.calLoad rid a0 a1) := ⟨.calLoad 0 0 0, rfl, by decide⟩
theorem pwrFaultRead (rid : Nat) : Statement (.pwrFaultRead rid) := ⟨.pwrFaultRead 0, rfl, by decide⟩
theorem temps (rid : Nat) (g : Nat) : Statement (.temps rid g) := ⟨.temps 0 0, rfl, by decide⟩
theorem thmFaultRead (rid : Nat) : Statement (.thmFaultRead rid) := ⟨.thmFaultRead 0, rfl, by decide⟩
theorem clkFreq (rid : Nat) (l : Nat) (f : Nat) : Statement (.clkFreq rid l f) := ⟨.clkFreq 0 0 0, rfl, by decide⟩
theorem clkFmax (rid : Nat) (p : Nat) : Statement (.clkFmax rid p) := ⟨.clkFmax 0 0, rfl, by decide⟩
theorem faultReport (kind : Nat) (unit : Nat) (cause : Nat) (unitCause : Nat) (b : Nat) : Statement (.faultReport kind unit cause unitCause b) := ⟨.faultReport 0 0 0 0 0, rfl, by decide⟩
theorem ctrlPoll (g : Nat) (answers : Nat) (b : Nat) : Statement (.ctrlPoll g answers b) := ⟨.ctrlPoll 0 0 0, rfl, by decide⟩
theorem move (l : Nat) (at_ : Nat) (fails : List Nat) (b : Nat) : Statement (.move l at_ fails b) := ⟨.move 0 0 [] 0, rfl, by decide⟩
theorem stepReplay (rb : Nat) (b : Nat) : Statement (.stepReplay rb b) := ⟨.stepReplay 0 0, rfl, by decide⟩
theorem replayStopTimeout (b : Nat) : Statement (.replayStopTimeout b) := ⟨.replayStopTimeout 0, rfl, by decide⟩
theorem replayRestart (b : Nat) : Statement (.replayRestart b) := ⟨.replayRestart 0, rfl, by decide⟩
theorem trialRun (p : Nat) (first : Bool) (again : Bool) (b : Nat) : Statement (.trialRun p first again b) := ⟨.trialRun 0 false false 0, rfl, by decide⟩
theorem fwRolloutRound (at_ : Nat) (fails : List Nat) (b : Nat) : Statement (.fwRolloutRound at_ fails b) := ⟨.fwRolloutRound 0 [] 0, rfl, by decide⟩
theorem bruStatus (rid : Nat) : Statement (.bruStatus rid) := ⟨.bruStatus 0, rfl, by decide⟩
theorem logExport (rid : Nat) (a0 : Nat) (a1 : Nat) (a2 : Nat) : Statement (.logExport rid a0 a1 a2) := ⟨.logExport 0 0 0 0, rfl, by decide⟩
theorem fenceMove (rid : Nat) (l : Nat) : Statement (.fenceMove rid l) := ⟨.fenceMove 0 0, rfl, by decide⟩
theorem trialService (rid : Nat) (p : Nat) (first : Bool) (again : Bool) : Statement (.trialService rid p first again) := ⟨.trialService 0 0 false false, rfl, by decide⟩
theorem dmapLoad (rid : Nat) (a0 : Nat) (a1 : Nat) : Statement (.dmapLoad rid a0 a1) := ⟨.dmapLoad 0 0 0, rfl, by decide⟩
theorem fwUpdate (rid : Nat) (a0 : Nat) (a1 : Nat) (a2 : Nat) : Statement (.fwUpdate rid a0 a1 a2) := ⟨.fwUpdate 0 0 0 0, rfl, by decide⟩
theorem bruReset (rid : Nat) (vinOk : Bool) : Statement (.bruReset rid vinOk) := ⟨.bruReset 0 false, rfl, by decide⟩
theorem fuseRead (rid : Nat) (a0 : Nat) (a1 : Nat) : Statement (.fuseRead rid a0 a1) := ⟨.fuseRead 0 0 0, rfl, by decide⟩
theorem traceLostRecord (u : Nat) : Statement (.traceLostRecord u) := ⟨.traceLostRecord 1000, rfl, by decide⟩
theorem trcRearm (rid : Nat) (u : Nat) (v : Nat) : Statement (.trcRearm rid u v) := ⟨.trcRearm 0 1000 0, rfl, by decide⟩
theorem trcDataRead (u : Nat) : Statement (.trcDataRead u) := ⟨.trcDataRead 1000, rfl, by decide⟩
theorem counterThaw (b : Nat) : Statement (.counterThaw b) := ⟨.counterThaw 0, rfl, by decide⟩
theorem counterClearBeat (b : Nat) : Statement (.counterClearBeat b) := ⟨.counterClearBeat 0, rfl, by decide⟩
theorem snapshotAreaWritten : Statement (.snapshotAreaWritten) := ⟨.snapshotAreaWritten, rfl, by decide⟩
theorem autoHangScan (b : Nat) : Statement (.autoHangScan b) := ⟨.autoHangScan 0, rfl, by decide⟩
theorem obsThaw (rid : Nat) (a0 : Nat) : Statement (.obsThaw rid a0) := ⟨.obsThaw 0 0, rfl, by decide⟩
theorem obsClear (rid : Nat) (a0 : Nat) : Statement (.obsClear rid a0) := ⟨.obsClear 0 0, rfl, by decide⟩
theorem snapNow (rid : Nat) : Statement (.snapNow rid) := ⟨.snapNow 0, rfl, by decide⟩
theorem traceDump (rid : Nat) (a0 : Nat) (a1 : Nat) (a2 : Nat) : Statement (.traceDump rid a0 a1 a2) := ⟨.traceDump 0 0 0 0, rfl, by decide⟩
theorem hangScan (rid : Nat) (a0 : Nat) (a1 : Nat) : Statement (.hangScan rid a0 a1) := ⟨.hangScan 0 0 0, rfl, by decide⟩
theorem attest (rid : Nat) (a0 : Nat) (a1 : Nat) (a2 : Nat) : Statement (.attest rid a0 a1 a2) := ⟨.attest 0 0 0 0, rfl, by decide⟩
theorem certRead (rid : Nat) (a0 : Nat) : Statement (.certRead rid a0) := ⟨.certRead 0 0, rfl, by decide⟩
theorem logRead (rid : Nat) (a0 : Nat) (a1 : Nat) (a2 : Nat) : Statement (.logRead rid a0 a1 a2) := ⟨.logRead 0 0 0 0, rfl, by decide⟩
theorem extend (rid : Nat) (a0 : Nat) (a1 : Nat) : Statement (.extend rid a0 a1) := ⟨.extend 0 0 0, rfl, by decide⟩
theorem svnCommit (rid : Nat) (a0 : Nat) (a1 : Nat) : Statement (.svnCommit rid a0 a1) := ⟨.svnCommit 0 0 0, rfl, by decide⟩
theorem revoke (rid : Nat) (a0 : Nat) : Statement (.revoke rid a0) := ⟨.revoke 0 0, rfl, by decide⟩
theorem prsntAssert (us : Nat) : Statement (.prsntAssert us) := ⟨.prsntAssert 0, rfl, by decide⟩
theorem inputStageClose (us : Nat) (vin : Nat) (bus : Nat) : Statement (.inputStageClose us vin bus) := ⟨.inputStageClose 0 0 0, rfl, by decide⟩
theorem prsntRemove (us : Nat) : Statement (.prsntRemove us) := ⟨.prsntRemove 0, rfl, by decide⟩
theorem refclkLost (us : Nat) : Statement (.refclkLost us) := ⟨.refclkLost 0, rfl, by decide⟩
theorem i3cCsRead (a : Nat) : Statement (.i3cCsRead a) := ⟨.i3cCsRead 0, rfl, by decide⟩
theorem i3cCsWrite (a : Nat) (v : Nat) : Statement (.i3cCsWrite a v) := ⟨.i3cCsWrite 0 0, rfl, by decide⟩
theorem i3cRecNext : Statement (.i3cRecNext) := ⟨.i3cRecNext, rfl, by decide⟩
theorem i3cRecAck (n : Nat) : Statement (.i3cRecAck n) := ⟨.i3cRecAck 0, rfl, by decide⟩
theorem i3cStatus : Statement (.i3cStatus) := ⟨.i3cStatus, rfl, by decide⟩
theorem pmbusClearFaults : Statement (.pmbusClearFaults) := ⟨.pmbusClearFaults, rfl, by decide⟩
theorem pmbusStatusWord : Statement (.pmbusStatusWord) := ⟨.pmbusStatusWord, rfl, by decide⟩
theorem pmbusReadVin : Statement (.pmbusReadVin) := ⟨.pmbusReadVin, rfl, by decide⟩
theorem pmbusReadIin : Statement (.pmbusReadIin) := ⟨.pmbusReadIin, rfl, by decide⟩
theorem pmbusReadPin : Statement (.pmbusReadPin) := ⟨.pmbusReadPin, rfl, by decide⟩
theorem pmbusReadTemperature1 : Statement (.pmbusReadTemperature1) := ⟨.pmbusReadTemperature1, rfl, by decide⟩
theorem pmbusReadTemperature2 : Statement (.pmbusReadTemperature2) := ⟨.pmbusReadTemperature2, rfl, by decide⟩
theorem pmbusMfrId : Statement (.pmbusMfrId) := ⟨.pmbusMfrId, rfl, by decide⟩
theorem pmbusMfrModel : Statement (.pmbusMfrModel) := ⟨.pmbusMfrModel, rfl, by decide⟩
theorem jtagExtest (d : Nat) (low : Bool) (pins : List Bool) (shift : List Bool) : Statement (.jtagExtest d low pins shift) := ⟨.jtagExtest 0 false [] [], rfl, by decide⟩
theorem jtagIdcode (d : Nat) : Statement (.jtagIdcode d) := ⟨.jtagIdcode 0, rfl, by decide⟩
theorem jtagSamplePreload (d : Nat) (pins : List Bool) (shift : List Bool) : Statement (.jtagSamplePreload d pins shift) := ⟨.jtagSamplePreload 0 [] [], rfl, by decide⟩
theorem jtagClamp (d : Nat) (low : Bool) : Statement (.jtagClamp d low) := ⟨.jtagClamp 0 false, rfl, by decide⟩
theorem jtagHighz (d : Nat) (low : Bool) : Statement (.jtagHighz d low) := ⟨.jtagHighz 0 false, rfl, by decide⟩
theorem jtagBypass (d : Nat) : Statement (.jtagBypass d) := ⟨.jtagBypass 0, rfl, by decide⟩
theorem serFlitReplay (port : Nat) : Statement (.serFlitReplay port) := ⟨.serFlitReplay 0, rfl, by decide⟩
theorem stairLinkRetrain (k : Nat) : Statement (.stairLinkRetrain k) := ⟨.stairLinkRetrain 0, rfl, by decide⟩
theorem msdBufferAccess (src : Source) (req : Nat) (n : Nat) (o : Nat) (size : Nat) (write : Bool) (data : List Byte) : Statement (.msdBufferAccess src req n o size write data) := ⟨.msdBufferAccess ⟨0, 0, 0, false, 0⟩ 0 0 0 0 false [], rfl, by decide⟩
theorem membersDeadline : Statement (.membersDeadline) := ⟨.membersDeadline, rfl, by decide⟩
theorem badOpcodeCommand (p : Nat) (st : Nat) (b : Nat) : Statement (.badOpcodeCommand p st b) := ⟨.badOpcodeCommand 0 0 0, rfl, by decide⟩
theorem fabReservedPacket (h : FabHead) : Statement (.fabReservedPacket h) := ⟨.fabReservedPacket ⟨0, 0, 0, 0, 0, 0, 0, 0, 0, 0, 0, 0, 0, 0, 0, 0⟩, rfl, by decide⟩
theorem stairReservedOp : Statement (.stairReservedOp) := ⟨.stairReservedOp, rfl, by decide⟩
theorem i3cOtherOp (op : Nat) : Statement (.i3cOtherOp op) := ⟨.i3cOtherOp 0, rfl, by decide⟩
theorem pmbusOtherCommand (code : Nat) : Statement (.pmbusOtherCommand code) := ⟨.pmbusOtherCommand 0, rfl, by decide⟩

end Sys2Proof.Laws.WellFormedness
end

