-- ==== Sys2Proof/Laws/Secure.lean ====
section
/-! SUPPORT. What an extension of a measurement register and a verification's note do (17 R490, R498). -/
namespace Sys2Proof.Machine

/-- The registers of the value written. -/
def measWritten (r : Nat) (m : List Byte) (s : State) : State :=
  (List.range 8).foldl (fun s w => wr (rSecMeas (8 * r + w)) (BitVec.ofNat 64 (leAt (8 * w) 8 m)) s) s

theorem extend_eq (r ty svn : Nat) (d : List Byte) (s : State) : extend r ty svn d s =
    (let v := measWritten r (shake256 64 (measReg s r ++ d)) s
     let n := fld v rSecStatus fSecStatusLogCount
     setFlds rSecStatus [(fSecStatusLogCount, n + 1), (fSecStatusLogFull, bit (16384 ≤ n + 1))]
       (if n < 16384 then { v with measLog := ⟨r, ty, svn, v.beat, d⟩ :: v.measLog } else v)) := rfl

theorem regsOnly_measWritten (r : Nat) (m : List Byte) (s : State) : RegsOnly s (measWritten r m s) :=
  regsOnly_foldl (fun w => rSecMeas (8 * r + w)) (fun w => BitVec.ofNat 64 (leAt (8 * w) 8 m)) _ s

theorem rd_measWritten {r k : Nat} (h : k < rSecMeas (8 * r) ∨ rSecMeas (8 * r + 8) ≤ k) (m : List Byte) (s : State) :
    rd (measWritten r m s) k = rd s k := by
  refine rd_foldl_wr _ _ (f := fun w => rSecMeas (8 * r + w)) (g := fun w => BitVec.ofNat 64 (leAt (8 * w) 8 m)) ?_
  intro x hx
  rw [List.mem_range] at hx
  simp only [rSecMeas] at h ⊢
  omega

/-- An extension changes registers and the measurement log. -/
theorem extend_shape (r ty svn : Nat) (d : List Byte) (s : State) : ∃ q l, extend r ty svn d s = { s with regs := q, measLog := l } := by
  have h : ∀ z v q l, v = ({ s with regs := q, measLog := l } : State) →
      ∃ q l, setFlds rSecStatus z v = ({ s with regs := q, measLog := l } : State) := by
    rintro z v q l rfl
    exact ⟨_, l, rfl⟩
  rw [extend_eq]
  generalize shake256 64 (measReg s r ++ d) = m
  obtain ⟨q, e⟩ := regsOnly_measWritten r m s
  dsimp only
  generalize ([(fSecStatusLogCount, _), (fSecStatusLogFull, _)] : List (Field × Nat)) = z
  generalize fld (measWritten r m s) rSecStatus fSecStatusLogCount = n
  split
  · exact h z _ q _ (by rw [e])
  · exact h z _ q s.measLog (by rw [e])

/-- It writes its own register and SEC.STATUS. -/
theorem rd_extend {r k : Nat} (h : k < rSecMeas (8 * r) ∨ rSecMeas (8 * r + 8) ≤ k) (hk : k ≠ rSecStatus) (ty svn : Nat) (d : List Byte)
    (s : State) : rd (extend r ty svn d s) k = rd s k := by
  rw [extend_eq]
  generalize shake256 64 (measReg s r ++ d) = m
  have e := rd_measWritten h m s
  generalize measWritten r m s = v at e ⊢
  dsimp only
  unfold setFlds
  rw [rd_wr_other (fun e => hk e.symm), ← e]
  split <;> rfl

/-- It adds one to LOG_COUNT. -/
theorem extend_logCount (r ty svn : Nat) (d : List Byte) (s : State) :
    fld (extend r ty svn d s) rSecStatus fSecStatusLogCount = (fld s rSecStatus fSecStatusLogCount + 1) % 2 ^ 32 := by
  have e : fld (measWritten r (shake256 64 (measReg s r ++ d)) s) rSecStatus fSecStatusLogCount = fld s rSecStatus fSecStatusLogCount := by
    unfold fld
    rw [rd_measWritten (.inl (by simp only [rSecMeas, rSecStatus]; omega))]
  rw [extend_eq]
  dsimp only
  rw [e]
  unfold setFlds fld
  dsimp only [List.foldl]
  rw [rd_wr_same, fget_fset_other _ _ _ _ (.inr (by decide)), fget_fset _ _ _ (by decide)]
  rfl

end Sys2Proof.Machine
end

