-- ==== Sys2Proof/Laws/Spm.lean ====
section
/-! SUPPORT. Bank ranges of a scratchpad (05 R160). -/
namespace Sys2Proof.Machine

/-- A field as the bits of the register's number. -/
theorem fget_eq_bitsAt (f : Field) (v : Word) (hf : f.lo + f.w ≤ 64) : fget f v = bitsAt f.lo f.w v.toNat := by
  unfold fget lowMask bitsAt
  have h1 : 2 ^ f.w ≤ 2 ^ 64 := Nat.pow_le_pow_right (by decide) (by omega)
  have h2 := Nat.pow_pos (n := f.w) (a := 2) (by decide)
  rw [BitVec.toNat_and, BitVec.toNat_ushiftRight, BitVec.toNat_ofNat, Nat.mod_eq_of_lt (a := 2 ^ f.w - 1) (by omega),
    Nat.and_two_pow_sub_one_eq_mod]

theorem rangeState_eq (s : State) (p : Nat) {k : Nat} (h : k < 12) : rangeState s p k = fld s (rClSpmRange p) ⟨2 * k, 2⟩ := by
  unfold rangeState rdN fld
  rw [fget_eq_bitsAt _ _ (by show 2 * k + 2 ≤ 64; omega)]

/-- A range set is in that state, and every other range is as it was. -/
theorem rangeState_setRange (p : Nat) {k j : Nat} (hk : k < 12) (hj : j < 12) (x : Nat) (s : State) :
    rangeState (setRange p k x s) p j = if j = k then x % 4 else rangeState s p j := by
  rw [rangeState_eq _ _ hj, rangeState_eq _ _ hj]
  unfold setRange
  by_cases h : j = k
  · subst h
    rw [if_pos rfl, fld_setFld _ _ _ _ (by show 2 * j + 2 ≤ 64; omega)]
    rfl
  · rw [if_neg h]
    unfold setFld fld
    rw [rd_wr_same, fget_fset_other _ _ _ _ (by show 2 * j + 2 ≤ 2 * k ∨ 2 * k + 2 ≤ 2 * j; omega)]

theorem mem_bitsOf {n m i : Nat} : i ∈ bitsOf n m ↔ i < n ∧ bitAt m i = true := by
  unfold bitsOf
  simp [List.mem_filter, List.mem_range]

theorem nodup_bitsOf (n m : Nat) : (bitsOf n m).Nodup := List.Pairwise.filter _ List.nodup_range

/-- A fold of range moves that each give one range a state depending on that range's own. -/
theorem rangeState_moves (p : Nat) {f : State → Nat → State} {g : Nat → Nat}
    (hf : ∀ s k j, k < 12 → j < 12 → rangeState (f s k) p j = if j = k then g (rangeState s p k) else rangeState s p j)
    (l : List Nat) (hl : l.Nodup) (h12 : ∀ k ∈ l, k < 12) (s : State) {j : Nat} (hj : j < 12) :
    rangeState (l.foldl f s) p j = if j ∈ l then g (rangeState s p j) else rangeState s p j := by
  induction l generalizing s with
  | nil => simp
  | cons a t ih =>
    obtain ⟨h1, h2⟩ := List.nodup_cons.mp hl
    rw [List.foldl_cons, ih h2 (fun k hk => h12 k (List.mem_cons_of_mem _ hk)), hf s a j (h12 a List.mem_cons_self) hj]
    by_cases hja : j = a
    · subst hja
      rw [if_neg h1, if_pos rfl, if_pos List.mem_cons_self]
    · simp only [hja, if_false, List.mem_cons, false_or]

end Sys2Proof.Machine
end

