-- ==== Sys2Proof/Laws/Trace.lean ====
section
/-! SUPPORT. Trace buffers: the queue of records waiting for room drains (16 R477, R478). -/
namespace Sys2Proof.Machine

@[simp] theorem trace_setTrace (u : Nat) (t : Trace) (s : State) : trace (setTrace u t s) u = t := by
  unfold trace setTrace
  dsimp only
  rw [tabGet_tabSet, if_pos rfl]

theorem trace_setFlds (u k : Nat) (l : List (Field × Nat)) (s : State) : trace (setFlds k l s) u = trace s u := rfl

theorem trace_traceWrite (u : Nat) (r : List Byte) (s : State) : (trace (traceWrite u r s) u).queue = (trace s u).queue ∧
    (trace (traceWrite u r s) u).count = (trace s u).count + 1 := by
  unfold traceWrite
  dsimp only
  rw [trace_setFlds, trace_setTrace]
  exact ⟨rfl, rfl⟩

theorem rd_traceWrite (u : Nat) (r : List Byte) (s : State) : rd (traceWrite u r s) (trcCtl u) = rd s (trcCtl u) := by
  unfold traceWrite setFlds
  dsimp only
  rw [rd_wr_other (by omega)]
  rfl

theorem sameBut_traceWrite {K : Nat → Prop} {u : Nat} (h : K (trcCtl u + 8)) (r : List Byte) (s : State) : SameBut K s (traceWrite u r s) := by
  unfold traceWrite
  exact (SameBut.setTrace u _ s).trans (.setFlds h _ _)

/-- A drain writes the trace pointer only. -/
theorem sameBut_drainTrace {K : Nat → Prop} {u : Nat} (h : K (trcCtl u + 8)) (n : Nat) (s : State) : SameBut K s (drainTrace u n s) := by
  induction n generalizing s with
  | zero => exact .refl s
  | succ n ih =>
    unfold drainTrace
    split
    · exact .refl s
    · split
      · exact (SameBut.setTrace u _ s).trans ((sameBut_traceWrite h _ _).trans (ih _))
      · exact .refl s

/-- With the unit enabled and room in its buffer, every waiting record is written; with it disabled, none. -/
theorem drainTrace_all (u : Nat) (n : Nat) (s : State) (hn : (trace s u).queue.length ≤ n) (hc : (trace s u).count + n ≤ 2048)
    (he : bitAt (rdN s (trcCtl u)) 0 = true) :
    (trace (drainTrace u n s) u).queue = [] ∧ (trace (drainTrace u n s) u).count = (trace s u).count + (trace s u).queue.length ∧
    rd (drainTrace u n s) (trcCtl u) = rd s (trcCtl u) := by
  induction n generalizing s with
  | zero =>
    have : (trace s u).queue = [] := List.length_eq_zero_iff.mp (by omega)
    exact ⟨this, by rw [this]; rfl, rfl⟩
  | succ n ih =>
    unfold drainTrace
    cases hq : (trace s u).queue with
    | nil => exact ⟨hq, rfl, rfl⟩
    | cons r t =>
      rw [hq] at hn
      simp only [List.length_cons] at hn
      have hroom : traceRoom s u = true := by
        unfold traceRoom
        have : bitAt (rd s (trcCtl u)).toNat 0 = true := he
        simp only [this, Bool.true_and, Bool.or_eq_true, decide_eq_true_eq]
        exact .inr (by omega)
      dsimp only
      rw [if_pos hroom]
      have h1 := trace_traceWrite u r (setTrace u { trace s u with queue := t } s)
      rw [trace_setTrace] at h1
      dsimp only at h1
      have h2 : rd (traceWrite u r (setTrace u { trace s u with queue := t } s)) (trcCtl u) = rd s (trcCtl u) := by
        rw [rd_traceWrite]; rfl
      obtain ⟨i1, i2, i3⟩ := ih (traceWrite u r (setTrace u { trace s u with queue := t } s)) (by rw [h1.1]; omega) (by rw [h1.2]; omega)
        (by unfold rdN; rw [h2]; exact he)
      refine ⟨i1, ?_, i3.trans h2⟩
      rw [i2, h1.1, h1.2]
      simp only [List.length_cons]
      omega

theorem drainTrace_off (u : Nat) (n : Nat) (s : State) (he : bitAt (rdN s (trcCtl u)) 0 = false) : drainTrace u n s = s := by
  cases n with
  | zero => rfl
  | succ n =>
    unfold drainTrace
    split
    · rfl
    · have : traceRoom s u = false := by
        unfold traceRoom
        have : bitAt (rd s (trcCtl u)).toNat 0 = false := he
        simp only [this, Bool.false_and]
      rw [this]
      rfl

end Sys2Proof.Machine
end

