-- ==== Sys2Proof/Laws/Window.lean ====
section
/-! SUPPORT. A window closed (05 R173): its state, its generation, and the mirrors of the generation. -/
namespace Sys2Proof.Machine

theorem HbmBut.refl {K : Nat → Prop} (s : State) : HbmBut K s s := ⟨rfl, rfl, rfl, fun _ _ => rfl⟩

theorem HbmBut.trans {K : Nat → Prop} {s t u : State} (h : HbmBut K s t) (g : HbmBut K t u) : HbmBut K s u :=
  ⟨g.1.trans h.1, g.2.1.trans h.2.1, g.2.2.1.trans h.2.2.1, fun i hi => (g.2.2.2 i hi).trans (h.2.2.2 i hi)⟩

theorem HbmBut.mono {K L : Nat → Prop} {s t : State} (h : HbmBut K s t) (g : ∀ k, K k → L k) : HbmBut L s t :=
  ⟨h.1, h.2.1, h.2.2.1, fun i hi => h.2.2.2 i (fun e => hi (g i e))⟩

theorem HbmBut.of_same {K : Nat → Prop} {s t : State} (h : SameBut K s t) : HbmBut K s t := ⟨h.1, h.2.2.1, h.2.2.2.1, h.2.2.2.2⟩

theorem HbmBut.toSame {K : Nat → Prop} {s t : State} (h : HbmBut K s t) (e : t.hbm = s.hbm) : SameBut K s t :=
  ⟨h.1, e, h.2.1, h.2.2.1, h.2.2.2⟩

theorem HbmBut.of_only {K : Nat → Prop} {s t : State} (h : HbmOnly s t) (hK : ∀ k, Tally k → K k) : HbmBut K s t := by
  obtain ⟨⟨q, m, l, rfl⟩, h2⟩ := h
  exact ⟨rfl, rfl, rfl, fun k hk => h2 k (fun e => hk (hK k e))⟩

theorem HbmOnly.units {s t : State} (h : HbmOnly s t) : t.cl = s.cl ∧ t.genMap = s.genMap ∧ t.calls = s.calls ∧ t.beat = s.beat ∧
    t.lmap = s.lmap := by
  obtain ⟨⟨q, m, l, rfl⟩, -⟩ := h
  exact ⟨rfl, rfl, rfl, rfl, rfl⟩

/-- What the close of window `w` may write: its register, its mirror in the BRU block, and what a write of HBM counts. -/
abbrev CloseReg (p w l k : Nat) : Prop := k = rClWinA p w ∨ k = rBruGenMirror ((64 * l + w) / 8) ∨ Tally k

/-- The effect of the close of an OPEN window. -/
structure Closed1 (s t : State) (p w : Nat) : Prop where
  frame : HbmBut (CloseReg p w (logicalOf s p)) s t
  units : t.cl = s.cl ∧ t.genMap = s.genMap ∧ t.calls = s.calls ∧ t.beat = s.beat
  state : fld t (rClWinA p w) fClWinAState = wsClosing
  gen : fld t (rClWinA p w) fClWinAGen = (fld s (rClWinA p w) fClWinAGen + 1) % 256
  rest : ∀ g, s.genMap = some g → logicalOf s p < nLogical →
    Stored s t (g + 64 * logicalOf s p + w) (natLe 1 ((fld s (rClWinA p w) fClWinAGen + 1) % 256))
  same : (s.genMap = none ∨ nLogical ≤ logicalOf s p) → t.hbm = s.hbm
  ready : GenMapReady s → GenMapReady t

theorem hbmTop_congr {s t : State} (h : rd t rModStatus = rd s rModStatus) : hbmTop t = hbmTop s := by
  unfold hbmTop parityOn fld
  rw [h]

theorem ready_congr {s t : State} (h : SameHbm s t) (hw : t.lineWrites = s.lineWrites) (hr : HbmReady s) : HbmReady t := by
  refine ⟨fun n hn => ?_, h.bad.trans hr.2.1, hw.trans hr.2.2⟩
  rw [← hr.1 n hn]
  unfold msdState fld
  rw [h.msd n hn]

theorem closeWindow_open {s : State} {p w : Nat} (hp : p < 864) (hw : w < 64) (ho : fld s (rClWinA p w) fClWinAState = wsOpen)
    (hg : GenMapReady s) : Closed1 s (closeWindow p w s) p w := by
  have h256 : (fld s (rClWinA p w) fClWinAGen + 1) % 256 < 256 := Nat.mod_lt _ (by decide)
  unfold closeWindow
  rw [if_neg (by simp [ho])]
  dsimp only
  generalize hgen : (fld s (rClWinA p w) fClWinAGen + 1) % 256 = g1 at h256
  have hreg : ∀ u : State, rd u (rClWinA p w) = fset fClWinAGen (rd s (rClWinA p w)) g1 →
      fld (setFld (rClWinA p w) fClWinAState wsClosing u) (rClWinA p w) fClWinAState = wsClosing ∧
      fld (setFld (rClWinA p w) fClWinAState wsClosing u) (rClWinA p w) fClWinAGen = g1 := by
    intro u hu
    refine ⟨fld_setFld _ _ _ _ (by decide), ?_⟩
    unfold setFld fld
    rw [rd_wr_same, fget_fset_other _ _ _ _ (by decide), hu, fget_fset _ _ _ (by decide)]
    exact Nat.mod_eq_of_lt h256
  have hl : logicalOf (setFld (rClWinA p w) fClWinAGen g1 s) p = logicalOf s p := rfl
  unfold setWinGen
  dsimp only
  rw [hl]
  by_cases h1 : nLogical ≤ logicalOf s p
  · rw [if_pos h1]
    obtain ⟨r1, r2⟩ := hreg (setFld (rClWinA p w) fClWinAGen g1 s) (rd_wr_same _ _ _)
    refine ⟨?_, ⟨rfl, rfl, rfl, rfl⟩, r1, r2.trans hgen.symm, fun g _ h2 => absurd h2 (by omega), fun _ => rfl, fun _ => ?_⟩
    · exact (HbmBut.of_same (.setFld (.inl rfl) _ _ _)).trans (.of_same (.setFld (.inl rfl) _ _ _))
    · rcases hg with hg | ⟨g, e1, e2, e3⟩
      · exact .inl hg
      · refine .inr ⟨g, e1, ready_congr (s := s) ⟨rfl, rfl, ?_, fun n hn => ?_⟩ rfl e2, ?_⟩
        · unfold setFld
          rw [rd_wr_other (by simp only [rClWinA, clBase, rModStatus]; omega), rd_wr_other (by simp only [rClWinA, clBase, rModStatus]; omega)]
        · unfold setFld
          rw [rd_wr_other (by simp only [rClWinA, clBase, rMsdStatus, msdBase]; omega),
            rd_wr_other (by simp only [rClWinA, clBase, rMsdStatus, msdBase]; omega)]
        · rw [hbmTop_congr (s := s)]
          · exact e3
          · unfold setFld
            rw [rd_wr_other (by simp only [rClWinA, clBase, rModStatus]; omega), rd_wr_other (by simp only [rClWinA, clBase, rModStatus]; omega)]
  · rw [if_neg h1]
    have hl800 : logicalOf s p < 800 := by simpa [nLogical] using h1
    generalize hu : setFld (rBruGenMirror ((64 * logicalOf s p + w) / 8)) ⟨8 * (w % 8), 8⟩ g1 (setFld (rClWinA p w) fClWinAGen g1 s) = u
    have hur : ∀ k, k ≠ rClWinA p w → k ≠ rBruGenMirror ((64 * logicalOf s p + w) / 8) → rd u k = rd s k := by
      intro k k1 k2
      rw [← hu]
      unfold setFld
      rw [rd_wr_other (fun e => k2 e.symm), rd_wr_other (fun e => k1 e.symm)]
    have huw : rd u (rClWinA p w) = fset fClWinAGen (rd s (rClWinA p w)) g1 := by
      rw [← hu]
      unfold setFld
      rw [rd_wr_other (by simp only [rClWinA, clBase, rBruGenMirror]; omega), rd_wr_same]
    have hsh : ∃ r, u = { s with regs := r } := ⟨_, hu.symm⟩
    have hut : rd u rModStatus = rd s rModStatus :=
      hur _ (by simp only [rClWinA, clBase, rModStatus]; omega) (by simp only [rBruGenMirror, rModStatus]; omega)
    have hum : ∀ n, n < 16 → rd u (rMsdStatus n) = rd s (rMsdStatus n) := fun n hn =>
      hur _ (by simp only [rClWinA, clBase, rMsdStatus, msdBase]; omega) (by simp only [rBruGenMirror, rMsdStatus, msdBase]; omega)
    have hfr : HbmBut (CloseReg p w (logicalOf s p)) s u := by
      obtain ⟨r, e⟩ := hsh
      exact ⟨by rw [e], by rw [e], by rw [e], fun k hk => hur k (fun e => hk (.inl e)) (fun e => hk (.inr (.inl e)))⟩
    have hug : u.genMap = s.genMap := by obtain ⟨r, e⟩ := hsh; rw [e]
    have huu : u.cl = s.cl ∧ u.genMap = s.genMap ∧ u.calls = s.calls ∧ u.beat = s.beat ∧ u.hbm = s.hbm := by
      obtain ⟨r, e⟩ := hsh; rw [e]; exact ⟨rfl, rfl, rfl, rfl, rfl⟩
    rw [hug]
    rcases hg with hg | ⟨g, e1, e2, e3⟩
    · rw [hg]
      obtain ⟨r1, r2⟩ := hreg u huw
      refine ⟨hfr.trans (.of_same (.setFld (.inl rfl) _ _ _)), ⟨huu.1, huu.2.1, huu.2.2.1, huu.2.2.2.1⟩, r1, r2.trans hgen.symm,
        ?_, ?_, ?_⟩
      · intro g h
        rw [hg] at h
        cases h
      · intro _
        exact huu.2.2.2.2
      · intro _
        exact .inl (huu.2.1.trans hg)
    · rw [e1]
      have hsb : SameHbm s u := ⟨huu.2.2.2.2, by obtain ⟨r, e⟩ := hsh; rw [e], hut, hum⟩
      have hr : HbmReady u := ready_congr hsb (by obtain ⟨r, e⟩ := hsh; rw [e]) e2
      have ht : hbmTop u = hbmTop s := hbmTop_congr hut
      have hlen : (natLe 1 g1).length = 1 := rfl
      obtain ⟨t, f1, f2, f3⟩ := hbmWrite_ready hr (a := g + 64 * logicalOf s p + w) (l := natLe 1 g1) (by rw [hlen, ht]; omega)
      dsimp only
      rw [f1]
      dsimp only
      have htw : rd t (rClWinA p w) = fset fClWinAGen (rd s (rClWinA p w)) g1 := by
        rw [f2.regs _ (by simp only [rClWinA, clBase, Tally]; omega)]
        exact huw
      obtain ⟨r1, r2⟩ := hreg t htw
      obtain ⟨u1, u2, u3, u4, u5⟩ := f2.units
      refine ⟨(hfr.trans (.of_only f2 (fun k h => .inr (.inr h)))).trans (.of_same (.setFld (.inl rfl) _ _ _)),
        ⟨u1.trans huu.1, u2.trans huu.2.1, u3.trans huu.2.2.1, u4.trans huu.2.2.2.1⟩, r1, r2.trans hgen.symm, ?_, ?_, ?_⟩
      · intro g' h' _
        rw [e1] at h'
        cases h'
        rw [hgen]
        intro x hx
        have := f3 x (by rw [ht]; exact hx)
        unfold hbmByte at this ⊢
        rw [← huu.2.2.2.2]
        exact this
      · rintro (h | h)
        · rw [e1] at h; cases h
        · exact absurd h h1
      · intro _
        refine .inr ⟨g, u2.trans (huu.2.1.trans e1), ?_, ?_⟩
        · refine ready_congr (s := t) ⟨rfl, rfl, ?_, fun n hn => ?_⟩ rfl (f2.ready hr)
          · exact rd_wr_other (by simp only [rClWinA, clBase, rModStatus]; omega) _ _
          · exact rd_wr_other (by simp only [rClWinA, clBase, rMsdStatus, msdBase]; omega) _ _
        · have hc : hbmTop (setFld (rClWinA p w) fClWinAState wsClosing t) = hbmTop t := by
            refine hbmTop_congr ?_
            unfold setFld
            exact rd_wr_other (by simp only [rClWinA, clBase, rModStatus]; omega) _ _
          rw [hc, f2.top, ht]
          exact e3

end Sys2Proof.Machine
end

