-- ==== Sys2Proof/Tests/Slice0.lean ====
section
/-! SUPPORT. Tests: ill-formed terms that well-formedness refuses, expected results of single commands taken from the spec, and for
each statement a state and operands that meet its hypotheses. -/
open Sys2Proof Sys2Proof.Machine
namespace Sys2Proof.Tests

/-- A part with power whose owner is requestor 7 with a lease to beat 10^9 (12 R360, R362). -/
def owned : State :=
  setFlds rSerOwner [(fSerOwnerState, 2), (fSerOwnerRid, 7)] (wr rSerLeaseEnd 1000000000 State.reset)

/-- `owned`, with number 3 held by physical cluster 5 in service. -/
def served : State := setFld (rBruCl 5) fBruClState csServing (setFld (rPwrGal (galleryOf 5)) fPwrGalState 0 { owned with lmap := [(3, 5)] })

/-- A command whose word 0 holds an opcode and a launch condition, with its operand words. -/
def mkCmd (op launch : Nat) (w1 w2 w3 : Nat) : Cmd :=
  ⟨BitVec.ofNat 64 (op + 2 ^ 8 * launch), BitVec.ofNat 64 w1, BitVec.ofNat 64 w2, BitVec.ofNat 64 w3⟩

/-- `served`, with stream 2 of cluster 5 RUNNING over commands 0 to 9 at index 4, where `c` stands. -/
def running (c : Cmd) : State :=
  let s := modCluster 5 (fun k => { k with cmdMem := [(16, c.w0), (17, c.w1), (18, c.w2), (19, c.w3)] }) served
  setPc 5 2 4 (setStreamState 5 2 ssRunning (modStream 5 2 (fun z => { z with first := 0, last := 10 }) s))


/-- Each of these commands breaks a check of its row, and the check refuses it. -/
theorem test_ill_formed_0 : ([.controlRegisterWrite 65536 0 0 0,
  .escLateMaxRead 864,
  .stagePower (2 ^ 18) false [] 0,
  .stageTopologyDiscovery (2 ^ 64) 0,
  .stairRead 256 0,
  .stairWrite 256 0 0 0,
  .stairResponse 256 0,
  .stairFence 64 0 0,
  .stairUnfence 64 0 0,
  .stairPark 36 0,
  .stairUnpark 36 0,
  .stairReport 11 0 0 0 0 0,
  .stairSnapshotData 0 0x80000,
  .stairFrameCrcFail 2560 false,
  .ctlNop 864 0 0,
  .ctlMark 864 0 0,
  .ctlJump 864 0 0,
  .ctlLoopSet 864 0 0,
  .ctlLoop 864 0 0,
  .ctlExec 864 0 0,
  .ctlHalt 864 0 0,
  .semSet 864 0 0,
  .semAdd 864 0 0,
  .semSignal 864 0 0,
  .semSignalArrive 800 0 0 0 0 0,
  .signalAck 864 0 0,
  .fenceRel 864 0 0,
  .fenceRelComplete 864 0,
  .fenceAcq 864 0 0,
  .matRun 864 0 0,
  .matDescArrive 864,
  .feederLineArrive 864 0,
  .actLineArrive 864,
  .matPassStart 864,
  .matSlotUpdate 864,
  .matRunComplete 864,
  .matReadout 864 0 0,
  .matReadoutCopy 864 [],
  .matReadoutDrain 864,
  .matReadoutComplete 864,
  .matClear 864 0 0,
  .matCtrlWrite 0 800 0,
  .arithCtrlWrite 0 800 0,
  .vecEw 864 0 0,
  .vecSfu 864 0 0,
  .vecRed 864 0 0,
  .vecSmax 864 0 0,
  .vecNorm 864 0 0].all (fun c : Instr => !c.wf)) = true := by decide

/-- Each of these commands breaks a check of its row, and the check refuses it. -/
theorem test_ill_formed_1 : ([.vecCvt 864 0 0,
  .vecMove 864 0 0,
  .vecComplete 864,
  .dmaSubmit 864 0 0,
  .dmaDescStart 864 0 0,
  .dmaDescComplete 864 0 0,
  .dmaDescFail 864 0 0,
  .clStreamCtlResume 0 800 0 0,
  .clStreamCtlStop 0 800 0,
  .clSemWrite 0 800 0 0,
  .dmaCtxClrWrite 0 800 0,
  .streamStatus 0 800 0,
  .streamResume 0 800 0 0,
  .streamStop 0 800 0,
  .ctxClear 0 800 0,
  .mbxSemSet 0 800 0 0,
  .clErrRead 0 800,
  .spmAccess 864 [] 0 0,
  .eccWriteback 864 0,
  .scrubRead 864 0 0 0 [],
  .rangeClose 0 800 0,
  .rangeOpen 0 800 0,
  .rangeOff 0 800 0,
  .rangeOn 0 800 0,
  .rangePowerDown 864 0,
  .rangeOnComplete 864 0,
  .windowAccess ⟨0, 0, 0, false, 0⟩ 0 800 0 0 0 0 false [],
  .spmAddrAccess ⟨0, 0, 0, false, 0⟩ 0 800 0 0 false [],
  .winOpenWrite 0 800 0,
  .winCloseWrite 0 800 0,
  .windowDrained 864 0,
  .winOpen 0 800 0 0 0,
  .winClose 0 800 0,
  .winStatus 0 800 0,
  .rangeSet 0 800 0 0,
  .eccRead 0 800,
  .meshPacketInject 864 0 0 0 0,
  .meshFlitRetry 864 0 false,
  .responderRefuse 864 0 0,
  .meshRequestTimeout 864 0,
  .landingHandshakeEnter 864 0 0,
  .landingRecentre 864 0 0,
  .detourWrite 0 800 0 0,
  .rtrCommitArm 0 800 0,
  .rtrCommit 864 0,
  .hbmReadData 0 3,
  .refresh 16 0,
  .dramTempRead 16 0].all (fun c : Instr => !c.wf)) = true := by decide

/-- Each of these commands breaks a check of its row, and the check refuses it. -/
theorem test_ill_formed_2 : ([.msdFail 16 0,
  .proxyInstall 16 0,
  .rebuildComplete 16 0,
  .patrolScrub 16 0 0,
  .engineDoorbell ⟨0, 0, 0, false, 0⟩ 16 0 0,
  .seCommandStart 16 0,
  .seNop 16 0,
  .seAttn 16 0,
  .seGather 16 0,
  .seTopk 16 0,
  .seDigest 16 0,
  .seFence 16 0,
  .seCommandComplete 16 0,
  .slotApplyWrite 0 16 0,
  .slotTableSwitch 16,
  .msdStatus 0 16,
  .offline 0 16,
  .online 0 16,
  .queueClear 0 16 0,
  .parityMode 0 16 0,
  .msdErrRead 0 16,
  .imageLoad (2 ^ 16) 0 0,
  .imageDiscard (2 ^ 16),
  .imageSwitch (2 ^ 16) 0,
  .calCancel (2 ^ 16),
  .imageRollback (2 ^ 16) 0,
  .confirm (2 ^ 16),
  .healthFail (2 ^ 16),
  .releasePrevious (2 ^ 16),
  .storeBoot (2 ^ 16) 0,
  .calStatus (2 ^ 16),
  .switchStopBeat (2 ^ 64),
  .switchActivationStart (2 ^ 64) [],
  .switchBeat (2 ^ 64),
  .watchEnd (2 ^ 64),
  .watchFail 4 0,
  .escMarker 919 0 0,
  .alignExchange (2 ^ 64),
  .alignLost (2 ^ 64),
  .trigCtlArm 0 8 0,
  .triggerFire 9 0,
  .escNow (2 ^ 16),
  .alignStatus (2 ^ 16),
  .trigArm (2 ^ 16) 0 0 0,
  .trigCancel (2 ^ 16) 0,
  .escFaultRead (2 ^ 16),
  .intakeDescriptor 64,
  .stepBoundary (2 ^ 64)].all (fun c : Instr => !c.wf)) = true := by decide

/-- Each of these commands breaks a check of its row, and the check refuses it. -/
theorem test_ill_formed_3 : ([.waitLimitTimeout (2 ^ 64),
  .answerRecordWrite 64 0,
  .answerFlushTimeout 64 0 0,
  .answerIndexWrite 256,
  .answerStallTimeout 64 0 0,
  .coreFail 16,
  .admitCtlWrite 0 2,
  .ringOpen (2 ^ 16) 0 0 0 0,
  .ringClose (2 ^ 16) 0 0,
  .ringStatus (2 ^ 16) 0 0,
  .tokLoad (2 ^ 16) 0 0 0,
  .tokUnload (2 ^ 16) 0,
  .svcCancel (2 ^ 16) 0 0,
  .reqStatus (2 ^ 16) 0 0,
  .svcAdmit (2 ^ 16) 0,
  .prefixFlush (2 ^ 16),
  .svcStats (2 ^ 16),
  .serPortTrain 2 0 0 0,
  .serInitFlit 2 0 0 0 0 0 0,
  .serPortDown 2,
  .serProtocolError 2,
  .rdShared 2 0 0,
  .rdOwn 2 0 0,
  .upgrade 2 0 0,
  .evictDirty 2 0 0 [],
  .evictClean 2 0 0,
  .rdNc 2 0 0 0 0,
  .wrLine 2 0 0 0 [],
  .wrPart 2 0 0 0 0 [],
  .cmp 2 0,
  .cmpData 2 0 0 [],
  .errResponse 2 0 0,
  .snpAck 2 0 0 0,
  .snpData 2 0 0 0 [],
  .snpInv 2 0 0,
  .snpShare 2 0 0,
  .serRequestTimeout 2 0,
  .ownStand 65536 0 0,
  .ownWithdraw 65536 0,
  .ownRenew 65536 0,
  .ownResign 65536 0,
  .ownOffer 65536 0 0,
  .ownAccept 65536 0,
  .serCohWrite 0 (2 ^ 64),
  .grantWrite 0 16 0,
  .fabHello 18 0 0 0 0 0 0 0,
  .ctrlMembers ⟨0, 0, 0, 0, 0, 0, 0, 0, 0, 0, 0, 0, 0, 0, 0, 99⟩ 0,
  .ctrlGroups ⟨0, 0, 0, 0, 0, 0, 0, 0, 0, 0, 0, 0, 0, 0, 0, 99⟩ 0].all (fun c : Instr => !c.wf)) = true := by decide

/-- Each of these commands breaks a check of its row, and the check refuses it. -/
theorem test_ill_formed_4 : ([.fabWrite ⟨0, 0, 0, 0, 0, 0, 0, 0, 0, 0, 0, 0, 0, 0, 0, 99⟩ 0 [],
  .fabSignal ⟨0, 0, 0, 0, 0, 0, 0, 0, 0, 0, 0, 0, 0, 0, 0, 99⟩,
  .fabAck ⟨0, 0, 0, 0, 0, 0, 0, 0, 0, 0, 0, 0, 0, 0, 0, 99⟩,
  .fabNak ⟨0, 0, 0, 0, 0, 0, 0, 0, 0, 0, 0, 0, 0, 0, 0, 99⟩,
  .e2eRetryTimeout 256 0,
  .fabFlitRetry 18 0 false,
  .fabCollPacket ⟨0, 0, 0, 0, 0, 0, 0, 0, 0, 0, 0, 0, 0, 0, 0, 99⟩ [],
  .fabBarrier ⟨0, 0, 0, 0, 0, 0, 0, 0, 0, 0, 0, 0, 0, 0, 0, 99⟩,
  .fabRelease ⟨0, 0, 0, 0, 0, 0, 0, 0, 0, 0, 0, 0, 0, 0, 0, 99⟩,
  .fabTime ⟨0, 0, 0, 0, 0, 0, 0, 0, 0, 0, 0, 0, 0, 0, 0, 99⟩ 0 0 0 false,
  .fabAnswer ⟨0, 0, 0, 0, 0, 0, 0, 0, 0, 0, 0, 0, 0, 0, 0, 99⟩ [],
  .ctrlHeartbeat ⟨0, 0, 0, 0, 0, 0, 0, 0, 0, 0, 0, 0, 0, 0, 0, 99⟩ 0 0,
  .memberLost 16 0,
  .ctrlDigest ⟨0, 0, 0, 0, 0, 0, 0, 0, 0, 0, 0, 0, 0, 0, 0, 99⟩ 0 0 0 [],
  .ctrlExpel ⟨0, 0, 0, 0, 0, 0, 0, 0, 0, 0, 0, 0, 0, 0, 0, 99⟩ false [] 0,
  .ctrlSwitch ⟨0, 0, 0, 0, 0, 0, 0, 0, 0, 0, 0, 0, 0, 0, 0, 99⟩ 0 0 0,
  .ctrlSwitchAck ⟨0, 0, 0, 0, 0, 0, 0, 0, 0, 0, 0, 0, 0, 0, 0, 99⟩ 0 0,
  .ctrlCollFail ⟨0, 0, 0, 0, 0, 0, 0, 0, 0, 0, 0, 0, 0, 0, 0, 99⟩ 0 0,
  .routeRequest 0 17 0,
  .laneFail 18 0,
  .relayInstall 256 [],
  .collAllReduce 16,
  .collReduceScatter 16,
  .collAllGather 16,
  .collBroadcast 16,
  .collBarrier 16,
  .collComplete 16,
  .lgStatus 0 2 0,
  .fabErrRead 0 2,
  .collClear 0 2 0,
  .groupSwitch 0 2 0 0,
  .groupRollback 0 2 0,
  .fabExpel 0 2 0,
  .rejoin 0 2 0,
  .fabMembersStatus 0 2,
  .phaseLost 144 0,
  .crackDetect 144 0 0,
  .crackPersist 144 0,
  .shortDetect 144,
  .efuseOpen 144,
  .capTick 65536 0 0 0,
  .galleryCurrentTick 144 0 false,
  .sensorRead 164 [] 0,
  .thermalSoftTick 144,
  .heatPark 144 0,
  .heatUnpark 144 0,
  .thermalTrip 163,
  .marginAlert 864 false 0].all (fun c : Instr => !c.wf)) = true := by decide

/-- Each of these commands breaks a check of its row, and the check refuses it. -/
theorem test_ill_formed_5 : ([.alertHoldEnd 864 0,
  .fmaxRefine 864 0,
  .galPowerRequest 144 0,
  .galRampDone 144 0,
  .galOn 144 0 0,
  .pmbusPowerLimit false 65536,
  .capSetWrite 0 65536,
  .clkModeWrite 0 2,
  .fsetWrite 0 864 0,
  .faultReport 0 0 256 0 0,
  .ctrlPoll 144 0 0,
  .move 800 0 [] 0,
  .trialRun 864 false false 0,
  .bruStatus 65536,
  .logExport 65536 0 0 0,
  .fenceMove 65536 0,
  .fwUpdate 65536 0 0 0,
  .bruReset 65536 false,
  .counterThaw (2 ^ 64),
  .counterClearBeat (2 ^ 64),
  .autoHangScan (2 ^ 64),
  .obsThaw (2 ^ 16) 0,
  .obsClear (2 ^ 16) 0,
  .snapNow (2 ^ 16),
  .traceDump (2 ^ 16) 0 0 0,
  .hangScan (2 ^ 16) 0 0,
  .i3cCsRead (2 ^ 48),
  .i3cCsWrite (2 ^ 48) 0,
  .i3cRecAck (2 ^ 64),
  .jtagExtest 3 false [] [],
  .jtagIdcode 3,
  .jtagSamplePreload 3 [] [],
  .jtagClamp 3 false,
  .jtagHighz 3 false,
  .jtagBypass 3,
  .serFlitReplay 2,
  .stairLinkRetrain 2560,
  .msdBufferAccess ⟨0, 0, 0, false, 0⟩ 0 16 0 0 false [],
  .badOpcodeCommand 864 0 0,
  .fabReservedPacket ⟨0, 0, 0, 0, 0, 0, 0, 0, 0, 0, 0, 0, 0, 0, 0, 99⟩,
  .i3cOtherOp 256,
  .pmbusOtherCommand 256,
  .stageMemoryTraining [16] 0,
  .stageSelfTests [864] 0,
  .homeAgentAccess ⟨0, 0, 0, false, 0⟩ 0 1 64 false [],
  .moduleTrip 5,
  .fwRolloutRound 0 [864] 0,
  .traceLostRecord 864].all (fun c : Instr => !c.wf)) = true := by decide

/-- Each of these commands breaks a check of its row, and the check refuses it. -/
theorem test_ill_formed_6 : ([.trcRearm 0 999 0,
  .trcDataRead 2002].all (fun c : Instr => !c.wf)) = true := by decide

end Sys2Proof.Tests
end

section
/-! PROOFS. The vector unit (04 R118, R119, R130-R136): a row's writes, the run of a command, its launch and its completion. -/
namespace Sys2Proof.Machine

/-! ### What a run of the vector unit leaves alone -/

/-- The registers a run of the vector unit may write: the arithmetic flags of its cluster with their counters (03 R108), and what
counts. -/
def VecReg (p k : Nat) : Prop := Tally k ∨ k = rClArithFlags p ∨ ∃ i, i < 6 ∧ k = rClArithFlagsCnt p i

/-- From `s` to `t` the vector unit of cluster `p` may have written its scratchpad, whose error lists it may have shortened, and its
flags. -/
structure VecStep (p : Nat) (s t : State) : Prop where
  regs : ∀ k, ¬ VecReg p k → rd t k = rd s k
  mem : t.hbm = s.hbm ∧ t.buf = s.buf ∧ t.lmap = s.lmap
  others : Others p s t
  mine : ∃ b f, cluster t p = { cluster s p with badWords := b, fixWords := f }
  clean : (cluster s p).badWords = [] → (cluster t p).badWords = []

theorem VecStep.refl (p : Nat) (s : State) : VecStep p s s :=
  ⟨fun _ _ => rfl, ⟨rfl, rfl, rfl⟩, fun _ _ => rfl, ⟨_, _, rfl⟩, id⟩

theorem VecStep.trans {p : Nat} {s t u : State} (h : VecStep p s t) (g : VecStep p t u) : VecStep p s u := by
  obtain ⟨h1, h2, h3⟩ := h.mem
  obtain ⟨g1, g2, g3⟩ := g.mem
  obtain ⟨b, f, e⟩ := h.mine
  obtain ⟨b', f', e'⟩ := g.mine
  exact ⟨fun k hk => (g.regs k hk).trans (h.regs k hk), ⟨g1.trans h1, g2.trans h2, g3.trans h3⟩,
    fun q hq => (g.others q hq).trans (h.others q hq), ⟨b', f', by rw [e', e]⟩, g.clean ∘ h.clean⟩

theorem VecStep.foldl {p : Nat} {α : Type} {f : State → α → State} (l : List α) (hf : ∀ s, ∀ x ∈ l, VecStep p s (f s x)) (s : State) :
    VecStep p s (l.foldl f s) := by
  induction l generalizing s with
  | nil => exact .refl p s
  | cons a t ih => exact (hf s a List.mem_cons_self).trans (ih (fun s x hx => hf s x (List.mem_cons_of_mem _ hx)) _)

theorem VecStep.of_quiet {p : Nat} {s t : State} (h : Quiet s t) : VecStep p s t :=
  ⟨fun k hk => h.regs k (fun hT => hk (.inl hT)), ⟨h.mem.2.1, h.mem.2.2, h.units.1⟩, fun q _ => h.cluster_eq q,
    ⟨_, _, h.cluster_eq p⟩, fun hb => (congrArg Cluster.badWords (h.cluster_eq p)).trans hb⟩

theorem VecStep.of_wr {p k : Nat} (hk : VecReg p k) (v : Word) (s : State) : VecStep p s (wr k v s) :=
  ⟨fun j hj => rd_wr_other (fun e => hj (by rw [← e]; exact hk)) v s, ⟨rfl, rfl, rfl⟩, fun _ _ => rfl, ⟨_, _, rfl⟩, id⟩

theorem VecStep.streamSame {p st : Nat} (hst : st < 32) {s t : State} (h : VecStep p s t) : StreamSame p st s t := by
  obtain ⟨b, f, e⟩ := h.mine
  refine ⟨h.regs _ ?_, by unfold streamOf; rw [e]⟩
  simp only [VecReg, rClStream, rClArithFlags, rClArithFlagsCnt, clBase, Tally]
  omega

theorem VecStep.semOf_eq {p i : Nat} (hi : i < 64) {s t : State} (h : VecStep p s t) : semOf t p i = semOf s p i := by
  unfold semOf fld
  rw [h.regs]
  simp only [VecReg, rClSem, rClArithFlags, rClArithFlagsCnt, clBase, Tally]
  omega

/-! ### Rows -/

theorem vecStep_spmStore (p o : Nat) (l : List Byte) (s : State) : VecStep p s (spmStore p o l s) := by
  unfold spmStore
  dsimp only
  split
  · refine ⟨fun _ _ => rfl, ⟨rfl, rfl, rfl⟩, fun q hq => ?_, ⟨_, _, cluster_setCluster_same _ _ _⟩, fun hb => ?_⟩
    · rw [cluster_setCluster, if_neg (Ne.symm hq), cluster_spmWrite]
    · rw [cluster_setCluster_same, cluster_spmWrite, hb, List.filter_nil]
  · exact ⟨fun _ _ => rfl, ⟨rfl, rfl, rfl⟩, fun _ _ => rfl, ⟨_, _, rfl⟩, id⟩

theorem vecStep_applyWrites (p : Nat) (ws : List (Nat × List Byte)) (s : State) : VecStep p s (applyWrites p ws s) := by
  unfold applyWrites
  exact .foldl ws (fun s e _ => vecStep_spmStore p e.1 e.2 s) s

/-- Row `r` read from `src`, or from the present state where there is none, worked out and written. -/
def rowStep (p o f : Nat) (repro : Bool) (d : List Byte) (src : Option State) (x : State) (r : Nat) : State :=
  { applyWrites p (rowWork (src.getD x) p o f repro d r).writes x with free := x.free + 1 }

theorem vecStep_rowStep (p o f : Nat) (repro : Bool) (d : List Byte) (src : Option State) (x : State) (r : Nat) :
    VecStep p x (rowStep p o f repro d src x r) := by
  obtain ⟨hregs, hmem, hothers, hmine, hclean⟩ := vecStep_applyWrites p (rowWork (src.getD x) p o f repro d r).writes x
  exact ⟨hregs, hmem, hothers, hmine, hclean⟩

theorem spmBad_clean {s : State} {p : Nat} (hb : (cluster s p).badWords = []) (o n : Nat) : spmBad s p o n = false := by
  unfold spmBad
  rw [hb, List.any_nil]

theorem spmPartBad_clean {s : State} {p : Nat} (hb : (cluster s p).badWords = []) (o n : Nat) : spmPartBad s p o n = false := by
  unfold spmPartBad
  rw [hb, List.any_nil]

/-- In a scratchpad without errors every row is done, one after another (04 R135, log 20). -/
theorem vecRows_clean (p o f : Nat) (repro : Bool) (d : List Byte) (src : Option State) (rs : List Nat) (fl : Nat) (s : State)
    (hb : (cluster s p).badWords = []) :
    ∃ fl', vecRows p o f repro d src rs fl s = (0, fl', rs.foldl (rowStep p o f repro d src) s) := by
  induction rs generalizing fl s with
  | nil => exact ⟨fl, rfl⟩
  | cons r t ih =>
    have hread : (rowReads o f d r).find? (fun e => spmBad s p e.1 e.2) = none := by simp [spmBad_clean hb]
    have hwrite : ((rowWork (src.getD s) p o f repro d r).writes.any fun e => spmPartBad s p e.1 e.2.length) = false := by
      simp [spmPartBad_clean hb]
    obtain ⟨fl', e⟩ := ih (fl ||| (rowWork (src.getD s) p o f repro d r).flags) (rowStep p o f repro d src s r)
      ((vecStep_rowStep p o f repro d src s r).clean hb)
    refine ⟨fl', ?_⟩
    unfold vecRows
    rw [hread]
    dsimp only
    rw [hwrite, if_neg Bool.false_ne_true]
    exact e

/-- The rows of a command as the statements write them: a transposition keeps the state it begins in as its source (04 R136). -/
theorem foldl_rowStep_eq_rowsDone (p o f : Nat) (repro : Bool) (d : List Byte) (v : State) (n : Nat) :
    (List.range n).foldl (rowStep p o f repro d (if o = 0x36 ∧ f = 2 then some v else none)) v = rowsDone p o f repro d v n := by
  unfold rowsDone
  congr 1
  funext x r
  by_cases h : o = 0x36 ∧ f = 2
  · rw [if_pos h, if_pos (show o = opVecMove ∧ f = 2 from h)]
    rfl
  · rw [if_neg h, if_neg (show ¬ (o = opVecMove ∧ f = 2) from h)]
    rfl

/-! ### A command runs -/

theorem vecStep_raiseArith (p mask : Nat) (ids : Ids) (s : State) : VecStep p s (raiseArith p mask ids s) := by
  unfold raiseArith
  refine .foldl _ (fun s i hi => ?_) s
  have hi6 : i < 6 := (mem_bitsOf.mp hi).1
  exact ((VecStep.of_wr (.inr (.inl rfl)) _ s).trans (.of_wr (.inr (.inr ⟨i, hi6, rfl⟩)) _ _)).trans (.of_quiet (quiet_countCl ..))

/-- Arithmetic flags and counters are no part of the scratchpads. -/
theorem raiseArith_spm (p mask : Nat) (ids : Ids) (s : State) : (raiseArith p mask ids s).spm = s.spm := by
  unfold raiseArith
  generalize bitsOf 6 mask = l
  induction l generalizing s with
  | nil => rfl
  | cons i t ih => rw [List.foldl_cons, ih, (quiet_countCl ..).mem.1, raise_spm]

/-- A command that passes its checks on a scratchpad without errors ends well, with its rows done (04 R135). -/
theorem vecRun_clean {p : Nat} {j : VecJob} {s : State} (hc : vecCause s p j.l.cmd = 0) (hb : (cluster s p).badWords = []) :
    ∃ t, vecRun p j s = (0, t) ∧ VecStep p s t ∧
      t.spm = (rowsDone p (cOpcode j.l.cmd) (cOpB j.l.cmd) j.repro (spmRead s p (cOpA j.l.cmd) 64) s
        (vRows (spmRead s p (cOpA j.l.cmd) 64))).spm := by
  unfold vecRun
  dsimp only
  rw [hc, if_neg (by simp)]
  generalize cOpcode j.l.cmd = o
  generalize cOpB j.l.cmd = f
  generalize spmRead s p (cOpA j.l.cmd) 64 = d
  obtain ⟨fl, e⟩ := vecRows_clean p o f j.repro d (if o = 0x36 ∧ f = 2 then some s else none) (List.range (vRows d)) 0 s hb
  have hrows : VecStep p s ((List.range (vRows d)).foldl (rowStep p o f j.repro d (if o = 0x36 ∧ f = 2 then some s else none)) s) :=
    .foldl _ (fun x r _ => vecStep_rowStep p o f j.repro d _ x r) s
  rw [foldl_rowStep_eq_rowsDone] at e hrows
  rw [e]
  refine ⟨_, rfl, (hrows.trans (vecStep_raiseArith p fl (cIds j.l.cmd) _)).trans (.of_quiet (quiet_countCl ..)), ?_⟩
  rw [(quiet_countCl ..).mem.1, raiseArith_spm]

/-- A job as the executing command: `ran`, with the ranges it reserves (05 R162). -/
def VecJob.executing (j : VecJob) (ranges : Nat) : VecJob := { j with ran := true, ranges := ranges }

/-- The head of the queue, when it passes its checks on a scratchpad without errors, runs and becomes the executing command (04
R118). -/
theorem vecAdvance_head {p n : Nat} {j : VecJob} {rest : List VecJob} {s : State} (hv : (cluster s p).vec = j :: rest)
    (hj : j.ran = false) (hc : vecCause s p j.l.cmd = 0) (hb : (cluster s p).badWords = []) :
    ∃ u m, vecAdvance p (n + 1) s = modCluster p (fun c => { c with vec := j.executing m :: rest }) u ∧ VecStep p s u ∧
      u.spm = (rowsDone p (cOpcode j.l.cmd) (cOpB j.l.cmd) j.repro (spmRead s p (cOpA j.l.cmd) 64) s
        (vRows (spmRead s p (cOpA j.l.cmd) 64))).spm := by
  obtain ⟨u, e, hstep, hspm⟩ := vecRun_clean hc hb
  refine ⟨u, vRanges (cOpcode j.l.cmd) (cOpB j.l.cmd) (spmRead u p (cOpA j.l.cmd) 64), ?_, hstep, hspm⟩
  unfold vecAdvance
  rw [hv]
  dsimp only
  rw [hj, if_neg Bool.false_ne_true, e]
  rfl

/-- What the checks look at: the bytes of the scratchpad, its errors and the states of its ranges (04 R135). -/
theorem vecCause_congr {s t : State} {p : Nat} (hspm : t.spm = s.spm) (hbad : (cluster t p).badWords = (cluster s p).badWords)
    (hrange : rd t (rClSpmRange p) = rd s (rClSpmRange p)) (c : Cmd) : vecCause t p c = vecCause s p c := by
  have h1 : ∀ a n, spmRead t p a n = spmRead s p a n := fun a n => by unfold spmRead; rw [hspm]
  have h2 : ∀ a n, spmBad t p a n = spmBad s p a n := fun a n => by unfold spmBad; rw [hbad]
  have h3 : ∀ m, rangesOpen t p m = rangesOpen s p m := fun m => by unfold rangesOpen rangeState rdN; rw [hrange]
  unfold vecCause spmOpen
  simp only [h1, h2, h3]

/-! ### No launch takes a free value -/

theorem foldl_free {α : Type} {f : State → α → State} (hf : ∀ s x, (f s x).free = s.free) (l : List α) (s : State) :
    (l.foldl f s).free = s.free := by
  induction l generalizing s with
  | nil => rfl
  | cons a t ih => rw [List.foldl_cons, ih, hf]

theorem countOne_free (cfg cnt done : Nat) (i : Ids) (n : Nat) (s : State) : (countOne cfg cnt done i n s).free = s.free := by
  unfold countOne
  dsimp only
  split
  · split <;> rfl
  · split <;> rfl

theorem countCl_free (p ev : Nat) (i : Ids) (n : Nat) (s : State) : (countCl p ev i n s).free = s.free := by
  unfold countCl
  split
  · rfl
  · exact foldl_free (fun _ _ => countOne_free ..) _ s

theorem countLaunch_free (p : Nat) (evs : List Nat) (i : Ids) (s : State) : (countLaunch p evs i s).free = s.free := by
  unfold countLaunch
  split
  · rfl
  · dsimp only
    refine foldl_free (fun s e => ?_) _ s
    rw [wr_free, wr_free]

theorem traceRec_free (u ty src : Nat) (i : Ids) (l : List Byte) (s : State) : (traceRec u ty src i l s).free = s.free := by
  unfold traceRec
  dsimp only
  split
  · split <;> rfl
  · split
    · rfl
    · split <;> rfl

theorem leaveHead_free (p st : Nat) (h : Head) (s : State) : (leaveHead p st h s).free = s.free := by
  unfold leaveHead
  dsimp only
  split <;> split <;> rfl

theorem addPeriod_free (p : Nat) (h : Head) (s : State) : (addPeriod p h s).free = s.free := by
  unfold addPeriod
  dsimp only
  split <;> rfl

theorem lateLaunch_free (p : Nat) (l : Launched) (n : Nat) (s : State) : (lateLaunch p l n s).free = s.free := by
  unfold lateLaunch
  simp only [traceRec_free, countCl_free, apply_ite State.free, wr_free, raise_free, setFlds_free, ite_self]

theorem launchedAt_free (p st : Nat) (h : Head) (s : State) : (launchedAt p st h s).free = s.free := by
  unfold launchedAt
  simp only [apply_ite State.free, lateLaunch_free, traceRec_free, countLaunch_free, countCl_free, addPeriod_free, leaveHead_free,
    modCluster_free, ite_self]

/-! ### The launch of a vector command -/

/-- The registers that the launch of a vector command and its run may write. -/
def VecLaunchReg (p st : Nat) (c : Cmd) (k : Nat) : Prop :=
  LaunchReg p st c k ∨ k = rClArithFlags p ∨ ∃ i, i < 6 ∧ k = rClArithFlagsCnt p i

theorem VecLaunchReg.of_launched {p st k : Nat} {c : Cmd} (h : LaunchedReg p st k) : VecLaunchReg p st c k := by
  rcases h with h | h | h
  · exact .inl (.inl h)
  · exact .inl (.inr (.inl h))
  · exact .inl (.inr (.inr (.inr h)))

theorem VecLaunchReg.of_vec {p st k : Nat} {c : Cmd} (h : VecReg p k) : VecLaunchReg p st c k := h.imp_left .inl

theorem range_not_launched {p st : Nat} (hst : st < 32) : ¬ LaunchedReg p st (rClSpmRange p) := by
  simp only [LaunchedReg, rClSpmRange, rClStream, rClEscLate, rClEscLateCnt, rClEscLateBy, rClEscLateMax, clBase, Tally]
  omega

theorem arithCtrl_not_launched {p st : Nat} (hst : st < 32) : ¬ LaunchedReg p st (rClArithCtrl p) := by
  simp only [LaunchedReg, rClArithCtrl, rClStream, rClEscLate, rClEscLateCnt, rClEscLateBy, rClEscLateMax, clBase, Tally]
  omega

/-- What the launch of a vector command with opcode `o` on an idle unit leaves: the stream past its head, the rows done, the command
the executing one, and nothing else. -/
def VecLaunched (u : State) (p st o : Nat) (h : Head) (t : State) : Prop :=
  let d := spmRead u p (cOpA h.cmd) 64
  let repro := fld u (rClArithCtrl p) fClArithCtrlRepro == 1
  PastHead u t p st h ∧
  (∃ v, v.spm = u.spm ∧ v.free = u.free ∧ (cluster v p).badWords = [] ∧
    t.spm = (rowsDone p o (cOpB h.cmd) repro d v (vRows d)).spm) ∧
  (∃ j, (cluster t p).vec = [j] ∧ j.l = launchedAs u p st h ∧ j.ran = true ∧ j.repro = repro) ∧ Others p u t ∧
  SpmBut (VecLaunchReg p st h.cmd) u t

/-- A launched vector command as its unit keeps it: the mode is that of its launch (03 R106). -/
def queuedJob (p st : Nat) (h : Head) (u : State) : VecJob :=
  ⟨launchedCmd p st h u, fld u (rClArithCtrl p) fClArithCtrlRepro == 1, false, 0⟩

/-- The state in which a launched vector command stands in its unit's queue. -/
def vecQueued (p st : Nat) (h : Head) (u : State) : State :=
  modCluster p (fun c => { c with vec := c.vec ++ [queuedJob p st h u] }) (launchedAt p st h u)

/-- What is the same in a state in which a launched command stands in the queue of an idle unit, and what differs. -/
structure VecQueued (u : State) (p st : Nat) (h : Head) (q : State) : Prop where
  regs : ∀ k, ¬ LaunchedReg p st k → rd q k = rd u k
  mem : q.spm = u.spm ∧ q.hbm = u.hbm ∧ q.buf = u.buf ∧ q.lmap = u.lmap
  others : Others p u q
  vec : (cluster q p).vec = [queuedJob p st h u]
  bad : (cluster q p).badWords = (cluster u p).badWords
  free : q.free = u.free
  past : PastHead u q p st h

theorem vecQueued_idle {u : State} {p st : Nat} {h : Head} (hp : p < 864) (hst : st < 32) (hv : (cluster u p).vec = []) :
    VecQueued u p st h (vecQueued p st h u) := by
  have hL := launchStep_launchedAt hp st h u
  obtain ⟨z, m, n, hmine⟩ := hL.mine
  unfold vecQueued
  refine ⟨hL.regs, hL.mem, fun x hx => (cluster_modCluster_other hx _ _).trans (hL.others x hx), ?_, ?_, launchedAt_free p st h u,
    (past_launchedAt hp hst h u).mono ⟨rfl, ?_⟩⟩
  · rw [cluster_modCluster_same, hmine, hv]
    rfl
  · rw [cluster_modCluster_same, hmine]
  · unfold streamOf
    rw [cluster_modCluster_same]

theorem vecEnqueue_idle {u : State} {p st : Nat} {h : Head} (hp : p < 864) (hst : st < 32) (hv : (cluster u p).vec = []) :
    vecEnqueue p (launchedCmd p st h u) (launchedAt p st h u) = vecAdvance p 1 (vecQueued p st h u) := by
  have hjob : (⟨launchedCmd p st h u, fld (launchedAt p st h u) (rClArithCtrl p) fClArithCtrlRepro == 1, false, 0⟩ : VecJob) =
      queuedJob p st h u := by
    unfold queuedJob fld
    rw [(launchStep_launchedAt hp st h u).regs _ (arithCtrl_not_launched hst)]
  unfold vecEnqueue
  dsimp only
  rw [hjob]
  show vecAdvance p (cluster (vecQueued p st h u) p).vec.length (vecQueued p st h u) = _
  rw [(vecQueued_idle hp hst hv).vec, List.length_singleton]

theorem vecEnqueue_launched {u : State} {p st : Nat} {h : Head} (hp : p < 864) (hst : st < 32) (hv : (cluster u p).vec = [])
    (hc : vecCause u p h.cmd = 0) (hb : (cluster u p).badWords = []) :
    VecLaunched u p st (cOpcode h.cmd) h (vecEnqueue p (launchedCmd p st h u) (launchedAt p st h u)) := by
  rw [vecEnqueue_idle hp hst hv]
  have hQ := vecQueued_idle (h := h) hp hst hv
  generalize vecQueued p st h u = q at hQ ⊢
  obtain ⟨hspm, hhbm, hbuf, hlmap⟩ := hQ.mem
  have hqbad : (cluster q p).badWords = [] := hQ.bad.trans hb
  have hqcause : vecCause q p h.cmd = 0 := (vecCause_congr hspm hQ.bad (hQ.regs _ (range_not_launched hst)) _).trans hc
  have hqread : spmRead q p (cOpA h.cmd) 64 = spmRead u p (cOpA h.cmd) 64 := by unfold spmRead; rw [hspm]
  obtain ⟨w, r, e, hstep, hwspm⟩ := vecAdvance_head (n := 0) hQ.vec rfl hqcause hqbad
  rw [show (queuedJob p st h u).l.cmd = h.cmd from rfl, hqread] at hwspm
  obtain ⟨h1, h2, h3⟩ := hstep.mem
  rw [e]
  refine ⟨hQ.past.mono ((hstep.streamSame hst).trans ⟨rfl, ?_⟩), ⟨q, hspm, hQ.free, hqbad, hwspm⟩,
    ⟨(queuedJob p st h u).executing r, by rw [cluster_modCluster_same], rfl, rfl, rfl⟩, fun x hx => ?_,
    h1.trans hhbm, h2.trans hbuf, h3.trans hlmap, fun k hk => ?_⟩
  · unfold streamOf
    rw [cluster_modCluster_same]
  · exact (cluster_modCluster_other hx _ w).trans ((hstep.others x hx).trans (hQ.others x hx))
  · exact (hstep.regs k (fun h => hk (.of_vec h))).trans (hQ.regs k (fun h => hk (.of_launched h)))

/-- A vector command that launches on an idle unit, with a descriptor that passes its checks and no error in the scratchpad, runs. -/
theorem vecCommand_completes {c : Instr} {s : State} {p st b o : Nat} {h : Head} (hp : p < 864) (hst : st < 32)
    (hx : exec c s = onUnits p nClusters st 32 s (launchVec p st b o)) (hl : Launches (advanceTo b s) p st o h)
    (hv : (cluster (advanceTo b s) p).vec = []) (hc : vecCause (advanceTo b s) p h.cmd = 0)
    (hb : (cluster (advanceTo b s) p).badWords = []) : Completes c s (VecLaunched (advanceTo b s) p st o h) := by
  refine ⟨_, hx.trans (nx_cs hp hst s _), ?_⟩
  unfold launchVec
  rw [launch_eq hl (op := (· == o)) (beq_self_eq_true o) (by unfold vecRoom; rw [hv]; rfl)]
  obtain ⟨-, -, -, ho, -⟩ := hl
  rw [← ho]
  exact vecEnqueue_launched hp hst hv hc hb

/-! ### The completion of a vector command -/

/-- The executing command's completion, and the queue behind it going on (04 R118). -/
theorem exec_vecComplete {s : State} {p : Nat} {j : VecJob} {rest : List VecJob} (hp : p < 864) (hv : (cluster s p).vec = j :: rest)
    (hj : j.ran = true) : exec (.vecComplete p) s =
      .next (vecAdvance p rest.length (complete p j.l (modCluster p (fun c => { c with vec := rest }) s))) := by
  show execVecComplete p s = _
  unfold execVecComplete
  rw [nx_c hp, hv]
  dsimp only
  rw [hj]
  rfl

/-- The last command of the queue completes: done_add is applied, and nothing else changes (04 R119). -/
theorem vecComplete_last {s : State} {p : Nat} {j : VecJob} (hp : p < 864) (hj : j.ran = true) (hv : (cluster s p).vec = [j]) :
    Completes (.vecComplete p) s (fun t => (cluster t p).vec = [] ∧ DoneAdded s t p j.l.cmd ∧ Others p s t ∧
      SameBut (fun k => Tally k ∨ k = rClSem p (cDoneSem j.l.cmd)) s t) := by
  refine ⟨_, exec_vecComplete hp hv hj, ?_⟩
  have hC := completed_complete hp j.l (modCluster p (fun c => { c with vec := [] }) s)
  obtain ⟨hspm, hhbm, hbuf, hlmap⟩ := hC.mem
  refine ⟨?_, hC.done, fun q hq => (hC.units q).trans (cluster_modCluster_other hq _ s), hspm, hhbm, hbuf, hlmap, fun k hk => ?_⟩
  · show (cluster (complete p j.l _) p).vec = []
    rw [hC.units, cluster_modCluster_same]
  · exact hC.regs k (fun h => hk (.inl h)) (fun h => hk (.inr h))

theorem range_not_sem {p i : Nat} (hi : i < 64) : ¬ Tally (rClSpmRange p) ∧ rClSpmRange p ≠ rClSem p i := by
  simp only [rClSpmRange, rClSem, clBase, Tally]
  omega

/-- The registers that a completion and the run of the next command may write. -/
def VecNextReg (p : Nat) (c : Cmd) (k : Nat) : Prop :=
  Tally k ∨ k = rClSem p (cDoneSem c) ∨ k = rClArithFlags p ∨ ∃ n, n < 6 ∧ k = rClArithFlagsCnt p n

theorem VecNextReg.of_vec {p k : Nat} {c : Cmd} (h : VecReg p k) : VecNextReg p c k := h.imp_right .inr

/-- What the completion of `j` leaves when the next command `k` passes its checks on a scratchpad without errors: done_add applied, the
rows of `k` done, and `k` the executing command (04 R118, R119). -/
def VecWentOn (s : State) (p : Nat) (j k : VecJob) (rest : List VecJob) (t : State) : Prop :=
  let d := spmRead s p (cOpA k.l.cmd) 64
  DoneAdded s t p j.l.cmd ∧ (∃ k', (cluster t p).vec = k' :: rest ∧ k'.l = k.l ∧ k'.ran = true) ∧
  (∃ v, v.spm = s.spm ∧ (cluster v p).badWords = [] ∧
    t.spm = (rowsDone p (cOpcode k.l.cmd) (cOpB k.l.cmd) k.repro d v (vRows d)).spm) ∧
  Others p s t ∧ SpmBut (VecNextReg p j.l.cmd) s t

theorem vecComplete_next {s : State} {p : Nat} {j k : VecJob} {rest : List VecJob} (hp : p < 864) (hj : j.ran = true)
    (hv : (cluster s p).vec = j :: k :: rest) (hk : k.ran = false) (hc : vecCause s p k.l.cmd = 0) (hb : (cluster s p).badWords = []) :
    Completes (.vecComplete p) s (VecWentOn s p j k rest) := by
  refine ⟨_, exec_vecComplete hp hv hj, ?_⟩
  have hC := completed_complete hp j.l (modCluster p (fun c => { c with vec := k :: rest }) s)
  generalize complete p j.l (modCluster p (fun c => { c with vec := k :: rest }) s) = a at hC ⊢
  obtain ⟨hspm, hhbm, hbuf, hlmap⟩ := hC.mem
  have hsem := doneSem_lt j.l.cmd
  have hac : cluster a p = { cluster s p with vec := k :: rest } := by rw [hC.units, cluster_modCluster_same]
  have habad : (cluster a p).badWords = [] := by rw [hac]; exact hb
  have hacause : vecCause a p k.l.cmd = 0 := by
    rw [vecCause_congr (s := s) hspm (habad.trans hb.symm) (hC.regs _ (range_not_sem hsem).1 (range_not_sem hsem).2)]
    exact hc
  have haread : spmRead a p (cOpA k.l.cmd) 64 = spmRead s p (cOpA k.l.cmd) 64 := by unfold spmRead; rw [hspm]; rfl
  obtain ⟨w, r, e, hstep, hwspm⟩ := vecAdvance_head (n := rest.length) (by rw [hac]) hk hacause habad
  rw [haread] at hwspm
  obtain ⟨h1, h2, h3⟩ := hstep.mem
  rw [List.length_cons, e]
  refine ⟨?_, ⟨k.executing r, by rw [cluster_modCluster_same], rfl, rfl⟩, ⟨a, hspm, habad, hwspm⟩, fun q hq => ?_,
    h1.trans hhbm, h2.trans hbuf, h3.trans hlmap, fun i hi => ?_⟩
  · exact (hstep.semOf_eq hsem).trans hC.done
  · rw [cluster_modCluster_other hq, hstep.others q hq, hC.units, cluster_modCluster_other hq]
  · exact (hstep.regs i (fun h => hi (.of_vec h))).trans (hC.regs i (fun h => hi (.inl h)) (fun h => hi (.inr (.inl h))))

/-- Settles O20: a launched command goes through `vecCommand_completes`, a completion through `vecComplete_last` or
`vecComplete_next`. -/
theorem vectorCommandsComplete : Obligations.VectorCommandsComplete := by
  unfold Obligations.VectorCommandsComplete
  refine ⟨?_, fun s p j hp hj => ⟨vecComplete_last hp hj, fun k rest hv hk hc hb => vecComplete_next hp hj hv hk hc hb⟩⟩
  intro s p st b h hp hst u d repro K runs
  have hruns : ∀ c o, exec c s = onUnits p nClusters st 32 s (launchVec p st b o) → runs c o :=
    fun c o hx hl hv hc hb => vecCommand_completes hp hst hx hl hv hc hb
  exact ⟨hruns _ _ rfl, hruns _ _ rfl, hruns _ _ rfl, hruns _ _ rfl, hruns _ _ rfl, hruns _ _ rfl, hruns _ _ rfl⟩

end Sys2Proof.Machine
end
